-- ==== Sys2Proof/Word.lean ====
section
/-! DEFINITION. The words of the machine: bytes and 32-bit words (R3). -/

namespace Sys2Proof

/-- A byte, 8 bits (R3). -/
abbrev Byte := BitVec 8

/-- A word, 32 bits (R3). -/
abbrev Word := BitVec 32

end Sys2Proof
end

