-- ==== Sys2Proof/Config.lean ====
section
/-! DEFINITION. What the manual fixes for every NZ-3200 (R14, R221, R32), and the free values: constants with no body
where the manual leaves a value open, so that nothing can be proved of the value itself. -/

namespace Sys2Proof.Config

/-- Bytes of a core's shared memory (R17, R221). -/
def sharedBytes : Nat := 0x180000

/-- Register words of a partition (R32). -/
def partWords : Nat := 65536

/-- Cycles that pass at a step beyond those it takes at least (R18 contention, R455; log 6). -/
opaque freeCycles : Nat → Nat

/-- Which of the 8 cycles a throttled partition withholds (R446; log 85). -/
opaque throttlePhase : Nat

/-- Whether a fetch of a changed code word returns the new word (R106; log 82). -/
opaque freeFetch : Nat → Bool

/-- Bits [1:0] of a digit that a relaxed WMUL writes, by step, team and digit (R299; log 12). -/
opaque freeLow : Nat → Nat → Nat → BitVec 2

/-- Which zero FEXPD keeps as the maximum of +0 and -0 (R219 does not say; log 12). -/
opaque freeZeroSign : Nat → Bool

/-- The rounding taken when an enclosure of a transcendental result still holds a rounding boundary (log 15). -/
opaque hardCase : Nat → Bool

/-- Byte `i` of the signature over an attestation report (R451; log 10). -/
opaque signature : Nat → Nat → Byte

/-- Whether an access of the module to address `a` of peer `p` faults there, which translates it under its own tables (R424;
log 104). -/
opaque peerFaults : Nat → Nat → Nat → Bool

/-- Whether the home of a word applies the sent write of transfer `i` at a step (R365; log 103). -/
opaque homeApplies : Nat → Nat → Bool

/-- A value the manual does not state (log 12), by a number that says which. -/
opaque freeWord : Nat → Word

end Sys2Proof.Config
end

