-- ==== Sys2Proof/Syntax.lean ====
section
/-! DEFINITION. The syntax of the NZ-3200: one constructor for each row of spec/opcode_table.json. The first 256
are the instruction words of R101, their fields the bytes and immediates of the three forms of R94 (those of UDF and PRIO are
read from the instruction register, log 11); the other 96 are the steps that no word names
(95_what_each_step_holds.md): what such a step acts on stands in the field `ev` of the state. Constructors with
fields come first, because Lean's runtime numbers at most 244 of them. -/

namespace Sys2Proof

/-- The instructions and steps of the NZ-3200. -/
inductive Instr where
  /-- Moves the current path to a signed word offset (R165). -/
  | jmp (i : BitVec 24)
  /-- Moves the current path to the target when the scalar register is non-zero (R165). -/
  | brs (d : Byte) (i : BitVec 16)
  /-- Splits the current path by a predicate, forming a new path at the target for the true running lanes (R159). -/
  | brp (d : Byte) (i : BitVec 16)
  /-- Raises nesting counters of lanes failing the predicate and skips forward when the path becomes dormant (R155). -/
  | ifP (d : Byte) (i : BitVec 16)
  /-- Swaps counters 0 and 1 and skips to ENDIF when the path becomes dormant (R155). -/
  | elseP (i : BitVec 16)
  /-- Raises non-zero counters by two, or jumps past ENDLOOP when the path is dormant (R155). -/
  | loop (i : BitVec 24)
  /-- Resets counters of 1, then branches back if any lane is at 0, else lowers counters by two and falls through (R155). -/
  | endloop (i : BitVec 24)
  /-- Sets the counter of each running lane with the predicate true to the encoded n (R155). -/
  | breakP (d a : Byte)
  /-- Sets the counter of each running lane with the predicate true to the encoded n (R155). -/
  | contP (d a : Byte)
  /-- Makes a path with the token arrive and wait, merging the token's paths when the join condition holds (R162). -/
  | join (d : Byte) (i : BitVec 16)
  /-- Reads per-lane jump-table entries and regroups lanes into paths by target (R164). -/
  | jtab (d a b : Byte)
  /-- Writes the return address to s30 and moves the current path to the target (R166). -/
  | call (i : BitVec 24)
  /-- Moves the current path to the word offset held in a scalar register (R166). -/
  | ret (a : Byte)
  /-- Copies and checks a control-store macro and executes its words with operand substitution (R115). -/
  | mcall (d a b : Byte)
  /-- Holds the team's next instruction until the L, S, C and M counters meet their limits (R146). -/
  | wait (i : BitVec 24)
  /-- Takes a device-handled trap with cause 0x28 (R400). -/
  | trap (i : BitVec 16)
  /-- Writes one service-ring entry per running lane, advances TAIL and parks the team (R407). -/
  | svc (i : BitVec 16)
  /-- Takes a device-handled trap with cause 0x2A (R400). -/
  | bkpt (i : BitVec 16)
  /-- Sets the mode register to the immediate (R149). -/
  | mode (i : BitVec 24)
  /-- Merges masked bits into the mode register and returns the old value (R149). -/
  | modex (d a b : Byte)
  /-- Reads a control register into a scalar register (R152). -/
  | rdcr (d : Byte) (i : BitVec 16)
  /-- Writes a scalar register into a control register (R152). -/
  | wrcr (d : Byte) (i : BitVec 16)
  /-- Reads the whole 64-bit TMR or CYC into a scalar pair (R153). -/
  | rdtm (d a : Byte)
  /-- Writes a TRACE record to the trace ring (R430). -/
  | trace (d : Byte) (i : BitVec 16)
  /-- Puts the team in a long-latency dependence for 16·n TMR cycles (R148). -/
  | sleep (i : BitVec 16)
  /-- Loads the team's gang register from a scalar register (R151). -/
  | gang (a : Byte)
  /-- Optionally changes the current path's join token and returns path information (R168). -/
  | pathq (d a b : Byte)
  /-- Adds elements with narrowing per ETYPE and SAT (R176). -/
  | add (d a b : Byte)
  /-- Subtracts elements with narrowing (R176). -/
  | sub (d a b : Byte)
  /-- Multiplies elements with narrowing (R176). -/
  | mul (d a b : Byte)
  /-- Writes the high half of each element product (R176). -/
  | mulh (d a b : Byte)
  /-- Adds the element product to the destination with narrowing (R176). -/
  | mad (d a b : Byte)
  /-- Writes the lesser element (R176). -/
  | min (d a b : Byte)
  /-- Writes the greater element (R176). -/
  | max (d a b : Byte)
  /-- Writes the narrowed absolute value of each element (R176). -/
  | abs (d a : Byte)
  /-- Writes the narrowed negation of each element (R176). -/
  | neg (d a : Byte)
  /-- Adds 32-bit words with carry through the carry predicate (R178). -/
  | addc (d a b : Byte)
  /-- Subtracts 32-bit words with borrow through the carry predicate (R178). -/
  | subb (d a b : Byte)
  /-- Unsigned 32-bit division, all ones on division by zero (R179). -/
  | divn (d a b : Byte)
  /-- Unsigned 32-bit remainder, the dividend on division by zero (R179). -/
  | remn (d a b : Byte)
  /-- Adds a signed 16-bit immediate to the destination (R177). -/
  | addi (d : Byte) (i : BitVec 16)
  /-- Multiplies the destination by a signed 16-bit immediate (R177). -/
  | muli (d : Byte) (i : BitVec 16)
  /-- Clamps the destination element between A and B (R176). -/
  | clamp (d a b : Byte)
  /-- Bitwise AND of 32-bit words (R180). -/
  | and (d a b : Byte)
  /-- Bitwise OR of 32-bit words (R180). -/
  | or (d a b : Byte)
  /-- Bitwise XOR of 32-bit words (R180). -/
  | xor (d a b : Byte)
  /-- A AND NOT B of 32-bit words (R180). -/
  | andn (d a b : Byte)
  /-- Bitwise NOT of a 32-bit word (R180). -/
  | not (d a : Byte)
  /-- Logical shift left by a register amount (R180). -/
  | shl (d a b : Byte)
  /-- Logical shift right by a register amount (R180). -/
  | shr (d a b : Byte)
  /-- Arithmetic shift right by a register amount (R180). -/
  | sha (d a b : Byte)
  /-- Rotates a word left by n mod 32 (R180). -/
  | rotl (d a b : Byte)
  /-- Shifts the destination left by an immediate (R180). -/
  | shli (d : Byte) (i : BitVec 16)
  /-- Shifts the destination right logically by an immediate (R180). -/
  | shri (d : Byte) (i : BitVec 16)
  /-- Shifts the destination right arithmetically by an immediate (R180). -/
  | shai (d : Byte) (i : BitVec 16)
  /-- Counts the one bits of a word (R180). -/
  | popc (d a : Byte)
  /-- Counts leading zero bits of a word (R180). -/
  | clz (d a : Byte)
  /-- Reverses the bits of a word (R180). -/
  | brev (d a : Byte)
  /-- Extracts a bit field, optionally sign-extended (R181). -/
  | bfe (d a b : Byte)
  /-- Copies 32 bits, or predicate bits in running lanes (R182). -/
  | mov (d a : Byte)
  /-- Loads a sign-extended 16-bit immediate (R182). -/
  | lit (d : Byte) (i : BitVec 16)
  /-- Replaces the upper half of the destination with an immediate (R182). -/
  | lih (d : Byte) (i : BitVec 16)
  /-- Selects A or B per lane by the predicate named in MR.SELP (R183). -/
  | sel (d a b : Byte)
  /-- Sets a predicate where A equals B (R184). -/
  | setpEq (d a b : Byte)
  /-- Sets a predicate where A differs from B (R184). -/
  | setpNe (d a b : Byte)
  /-- Sets a predicate where A is less than B (R184). -/
  | setpLt (d a b : Byte)
  /-- Sets a predicate where A is at most B (R184). -/
  | setpLe (d a b : Byte)
  /-- Sets a predicate where A is greater than B (R184). -/
  | setpGt (d a b : Byte)
  /-- Sets a predicate where A is at least B (R184). -/
  | setpGe (d a b : Byte)
  /-- ANDs two predicates in running lanes (R185). -/
  | pand (d a b : Byte)
  /-- ORs two predicates in running lanes (R185). -/
  | por (d a b : Byte)
  /-- Inverts a predicate in running lanes (R185). -/
  | pnot (d a : Byte)
  /-- Inserts a bit field into the destination (R181). -/
  | bfi (d a b : Byte)
  /-- Shuffles values within each group by lane index (R186). -/
  | shfl (d a b : Byte)
  /-- Shuffles values across the whole team by lane index (R186). -/
  | shflx (d a b : Byte)
  /-- Broadcasts one lane's value to every running lane (R186). -/
  | bcast (d a b : Byte)
  /-- Reads one lane's value into a scalar (R186). -/
  | lread (d a b : Byte)
  /-- Writes a scalar into one lane of a vector register (R186). -/
  | lwrite (d a b : Byte)
  /-- Writes 1 if any running lane has the predicate set (R187). -/
  | vany (d a : Byte)
  /-- Writes 1 if every running lane has the predicate set (R187). -/
  | vall (d a : Byte)
  /-- Writes the running-and-predicate bits of one group (R187). -/
  | ballot (d a b : Byte)
  /-- Sums running lanes into a scalar, in the fixed tree for floats (R188). -/
  | redadd (d a : Byte)
  /-- Reduces running lanes to their minimum (R188). -/
  | redmin (d a : Byte)
  /-- Reduces running lanes to their maximum (R188). -/
  | redmax (d a : Byte)
  /-- Writes inclusive prefix sums over running lanes (R190). -/
  | scanadd (d a : Byte)
  /-- Writes the number of running lanes (R187). -/
  | lanecnt (d : Byte)
  /-- Writes the lowest running lane with the predicate set (R187). -/
  | ffs (d a : Byte)
  /-- Writes A + 4·B modulo 2^32 (R191). -/
  | lea (d a b : Byte)
  /-- Moves between a predicate and a vector register (R185). -/
  | movp (d a : Byte)
  /-- Adds a sign-extended offset to a 64-bit register pair (R191). -/
  | addp (d a b : Byte)
  /-- Computes a stateless hash of counter and key (R192). -/
  | rand (d a b : Byte)
  /-- Floating-point add rounded under MR.RND (R194). -/
  | fadd (d a b : Byte)
  /-- Floating-point subtract (R194). -/
  | fsub (d a b : Byte)
  /-- Floating-point multiply (R194). -/
  | fmul (d a b : Byte)
  /-- Fused multiply-add with one rounding (R194). -/
  | fma (d a b : Byte)
  /-- Floating-point minimum ignoring a single NaN (R194). -/
  | fmin (d a b : Byte)
  /-- Floating-point maximum ignoring a single NaN (R194). -/
  | fmax (d a b : Byte)
  /-- Clears each element's sign bit (R194). -/
  | fabs (d a : Byte)
  /-- Inverts each element's sign bit (R194). -/
  | fneg (d a : Byte)
  /-- Correctly rounded reciprocal in binary32 (R196). -/
  | frcp (d a : Byte)
  /-- Correctly rounded reciprocal square root (R196). -/
  | frsq (d a : Byte)
  /-- Correctly rounded 2^A (R196). -/
  | fexp2 (d a : Byte)
  /-- Correctly rounded log2 A (R196). -/
  | flog2 (d a : Byte)
  /-- Multiplies A by 2 to an integer power (R195). -/
  | fscale (d a b : Byte)
  /-- Rounds to an integral value under MR.RND (R195). -/
  | frnd (d a : Byte)
  /-- Writes a one-hot class mask for each element (R195). -/
  | fclass (d a : Byte)
  /-- Correctly rounded sin(πA) (R196). -/
  | fsinpi (d a : Byte)
  /-- Converts elements between floating-point formats (R210). -/
  | cvt (d a b : Byte)
  /-- Packs two binary32 values into a pair of 16-bit floats (R211). -/
  | cvtw (d a b : Byte)
  /-- Converts an integer to binary32 (R212). -/
  | cvti2f (d a : Byte)
  /-- Converts binary32 to an integer with saturation (R212). -/
  | cvtf2i (d a : Byte)
  /-- Encodes one A8 element under a block exponent (R214). -/
  | cvtr (d a b : Byte)
  /-- Encodes one NQ4 element index (R215). -/
  | qenc (d a b : Byte)
  /-- Decodes one NQ4 element to binary32 (R216). -/
  | qdec (d a b : Byte)
  /-- Computes a block scale code or exponent from an absolute maximum (R213). -/
  | bscl (d a b : Byte)
  /-- Packs a narrowed integer into a 4-bit field (R217). -/
  | pkn (d a b : Byte)
  /-- Unpacks a 4-bit field to a word (R217). -/
  | upkn (d a b : Byte)
  /-- Packs a narrowed integer into a byte field (R217). -/
  | pkb (d a b : Byte)
  /-- Unpacks a byte field to a word (R217). -/
  | upkb (d a b : Byte)
  /-- Packs a narrowed integer into a half field (R217). -/
  | pkh (d a b : Byte)
  /-- Unpacks a half field to a word (R217). -/
  | upkh (d a b : Byte)
  /-- Writes the largest absolute binary32 value of running lanes (R218). -/
  | redamax (d a : Byte)
  /-- Updates a running maximum and base-2 exponential sum pair (R219). -/
  | fexpd (d a b : Byte)
  /-- Loads one word per running lane from shared memory (R228). -/
  | lds (d a b : Byte)
  /-- Stores one word per running lane to shared memory (R228). -/
  | sts (d a b : Byte)
  /-- Loads two words per lane from shared memory (R228). -/
  | lds2 (d a b : Byte)
  /-- Stores two words per lane to shared memory (R228). -/
  | sts2 (d a b : Byte)
  /-- Loads four words per lane from shared memory (R228). -/
  | lds4 (d a b : Byte)
  /-- Stores four words per lane to shared memory (R228). -/
  | sts4 (d a b : Byte)
  /-- Pushes vector registers onto the team's spill stack (R231). -/
  | spill (a b : Byte)
  /-- Pops vector registers from the team's spill stack (R231). -/
  | fill (d b : Byte)
  /-- Atomic add on a shared word, returning the old value (R232). -/
  | atomsAdd (d a b : Byte)
  /-- Atomic minimum on a shared word (R232). -/
  | atomsMin (d a b : Byte)
  /-- Atomic maximum on a shared word (R232). -/
  | atomsMax (d a b : Byte)
  /-- Atomic AND on a shared word (R232). -/
  | atomsAnd (d a b : Byte)
  /-- Atomic OR on a shared word (R232). -/
  | atomsOr (d a b : Byte)
  /-- Atomic exchange on a shared word (R232). -/
  | atomsXchg (d a b : Byte)
  /-- Atomic compare-and-swap on a shared word (R232). -/
  | atomsCas (d a b : Byte)
  /-- Enters binary32 addends into the core's ordered-add domain (R234). -/
  | fatomsAdd (d a b : Byte)
  /-- Loads one word per lane from die scratch (R228). -/
  | ldx (d a b : Byte)
  /-- Stores one word per lane to die scratch (R228). -/
  | stx (d a b : Byte)
  /-- Loads two words per lane from die scratch (R228). -/
  | ldx2 (d a b : Byte)
  /-- Stores two words per lane to die scratch (R228). -/
  | stx2 (d a b : Byte)
  /-- Loads four words per lane from die scratch (R228). -/
  | ldx4 (d a b : Byte)
  /-- Stores four words per lane to die scratch (R228). -/
  | stx4 (d a b : Byte)
  /-- Atomic add on a die-scratch word (R232). -/
  | atomxAdd (d a b : Byte)
  /-- Atomic minimum on a die-scratch word (R232). -/
  | atomxMin (d a b : Byte)
  /-- Atomic maximum on a die-scratch word (R232). -/
  | atomxMax (d a b : Byte)
  /-- Atomic exchange on a die-scratch word (R232). -/
  | atomxXchg (d a b : Byte)
  /-- Atomic compare-and-swap on a die-scratch word (R232). -/
  | atomxCas (d a b : Byte)
  /-- Enters binary32 addends into the launch's die-scratch ordered-add domain (R234). -/
  | fatomxAdd (d a b : Byte)
  /-- Atomically adds 1 to a die-scratch word and returns the old value (R233). -/
  | ticket (d a b : Byte)
  /-- Orders the path's accesses at a scope as acquire, release, full or round (R238). -/
  | fence (d a b : Byte)
  /-- Waits until a memory word satisfies a condition, then acquires (R240). -/
  | waitv (d a b : Byte)
  /-- Loads a die-scratch word as an acquire at module scope (R239). -/
  | ldaq (d a b : Byte)
  /-- Queues a contiguous copy between far and near memory (R261). -/
  | cpy (a : Byte)
  /-- Queues a tensor copy described in shared memory (R262). -/
  | cpyt (a : Byte)
  /-- Queues a gather of indexed rows far to near (R263). -/
  | cpyg (a : Byte)
  /-- Queues a scatter of rows near to far (R263). -/
  | cpys (a : Byte)
  /-- Queues an adding copy of binary32 words (R264). -/
  | cpya (a : Byte)
  /-- Closes the team's open copy batch and returns its number (R265). -/
  | seal (d : Byte)
  /-- Requests a Shuttle to start a program at a PC with a parameter block (R267). -/
  | shrun (d a b : Byte)
  /-- Reads a status word of a Shuttle (R268). -/
  | shstat (d a : Byte)
  /-- Stops a Shuttle's program (R269). -/
  | shstop (a : Byte)
  /-- Writes graded cells from shared memory at a grade (R342). -/
  | gput (a : Byte)
  /-- Snapshots graded cells into shared memory and records on a barrier (R346). -/
  | gget (a b : Byte)
  /-- Amends non-final graded cells with new data and a new generation (R343). -/
  | amend (a : Byte)
  /-- Promotes graded cells to final without moving data (R344). -/
  | final (a : Byte)
  /-- Reads the tags of up to four graded cells (R347). -/
  | gqry (d a : Byte)
  /-- Releases a position of an egress stream (R386). -/
  | release (d a b : Byte)
  /-- Appends a graded cell entry to an egress stream's release queue (R385). -/
  | egress (a b : Byte)
  /-- Shuttle transfer of one run from the cursor address into shared memory (R273). -/
  | tld (d a b : Byte)
  /-- Shuttle transfer of one run from shared memory to the cursor address (R273). -/
  | tst (d a b : Byte)
  /-- Shuttle gather of indexed rows into shared memory (R274). -/
  | tgat (d a b : Byte)
  /-- Shuttle scatter of rows from shared memory to indexed rows (R274). -/
  | tsca (d a b : Byte)
  /-- Loads a Shuttle cursor from a tensor descriptor (R271). -/
  | tcur (d a : Byte)
  /-- Advances a cursor along a dimension and reports wrap (R272). -/
  | tstep (d a b : Byte)
  /-- Shuttle load of one far word (R277). -/
  | xld (d a b : Byte)
  /-- Shuttle store of one far word (R277). -/
  | xst (d a b : Byte)
  /-- Starts a Shuttle hardware loop or skips it for a zero count (R278). -/
  | lpset (d a b : Byte)
  /-- Counts down a Shuttle hardware loop and branches back (R278). -/
  | lpend (d : Byte)
  /-- Shuttle arrival on a barrier as a release (R279). -/
  | arrive (d a : Byte)
  /-- Shuttle writes zeros to shared memory and arrives the bytes (R275). -/
  | tzero (d a b : Byte)
  /-- Shuttle adds binary32 words from shared memory into the cursor address (R276). -/
  | tadd (d a b : Byte)
  /-- Waits until at most k Shuttle transfers are in flight (R280). -/
  | shwait (d : Byte)
  /-- Shuttle posts a 32-byte message to a mailbox after its work completes (R281). -/
  | shpost (d a : Byte)
  /-- Sets the team's WM configuration (R302). -/
  | guard (a b : Byte)
  /-- Packs lane coefficients into long-operand slots (R304). -/
  | pack (d a : Byte)
  /-- Packs lane coefficients into slots in reversed order (R304). -/
  | packr (d a : Byte)
  /-- Packs one NQ4 block as long coefficients, evaluating the predictor (R305). -/
  | packq (d a b : Byte)
  /-- Packs A8 elements as short coefficients (R306). -/
  | packa (d a b : Byte)
  /-- Packs lane coefficients into slots at a stride (R304). -/
  | packs (d a b : Byte)
  /-- Multiplies packed operands and adds the window into an accumulator (R307). -/
  | wmul (d a b : Byte)
  /-- Multiplies as WMUL and keeps the long operand in the latch (R307). -/
  | wmulk (d a b : Byte)
  /-- Gang multiply that arrives at the rendezvous and issues on all members (R309). -/
  | wmulg (d a b : Byte)
  /-- Gang multiply that also loads the leader's latch (R309). -/
  | wmulgk (d a b : Byte)
  /-- Extracts accumulator digits into lanes (R311). -/
  | extr (d a : Byte)
  /-- Adds scaled digits into binary32 lanes (R312). -/
  | extsF32 (d a b : Byte)
  /-- Adds scaled digits into bfloat16 elements (R312). -/
  | extsBf16 (d a b : Byte)
  /-- Adds scaled digits into binary16 elements (R312). -/
  | extsF16 (d a b : Byte)
  /-- Converts an accumulator from digit form to binary form (R313). -/
  | norm (d : Byte)
  /-- Clears an accumulator to digit-form zero (R313). -/
  | aclr (d : Byte)
  /-- Defines an operand stream from a descriptor (R316). -/
  | strm (d a : Byte)
  /-- Subscribes the team to a stream (R317). -/
  | subs (d : Byte)
  /-- Reads and optionally clears the team's PACKQ skip count (R318). -/
  | skipq (d a : Byte)
  /-- Reads WM status and clears OVF (R318). -/
  | wstat (d a : Byte)
  /-- Stores an accumulator image to shared memory (R314). -/
  | accst (d a : Byte)
  /-- Loads an accumulator image from shared memory with a form bit (R314). -/
  | accld (d a b : Byte)
  /-- Adds a row to the open batch of a key in the BFQ (R377). -/
  | bfjoin (d a : Byte)
  /-- Takes the oldest closed batch and writes its row table (R378). -/
  | bftake (d a b : Byte)
  /-- Retires a taken batch, storing done words as a release (R379). -/
  | bfdone (a : Byte)
  /-- Allocates a speculative KV page, reclaiming below the watermark (R381). -/
  | specpg (d a : Byte)
  /-- Commits, drops or frees a sequence's KV pages (R382). -/
  | commit (d a b : Byte)
  /-- Puts a 32-byte message into a mailbox (R388). -/
  | mbxput (a b : Byte)
  /-- Takes a message from a mailbox or reports it empty (R388). -/
  | mbxget (d a b : Byte)
  /-- Reads the cancel flag of a sequence (R383). -/
  | cancelq (d a : Byte)
  /-- Makes a barrier slot live with an expected arrival count (R328). -/
  | binit (a b : Byte)
  /-- Makes one arrival on a barrier as a release (R329). -/
  | barr (a : Byte)
  /-- Adds expected transaction bytes to a barrier (R330). -/
  | bexp (a b : Byte)
  /-- Waits for a barrier epoch and acquires (R331). -/
  | bwait (a b : Byte)
  /-- Tests a barrier epoch without waiting (R332). -/
  | btry (d a b : Byte)
  /-- Clears a barrier slot's live bit (R328). -/
  | bret (a : Byte)
  /-- Reads a barrier's grade and generation summary (R333). -/
  | bgrd (d a : Byte)
  /-- Takes a tile from the dispenser, waiting if none (R353). -/
  | fetchw (d : Byte)
  /-- Takes a tile from the dispenser without waiting (R353). -/
  | tryw (d : Byte)
  /-- Reports a held tile with its barrier summary (R354). -/
  | taskend (a b : Byte)
  /-- Reads a task's state, argument or consumed generations (R356). -/
  | taskq (d a b : Byte)
  /-- Releases or re-fires a task with hop 0 (R352). -/
  | refire (a : Byte)
  /-- Sets graded cell tags to empty (R345). -/
  | retire (a : Byte)
  /-- Waits until graded cells reach a grade, then acquires (R348). -/
  | gwait (a : Byte)
  /-- Reads dispenser buffer, queue or held-task information (R357). -/
  | dispq (d a : Byte)
  /-- Arms or disarms the team timer compare (R402). -/
  | tmrset (a : Byte)
  /-- Writes a control-store entry's word and tag (R117). -/
  | cswr (d a b : Byte)
  /-- Reads a control-store entry's word and tag (R118). -/
  | csrd (d a : Byte)
  /-- Sets a value watchpoint (R434). -/
  | watch (d a : Byte)
  /-- Clears a value watchpoint (R434). -/
  | unwatch (d : Byte)
  /-- Reads a 64-bit performance counter (R436). -/
  | perfrd (d a : Byte)
  /-- Writes a PREC record once all team counters are zero (R430). -/
  | prec (a : Byte)
  /-- Reads an ECC error count (R436). -/
  | eccq (d a : Byte)
  /-- Adds a four-element byte dot product into the destination (R197). -/
  | dot4 (d a b : Byte)
  /-- Adds a two-element half dot product into the destination (R197). -/
  | dot2 (d a b : Byte)
  /-- Adds a two-element float dot product into binary32 with one rounding (R197). -/
  | fdot2 (d a b : Byte)
  /-- Adds a 32×32 product into a 64-bit pair (R197). -/
  | madw (d a b : Byte)
  /-- Copies shared bytes into DBGMSG records and sends an event (R430). -/
  | dbgmsg (a b : Byte)
  /-- Does nothing; every field is reserved (R167). -/
  | nop
  /-- Lowers every non-zero nesting counter by one (R155). -/
  | endif
  /-- Ends the current path's quantum and exchanges the team with a ready pending team if any (R147). -/
  | yield
  /-- Removes the running lanes from the current path, freeing the path when it is empty (R167). -/
  | exit
  /-- Returns from a trap handler, restoring MR and nesting counters and resuming at TPC (R401). -/
  | rtt
  /-- Ends a Shuttle program once its transfers have completed (R282). -/
  | shend
  /-- Empties the team's latch (R310). -/
  | rls
  /-- Ends the team's stream subscription (R317). -/
  | unsubs
  /-- Ends a macro; faults outside a macro buffer (R119). -/
  | mret
  /-- Discards the core's instruction cache and fetched words (R437). -/
  | iflush
  /-- Sets the team's PRIO hint (R150). -/
  | prio
  /-- Always raises the illegal-instruction fault (R100). -/
  | udf
  /-- A host write of a queue's notify register raises its largest notified index (R52). -/
  | notify
  /-- Queue entry command create checks the ring and sets the queue running (R46). -/
  | queueCreate
  /-- Queue entry command destroy abandons unaccepted packets and stops or drains the queue (R46). -/
  | queueDestroy
  /-- Queue entry command resume returns a gap or error queue to running (R46). -/
  | queueResume
  /-- A host write to a register field that has no behaviour of its own (R45). -/
  | registerWrite
  /-- An Ultra Ethernet remote write to a function's aperture (R43). -/
  | remoteWrite
  /-- An Ultra Ethernet remote read from a function's aperture (R43). -/
  | remoteRead
  /-- An Ultra Ethernet remote atomic add on a 64-bit word (R43). -/
  | remoteAtomicAdd
  /-- The home processor re-reads a unit whose valid bit is 0 (R53). -/
  | packetPoll
  /-- The home processor reads a valid packet and accepts, discards or gaps it by sequence number (R53). -/
  | packetAccept
  /-- LAUNCH packet reads and checks the records and places the harnesses (R23). -/
  | launch
  /-- WAITALL packet blocks its queue until all comparisons hold (R56). -/
  | waitall
  /-- WAITANY packet blocks its queue until any comparison holds (R56). -/
  | waitany
  /-- The processor re-evaluates a blocked WAIT packet's comparisons (R56). -/
  | waitEvaluation
  /-- SIGNAL packet stores, adds or subtracts a signal (R49). -/
  | signal
  /-- MBOX packet enqueues a message in a mailbox (R49). -/
  | mbox
  /-- GPUT packet writes graded cells from a source address (R49). -/
  | gputPacket
  /-- CANCEL packet sets the cancel flag of a sequence (R383). -/
  | cancel
  /-- COPY packet copies bytes between addresses (R49). -/
  | copy
  /-- QFENCE packet completes after every earlier packet (R56). -/
  | qfence
  /-- GRAPHOP operation 1 sets a task's TPRI from a record (R49). -/
  | graphopSetPriority
  /-- GRAPHOP operation 2 appends a task record (R49). -/
  | graphopAppendTask
  /-- GRAPHOP operation 3 removes a task none of whose tiles was dispensed (R75). -/
  | graphopRemoveTask
  /-- GRAPHOP operation 4 defines the launch's KV page pool (R380). -/
  | graphopDefinePool
  /-- GRAPHOP operation 5 binds an egress stream (R384). -/
  | graphopBindEgress
  /-- GRAPHOP operation 6 binds a service ring (R405). -/
  | graphopBindServiceRing
  /-- GRAPHOP operation 7 binds the trace ring (R426). -/
  | graphopBindTraceRing
  /-- EVENTREQ packet arms a signal condition request (R49). -/
  | eventreq
  /-- An armed EVENTREQ condition holds and one event message is sent (R49). -/
  | eventreqConditionHolds
  /-- QPROG packet checks and binds a queue program (R61). -/
  | qprog
  /-- A packet's completion signal is decremented and LASTCOMP advanced (R57). -/
  | packetCompletion
  /-- An uncorrectable error halts a queue processor and its queues move or enter table-lost (R64). -/
  | queueProcessorLost
  /-- REPLY kind 0 frees a fault record and re-issues the waiting instructions (R421). -/
  | replyServed
  /-- REPLY kind 1 frees a fault record and fails the waiting instructions (R421). -/
  | replyRefused
  /-- REPLY kind 2 drops translations of one page (R422). -/
  | invalidatePage
  /-- REPLY kind 3 drops every translation of the function (R422). -/
  | invalidateFunction
  /-- INVSEQ advances once every copy holding a dropped translation has completed (R422). -/
  | invalidationComplete
  /-- DBGCMD 1 requests a halt of a team (R431). -/
  | debugHalt
  /-- A requested halt takes effect at the team's next boundary (R431). -/
  | debugHaltTaken
  /-- DBGCMD 2 resumes a halted team (R431). -/
  | debugResume
  /-- DBGCMD 3 runs exactly one instruction of a path, then halts (R432). -/
  | debugStepPath
  /-- DBGCMD 4 holds a path from scheduling (R433). -/
  | debugHoldPath
  /-- DBGCMD 5 releases a held path (R433). -/
  | debugReleasePath
  /-- DBGCMD 6 reads an operand or control register of a halted team into DBGDATA (R431). -/
  | debugRead
  /-- DBGCMD 7 writes DBGDATA to an operand or control register of a halted team (R431). -/
  | debugWrite
  /-- A write to ATTREQ captures the nonce and starts a report (R451). -/
  | attestationRequest
  /-- The signed report is written and a TYPE 0x0C event sent (R451). -/
  | attestationReport
  /-- Function-table command enable checks and enables a virtual function (R438). -/
  | functionEnable
  /-- Function-table command reset starts the reset of a virtual function (R444). -/
  | functionReset
  /-- Function-table command disable resets and disables a virtual function (R438). -/
  | functionDisable
  /-- After every batch holding its rows retires, the function's state is cleared and it re-enters STATE 1 (R444). -/
  | functionResetComplete
  /-- A host DOORBELL write makes the device check parked teams' service entries and resume served teams (R408). -/
  | doorbell
  /-- The periodic check of parked teams' service entries (R408). -/
  | serviceRingCheck
  /-- The Graph Sequencer deals the head tile of a launch's order to a front end (R73). -/
  | tileDeal
  /-- A dealt tile becomes held in its front end and goes to the earliest waiting requester (R73). -/
  | dealtTileArrival
  /-- A tile report reaches the Sequencer, recording generations and completing or re-firing the task (R354). -/
  | taskendReport
  /-- A graded write's data and tags are applied in the cell order, firing and re-firing tasks (R360). -/
  | gradedWriteComplete
  /-- A GGET's cells have landed and it makes one update with its record on the barrier (R346). -/
  | ggetLanding
  /-- A transfer's last byte is performed, freeing its locks and arriving on its barrier (R247). -/
  | transferComplete
  /-- A free Shuttle takes the next piece of the copy queue's head copy (R258). -/
  | copyPieceTake
  /-- A waiting SHRUN's conditions hold and the Shuttle's program starts (R267). -/
  | shuttleProgramStart
  /-- A Shuttle in STATE 3 makes its starting team trap with cause 0x31 (R255). -/
  | shuttleFaultTrap
  /-- A load's data returns, lowering L and clearing its scoreboard marks (R228). -/
  | loadReturn
  /-- A store or non-returning atomic is performed, lowering S (R392). -/
  | storePerformed
  /-- At the start of a cycle the partition begins moving or exchanging a team between sets (R138). -/
  | setChange
  /-- A set change finishes after 4 cycles (R138). -/
  | setChangeComplete
  /-- The current path has issued PQUANT instructions and the next live path is chosen (R160). -/
  | pathQuantumExpiry
  /-- A waiting path's JOIN timeout expires and it goes on alone (R163). -/
  | joinTimeout
  /-- TMR reaches a sleeping team's wake value (R148). -/
  | sleepExpiry
  /-- A waiting WAITV re-reads its word (R240). -/
  | waitvPoll
  /-- TMR reaches TMRCMP and the team traps with cause 0x2C (R402). -/
  | timerTrap
  /-- A write matching a watchpoint traps the team with cause 0x2B (R435). -/
  | watchpointTrap
  /-- The step bit traps after one instruction with cause 0x2D (R395). -/
  | stepTrap
  /-- A context's time slice on a core expires and pre-emption is requested (R440). -/
  | sliceExpiry
  /-- A harness idle for 4,096 cycles while another context is runnable leaves the core (R78). -/
  | idleDeparture
  /-- Every engine has acknowledged and the harness state is saved (R409). -/
  | preemptionComplete
  /-- A harness's state is restored and its teams resume, or start at first residence (R411). -/
  | contextRestore
  /-- A team with no live path ends once L, S, C and M are zero (R167). -/
  | teamEnd
  /-- An ordered-add round closes and its entries are applied in key order (R236). -/
  | roundClose
  /-- BFWIN cycles after its opening join, an open batch closes (R377). -/
  | batchWindowExpiry
  /-- An egress entry leaves: the cell is written to the host ring, then NOTE (R387). -/
  | egressDeparture
  /-- A partition samples an active-set slot into the trace ring (R428). -/
  | stallSample
  /-- After 1,000,000 idle cycles the module enters idle-clocked (R445). -/
  | idleEntry
  /-- A notify, remote access or sideband request returns the module to run (R445). -/
  | idleExit
  /-- Loss of power puts the module in off (R445). -/
  | powerLoss
  /-- A power averaging window ends and throttling starts or stops (R446). -/
  | powerWindow
  /-- A die above 95 °C applies the throttle (R447). -/
  | overTemperature
  /-- A die at 105 °C sends the module to off (R447). -/
  | thermalShutdown
  /-- The sideband readings are refreshed (R448). -/
  | telemetryRefresh
  /-- Power good starts bring-up from the boot ROM (R450). -/
  | powerGood
  /-- An uncorrectable data error halts teams with cause 0x30 and may take a core out of service (R452). -/
  | uncorrectableDataError
  /-- A WMUL, EXTS, NORM, ACCST or ACCLD finishes: its accumulator or register becomes ready, M falls and the WM's occupancy ends (R308). -/
  | wmOperationComplete
  /-- A transfer or copy reads its last shared source byte, and its source range-lock entry is freed (R250). -/
  | lastSourceByteRead
  /-- A GPUT, AMEND or FINAL from a peer module arrives for a region whose cells this module keeps, and is applied here under every graded rule (R358). -/
  | peerGradedWrite
  /-- A corrected ECC error in shared memory, a register file, die scratch or HBM raises its ECCQ count (R436). -/
  | correctedEccError
  /-- Every die falls back to 95 °C or below, and the thermal throttle stops applying (R447). -/
  | dieTemperatureFalls
  deriving DecidableEq, Repr

end Sys2Proof
end

