-- ==== Sys2Proof/WellFormed.lean ====
section
/-! DEFINITION. Well-formedness of an instruction: the fields that the encodings make narrower than their byte
(R115, R154, R180, R208, R225) hold values that fit. A word with such a bit set is not the instruction (R2, R97). -/

namespace Sys2Proof

/-- The check of one instruction; steps without a word are always well formed. -/
def Instr.wellFormed : Instr → Bool
  | .join d _ => d.toNat < 16
  | .mcall d _ _ => d.toNat < 64
  | .shli _ i => i.toNat < 32
  | .shri _ i => i.toNat < 32
  | .shai _ i => i.toNat < 32
  | .bscl _ _ b => b.toNat < 8
  | .waitv _ _ b => b.toNat < 16
  | _ => true

end Sys2Proof
end

