-- ==== Sys2Proof/Decode.lean ====
section
/-! DEFINITION. Decoding and encoding of instruction words (R94 to R101). `decodeFields` reads the four bytes of a
word; a reserved bit that is not zero makes the word no instruction (R2, R97, R98 step 1). `encodeFields` is written
from the same encoding tables: R154, R145, R175, R208, R225, R260, R270, R300, R326, R339, R374, R399, R429, R434. -/

namespace Sys2Proof

/-- The instruction of opcode `op` with the bytes `d` ([23:16]), `a` ([15:8]) and `b` ([7:0]). A SHLI, SHRI or SHAI with a bit of
imm[15:5] set fails here, in step 1 of R98, not by a check of R180 that a dormant path would pass (log 13). -/
def decodeFields (op d a b : Byte) : Option Instr :=
  match op.toNat with
  | 0x00 => if d = 0 ∧ a = 0 ∧ b = 0 then some .nop else none
  | 0x01 => some (.jmp (d ++ a ++ b))
  | 0x02 => some (.brs d (a ++ b))
  | 0x03 => some (.brp d (a ++ b))
  | 0x04 => some (.ifP d (a ++ b))
  | 0x05 => if d = 0 then some (.elseP (a ++ b)) else none
  | 0x06 => if d = 0 ∧ a = 0 ∧ b = 0 then some .endif else none
  | 0x07 => some (.loop (d ++ a ++ b))
  | 0x08 => some (.endloop (d ++ a ++ b))
  | 0x09 => if b = 0 then some (.breakP d a) else none
  | 0x0A => if b = 0 then some (.contP d a) else none
  | 0x0B => if d.toNat < 16 then some (.join d (a ++ b)) else none
  | 0x0C => some (.jtab d a b)
  | 0x0D => some (.call (d ++ a ++ b))
  | 0x0E => if d = 0 ∧ b = 0 then some (.ret a) else none
  | 0x0F => if d.toNat < 64 then some (.mcall d a b) else none
  | 0x10 => some (.wait (d ++ a ++ b))
  | 0x11 => if d = 0 ∧ a = 0 ∧ b = 0 then some .yield else none
  | 0x12 => if d = 0 ∧ a = 0 ∧ b = 0 then some .exit else none
  | 0x13 => if d = 0 then some (.trap (a ++ b)) else none
  | 0x14 => if d = 0 then some (.svc (a ++ b)) else none
  | 0x15 => if d = 0 ∧ a = 0 ∧ b = 0 then some .rtt else none
  | 0x16 => if d = 0 then some (.bkpt (a ++ b)) else none
  | 0x17 => some (.mode (d ++ a ++ b))
  | 0x18 => some (.modex d a b)
  | 0x19 => some (.rdcr d (a ++ b))
  | 0x1A => some (.wrcr d (a ++ b))
  | 0x1B => if b = 0 then some (.rdtm d a) else none
  | 0x1C => some (.trace d (a ++ b))
  | 0x1D => if d = 0 then some (.sleep (a ++ b)) else none
  | 0x1E => if d = 0 ∧ b = 0 then some (.gang a) else none
  | 0x1F => some (.pathq d a b)
  | 0x20 => some (.add d a b)
  | 0x21 => some (.sub d a b)
  | 0x22 => some (.mul d a b)
  | 0x23 => some (.mulh d a b)
  | 0x24 => some (.mad d a b)
  | 0x25 => some (.min d a b)
  | 0x26 => some (.max d a b)
  | 0x27 => if b = 0 then some (.abs d a) else none
  | 0x28 => if b = 0 then some (.neg d a) else none
  | 0x29 => some (.addc d a b)
  | 0x2A => some (.subb d a b)
  | 0x2B => some (.divn d a b)
  | 0x2C => some (.remn d a b)
  | 0x2D => some (.addi d (a ++ b))
  | 0x2E => some (.muli d (a ++ b))
  | 0x2F => some (.clamp d a b)
  | 0x30 => some (.and d a b)
  | 0x31 => some (.or d a b)
  | 0x32 => some (.xor d a b)
  | 0x33 => some (.andn d a b)
  | 0x34 => if b = 0 then some (.not d a) else none
  | 0x35 => some (.shl d a b)
  | 0x36 => some (.shr d a b)
  | 0x37 => some (.sha d a b)
  | 0x38 => some (.rotl d a b)
  | 0x39 => if (a ++ b).toNat < 32 then some (.shli d (a ++ b)) else none
  | 0x3A => if (a ++ b).toNat < 32 then some (.shri d (a ++ b)) else none
  | 0x3B => if (a ++ b).toNat < 32 then some (.shai d (a ++ b)) else none
  | 0x3C => if b = 0 then some (.popc d a) else none
  | 0x3D => if b = 0 then some (.clz d a) else none
  | 0x3E => if b = 0 then some (.brev d a) else none
  | 0x3F => some (.bfe d a b)
  | 0x40 => if b = 0 then some (.mov d a) else none
  | 0x41 => some (.lit d (a ++ b))
  | 0x42 => some (.lih d (a ++ b))
  | 0x43 => some (.sel d a b)
  | 0x44 => some (.setpEq d a b)
  | 0x45 => some (.setpNe d a b)
  | 0x46 => some (.setpLt d a b)
  | 0x47 => some (.setpLe d a b)
  | 0x48 => some (.setpGt d a b)
  | 0x49 => some (.setpGe d a b)
  | 0x4A => some (.pand d a b)
  | 0x4B => some (.por d a b)
  | 0x4C => if b = 0 then some (.pnot d a) else none
  | 0x4D => some (.bfi d a b)
  | 0x4E => some (.shfl d a b)
  | 0x4F => some (.shflx d a b)
  | 0x50 => some (.bcast d a b)
  | 0x51 => some (.lread d a b)
  | 0x52 => some (.lwrite d a b)
  | 0x53 => if b = 0 then some (.vany d a) else none
  | 0x54 => if b = 0 then some (.vall d a) else none
  | 0x55 => some (.ballot d a b)
  | 0x56 => if b = 0 then some (.redadd d a) else none
  | 0x57 => if b = 0 then some (.redmin d a) else none
  | 0x58 => if b = 0 then some (.redmax d a) else none
  | 0x59 => if b = 0 then some (.scanadd d a) else none
  | 0x5A => if a = 0 ∧ b = 0 then some (.lanecnt d) else none
  | 0x5B => if b = 0 then some (.ffs d a) else none
  | 0x5C => some (.lea d a b)
  | 0x5D => if b = 0 then some (.movp d a) else none
  | 0x5E => some (.addp d a b)
  | 0x5F => some (.rand d a b)
  | 0x60 => some (.fadd d a b)
  | 0x61 => some (.fsub d a b)
  | 0x62 => some (.fmul d a b)
  | 0x63 => some (.fma d a b)
  | 0x64 => some (.fmin d a b)
  | 0x65 => some (.fmax d a b)
  | 0x66 => if b = 0 then some (.fabs d a) else none
  | 0x67 => if b = 0 then some (.fneg d a) else none
  | 0x68 => if b = 0 then some (.frcp d a) else none
  | 0x69 => if b = 0 then some (.frsq d a) else none
  | 0x6A => if b = 0 then some (.fexp2 d a) else none
  | 0x6B => if b = 0 then some (.flog2 d a) else none
  | 0x6C => some (.fscale d a b)
  | 0x6D => if b = 0 then some (.frnd d a) else none
  | 0x6E => if b = 0 then some (.fclass d a) else none
  | 0x6F => if b = 0 then some (.fsinpi d a) else none
  | 0x70 => some (.cvt d a b)
  | 0x71 => some (.cvtw d a b)
  | 0x72 => if b = 0 then some (.cvti2f d a) else none
  | 0x73 => if b = 0 then some (.cvtf2i d a) else none
  | 0x74 => some (.cvtr d a b)
  | 0x75 => some (.qenc d a b)
  | 0x76 => some (.qdec d a b)
  | 0x77 => if b.toNat < 8 then some (.bscl d a b) else none
  | 0x78 => some (.pkn d a b)
  | 0x79 => some (.upkn d a b)
  | 0x7A => some (.pkb d a b)
  | 0x7B => some (.upkb d a b)
  | 0x7C => some (.pkh d a b)
  | 0x7D => some (.upkh d a b)
  | 0x7E => if b = 0 then some (.redamax d a) else none
  | 0x7F => some (.fexpd d a b)
  | 0x80 => some (.lds d a b)
  | 0x81 => some (.sts d a b)
  | 0x82 => some (.lds2 d a b)
  | 0x83 => some (.sts2 d a b)
  | 0x84 => some (.lds4 d a b)
  | 0x85 => some (.sts4 d a b)
  | 0x86 => if d = 0 then some (.spill a b) else none
  | 0x87 => if a = 0 then some (.fill d b) else none
  | 0x88 => some (.atomsAdd d a b)
  | 0x89 => some (.atomsMin d a b)
  | 0x8A => some (.atomsMax d a b)
  | 0x8B => some (.atomsAnd d a b)
  | 0x8C => some (.atomsOr d a b)
  | 0x8D => some (.atomsXchg d a b)
  | 0x8E => some (.atomsCas d a b)
  | 0x8F => some (.fatomsAdd d a b)
  | 0x90 => some (.ldx d a b)
  | 0x91 => some (.stx d a b)
  | 0x92 => some (.ldx2 d a b)
  | 0x93 => some (.stx2 d a b)
  | 0x94 => some (.ldx4 d a b)
  | 0x95 => some (.stx4 d a b)
  | 0x96 => some (.atomxAdd d a b)
  | 0x97 => some (.atomxMin d a b)
  | 0x98 => some (.atomxMax d a b)
  | 0x99 => some (.atomxXchg d a b)
  | 0x9A => some (.atomxCas d a b)
  | 0x9B => some (.fatomxAdd d a b)
  | 0x9C => some (.ticket d a b)
  | 0x9D => some (.fence d a b)
  | 0x9E => if b.toNat < 16 then some (.waitv d a b) else none
  | 0x9F => some (.ldaq d a b)
  | 0xA0 => if d = 0 ∧ b = 0 then some (.cpy a) else none
  | 0xA1 => if d = 0 ∧ b = 0 then some (.cpyt a) else none
  | 0xA2 => if d = 0 ∧ b = 0 then some (.cpyg a) else none
  | 0xA3 => if d = 0 ∧ b = 0 then some (.cpys a) else none
  | 0xA4 => if d = 0 ∧ b = 0 then some (.cpya a) else none
  | 0xA5 => if a = 0 ∧ b = 0 then some (.seal d) else none
  | 0xA6 => some (.shrun d a b)
  | 0xA7 => if b = 0 then some (.shstat d a) else none
  | 0xA8 => if d = 0 ∧ b = 0 then some (.shstop a) else none
  | 0xA9 => if d = 0 ∧ b = 0 then some (.gput a) else none
  | 0xAA => if d = 0 then some (.gget a b) else none
  | 0xAB => if d = 0 ∧ b = 0 then some (.amend a) else none
  | 0xAC => if d = 0 ∧ b = 0 then some (.final a) else none
  | 0xAD => if b = 0 then some (.gqry d a) else none
  | 0xAE => some (.release d a b)
  | 0xAF => if d = 0 then some (.egress a b) else none
  | 0xB0 => some (.tld d a b)
  | 0xB1 => some (.tst d a b)
  | 0xB2 => some (.tgat d a b)
  | 0xB3 => some (.tsca d a b)
  | 0xB4 => if b = 0 then some (.tcur d a) else none
  | 0xB5 => some (.tstep d a b)
  | 0xB6 => some (.xld d a b)
  | 0xB7 => some (.xst d a b)
  | 0xB8 => some (.lpset d a b)
  | 0xB9 => if a = 0 ∧ b = 0 then some (.lpend d) else none
  | 0xBA => if b = 0 then some (.arrive d a) else none
  | 0xBB => some (.tzero d a b)
  | 0xBC => some (.tadd d a b)
  | 0xBD => if a = 0 ∧ b = 0 then some (.shwait d) else none
  | 0xBE => if b = 0 then some (.shpost d a) else none
  | 0xBF => if d = 0 ∧ a = 0 ∧ b = 0 then some .shend else none
  | 0xC0 => if d = 0 then some (.guard a b) else none
  | 0xC1 => if b = 0 then some (.pack d a) else none
  | 0xC2 => if b = 0 then some (.packr d a) else none
  | 0xC3 => some (.packq d a b)
  | 0xC4 => some (.packa d a b)
  | 0xC5 => some (.packs d a b)
  | 0xC6 => some (.wmul d a b)
  | 0xC7 => some (.wmulk d a b)
  | 0xC8 => some (.wmulg d a b)
  | 0xC9 => some (.wmulgk d a b)
  | 0xCA => if b = 0 then some (.extr d a) else none
  | 0xCB => some (.extsF32 d a b)
  | 0xCC => some (.extsBf16 d a b)
  | 0xCD => some (.extsF16 d a b)
  | 0xCE => if a = 0 ∧ b = 0 then some (.norm d) else none
  | 0xCF => if a = 0 ∧ b = 0 then some (.aclr d) else none
  | 0xD0 => if d = 0 ∧ a = 0 ∧ b = 0 then some .rls else none
  | 0xD1 => if b = 0 then some (.strm d a) else none
  | 0xD2 => if a = 0 ∧ b = 0 then some (.subs d) else none
  | 0xD3 => if d = 0 ∧ a = 0 ∧ b = 0 then some .unsubs else none
  | 0xD4 => if b = 0 then some (.skipq d a) else none
  | 0xD5 => if b = 0 then some (.wstat d a) else none
  | 0xD6 => if b = 0 then some (.accst d a) else none
  | 0xD7 => some (.accld d a b)
  | 0xD8 => if b = 0 then some (.bfjoin d a) else none
  | 0xD9 => some (.bftake d a b)
  | 0xDA => if d = 0 ∧ b = 0 then some (.bfdone a) else none
  | 0xDB => if b = 0 then some (.specpg d a) else none
  | 0xDC => some (.commit d a b)
  | 0xDD => if d = 0 then some (.mbxput a b) else none
  | 0xDE => some (.mbxget d a b)
  | 0xDF => if b = 0 then some (.cancelq d a) else none
  | 0xE0 => if d = 0 then some (.binit a b) else none
  | 0xE1 => if d = 0 ∧ b = 0 then some (.barr a) else none
  | 0xE2 => if d = 0 then some (.bexp a b) else none
  | 0xE3 => if d = 0 then some (.bwait a b) else none
  | 0xE4 => some (.btry d a b)
  | 0xE5 => if d = 0 ∧ b = 0 then some (.bret a) else none
  | 0xE6 => if b = 0 then some (.bgrd d a) else none
  | 0xE7 => if a = 0 ∧ b = 0 then some (.fetchw d) else none
  | 0xE8 => if a = 0 ∧ b = 0 then some (.tryw d) else none
  | 0xE9 => if d = 0 then some (.taskend a b) else none
  | 0xEA => some (.taskq d a b)
  | 0xEB => if d = 0 ∧ b = 0 then some (.refire a) else none
  | 0xEC => if d = 0 ∧ b = 0 then some (.retire a) else none
  | 0xED => if d = 0 ∧ b = 0 then some (.gwait a) else none
  | 0xEE => if b = 0 then some (.dispq d a) else none
  | 0xEF => if d = 0 ∧ b = 0 then some (.tmrset a) else none
  | 0xF0 => some (.cswr d a b)
  | 0xF1 => if b = 0 then some (.csrd d a) else none
  | 0xF2 => if d = 0 ∧ a = 0 ∧ b = 0 then some .mret else none
  | 0xF3 => if b = 0 then some (.watch d a) else none
  | 0xF4 => if a = 0 ∧ b = 0 then some (.unwatch d) else none
  | 0xF5 => if b = 0 then some (.perfrd d a) else none
  | 0xF6 => if d = 0 ∧ b = 0 then some (.prec a) else none
  | 0xF7 => if d = 0 ∧ a = 0 ∧ b = 0 then some .iflush else none
  | 0xF8 => if b = 0 then some (.eccq d a) else none
  | 0xF9 => some (.dot4 d a b)
  | 0xFA => some (.dot2 d a b)
  | 0xFB => some (.fdot2 d a b)
  | 0xFC => some (.madw d a b)
  | 0xFD => if d = 0 then some (.dbgmsg a b) else none
  | 0xFE => if a = 0 ∧ b = 0 then some .prio else none
  | 0xFF => some .udf
  | _ => none

/-- The instruction that a 32-bit word holds. -/
def decode (w : Word) : Option Instr :=
  decodeFields (w.extractLsb' 24 8) (w.extractLsb' 16 8) (w.extractLsb' 8 8) (w.extractLsb' 0 8)

/-- The word stored little-endian in four bytes (R3, R94). -/
def wordOfBytes (b0 b1 b2 b3 : Byte) : Word := b3 ++ b2 ++ b1 ++ b0

/-- The instruction that the first four bytes of a code image hold. -/
def decodeBytes : List Byte → Option Instr
  | b0 :: b1 :: b2 :: b3 :: _ => decode (wordOfBytes b0 b1 b2 b3)
  | _ => none

/-- The four bytes of a word, the lowest address first. -/
def bytesOfWord (w : Word) : List Byte :=
  [w.extractLsb' 0 8, w.extractLsb' 8 8, w.extractLsb' 16 8, w.extractLsb' 24 8]

/-- The decoder on an instruction numbered as the opcode table numbers it: every row is one 32-bit word. -/
def decodeTableWord (nbits w : Nat) : Option Instr :=
  if nbits ≤ 32 then decodeBytes (bytesOfWord (BitVec.ofNat 32 w)) else none

/-- The opcode and the three bytes of an instruction; none for a step that no word names. -/
def encodeFields : Instr → Option (Byte × Byte × Byte × Byte)
  | .nop => some (0x00, 0, 0, 0)
  | .jmp i => some (0x01, (i.extractLsb' 16 8), (i.extractLsb' 8 8), (i.extractLsb' 0 8))
  | .brs d i => some (0x02, d, (i.extractLsb' 8 8), (i.extractLsb' 0 8))
  | .brp d i => some (0x03, d, (i.extractLsb' 8 8), (i.extractLsb' 0 8))
  | .ifP d i => some (0x04, d, (i.extractLsb' 8 8), (i.extractLsb' 0 8))
  | .elseP i => some (0x05, 0, (i.extractLsb' 8 8), (i.extractLsb' 0 8))
  | .endif => some (0x06, 0, 0, 0)
  | .loop i => some (0x07, (i.extractLsb' 16 8), (i.extractLsb' 8 8), (i.extractLsb' 0 8))
  | .endloop i => some (0x08, (i.extractLsb' 16 8), (i.extractLsb' 8 8), (i.extractLsb' 0 8))
  | .breakP d a => some (0x09, d, a, 0)
  | .contP d a => some (0x0A, d, a, 0)
  | .join d i => some (0x0B, d, (i.extractLsb' 8 8), (i.extractLsb' 0 8))
  | .jtab d a b => some (0x0C, d, a, b)
  | .call i => some (0x0D, (i.extractLsb' 16 8), (i.extractLsb' 8 8), (i.extractLsb' 0 8))
  | .ret a => some (0x0E, 0, a, 0)
  | .mcall d a b => some (0x0F, d, a, b)
  | .wait i => some (0x10, (i.extractLsb' 16 8), (i.extractLsb' 8 8), (i.extractLsb' 0 8))
  | .yield => some (0x11, 0, 0, 0)
  | .exit => some (0x12, 0, 0, 0)
  | .trap i => some (0x13, 0, (i.extractLsb' 8 8), (i.extractLsb' 0 8))
  | .svc i => some (0x14, 0, (i.extractLsb' 8 8), (i.extractLsb' 0 8))
  | .rtt => some (0x15, 0, 0, 0)
  | .bkpt i => some (0x16, 0, (i.extractLsb' 8 8), (i.extractLsb' 0 8))
  | .mode i => some (0x17, (i.extractLsb' 16 8), (i.extractLsb' 8 8), (i.extractLsb' 0 8))
  | .modex d a b => some (0x18, d, a, b)
  | .rdcr d i => some (0x19, d, (i.extractLsb' 8 8), (i.extractLsb' 0 8))
  | .wrcr d i => some (0x1A, d, (i.extractLsb' 8 8), (i.extractLsb' 0 8))
  | .rdtm d a => some (0x1B, d, a, 0)
  | .trace d i => some (0x1C, d, (i.extractLsb' 8 8), (i.extractLsb' 0 8))
  | .sleep i => some (0x1D, 0, (i.extractLsb' 8 8), (i.extractLsb' 0 8))
  | .gang a => some (0x1E, 0, a, 0)
  | .pathq d a b => some (0x1F, d, a, b)
  | .add d a b => some (0x20, d, a, b)
  | .sub d a b => some (0x21, d, a, b)
  | .mul d a b => some (0x22, d, a, b)
  | .mulh d a b => some (0x23, d, a, b)
  | .mad d a b => some (0x24, d, a, b)
  | .min d a b => some (0x25, d, a, b)
  | .max d a b => some (0x26, d, a, b)
  | .abs d a => some (0x27, d, a, 0)
  | .neg d a => some (0x28, d, a, 0)
  | .addc d a b => some (0x29, d, a, b)
  | .subb d a b => some (0x2A, d, a, b)
  | .divn d a b => some (0x2B, d, a, b)
  | .remn d a b => some (0x2C, d, a, b)
  | .addi d i => some (0x2D, d, (i.extractLsb' 8 8), (i.extractLsb' 0 8))
  | .muli d i => some (0x2E, d, (i.extractLsb' 8 8), (i.extractLsb' 0 8))
  | .clamp d a b => some (0x2F, d, a, b)
  | .and d a b => some (0x30, d, a, b)
  | .or d a b => some (0x31, d, a, b)
  | .xor d a b => some (0x32, d, a, b)
  | .andn d a b => some (0x33, d, a, b)
  | .not d a => some (0x34, d, a, 0)
  | .shl d a b => some (0x35, d, a, b)
  | .shr d a b => some (0x36, d, a, b)
  | .sha d a b => some (0x37, d, a, b)
  | .rotl d a b => some (0x38, d, a, b)
  | .shli d i => some (0x39, d, (i.extractLsb' 8 8), (i.extractLsb' 0 8))
  | .shri d i => some (0x3A, d, (i.extractLsb' 8 8), (i.extractLsb' 0 8))
  | .shai d i => some (0x3B, d, (i.extractLsb' 8 8), (i.extractLsb' 0 8))
  | .popc d a => some (0x3C, d, a, 0)
  | .clz d a => some (0x3D, d, a, 0)
  | .brev d a => some (0x3E, d, a, 0)
  | .bfe d a b => some (0x3F, d, a, b)
  | .mov d a => some (0x40, d, a, 0)
  | .lit d i => some (0x41, d, (i.extractLsb' 8 8), (i.extractLsb' 0 8))
  | .lih d i => some (0x42, d, (i.extractLsb' 8 8), (i.extractLsb' 0 8))
  | .sel d a b => some (0x43, d, a, b)
  | .setpEq d a b => some (0x44, d, a, b)
  | .setpNe d a b => some (0x45, d, a, b)
  | .setpLt d a b => some (0x46, d, a, b)
  | .setpLe d a b => some (0x47, d, a, b)
  | .setpGt d a b => some (0x48, d, a, b)
  | .setpGe d a b => some (0x49, d, a, b)
  | .pand d a b => some (0x4A, d, a, b)
  | .por d a b => some (0x4B, d, a, b)
  | .pnot d a => some (0x4C, d, a, 0)
  | .bfi d a b => some (0x4D, d, a, b)
  | .shfl d a b => some (0x4E, d, a, b)
  | .shflx d a b => some (0x4F, d, a, b)
  | .bcast d a b => some (0x50, d, a, b)
  | .lread d a b => some (0x51, d, a, b)
  | .lwrite d a b => some (0x52, d, a, b)
  | .vany d a => some (0x53, d, a, 0)
  | .vall d a => some (0x54, d, a, 0)
  | .ballot d a b => some (0x55, d, a, b)
  | .redadd d a => some (0x56, d, a, 0)
  | .redmin d a => some (0x57, d, a, 0)
  | .redmax d a => some (0x58, d, a, 0)
  | .scanadd d a => some (0x59, d, a, 0)
  | .lanecnt d => some (0x5A, d, 0, 0)
  | .ffs d a => some (0x5B, d, a, 0)
  | .lea d a b => some (0x5C, d, a, b)
  | .movp d a => some (0x5D, d, a, 0)
  | .addp d a b => some (0x5E, d, a, b)
  | .rand d a b => some (0x5F, d, a, b)
  | .fadd d a b => some (0x60, d, a, b)
  | .fsub d a b => some (0x61, d, a, b)
  | .fmul d a b => some (0x62, d, a, b)
  | .fma d a b => some (0x63, d, a, b)
  | .fmin d a b => some (0x64, d, a, b)
  | .fmax d a b => some (0x65, d, a, b)
  | .fabs d a => some (0x66, d, a, 0)
  | .fneg d a => some (0x67, d, a, 0)
  | .frcp d a => some (0x68, d, a, 0)
  | .frsq d a => some (0x69, d, a, 0)
  | .fexp2 d a => some (0x6A, d, a, 0)
  | .flog2 d a => some (0x6B, d, a, 0)
  | .fscale d a b => some (0x6C, d, a, b)
  | .frnd d a => some (0x6D, d, a, 0)
  | .fclass d a => some (0x6E, d, a, 0)
  | .fsinpi d a => some (0x6F, d, a, 0)
  | .cvt d a b => some (0x70, d, a, b)
  | .cvtw d a b => some (0x71, d, a, b)
  | .cvti2f d a => some (0x72, d, a, 0)
  | .cvtf2i d a => some (0x73, d, a, 0)
  | .cvtr d a b => some (0x74, d, a, b)
  | .qenc d a b => some (0x75, d, a, b)
  | .qdec d a b => some (0x76, d, a, b)
  | .bscl d a b => some (0x77, d, a, b)
  | .pkn d a b => some (0x78, d, a, b)
  | .upkn d a b => some (0x79, d, a, b)
  | .pkb d a b => some (0x7A, d, a, b)
  | .upkb d a b => some (0x7B, d, a, b)
  | .pkh d a b => some (0x7C, d, a, b)
  | .upkh d a b => some (0x7D, d, a, b)
  | .redamax d a => some (0x7E, d, a, 0)
  | .fexpd d a b => some (0x7F, d, a, b)
  | .lds d a b => some (0x80, d, a, b)
  | .sts d a b => some (0x81, d, a, b)
  | .lds2 d a b => some (0x82, d, a, b)
  | .sts2 d a b => some (0x83, d, a, b)
  | .lds4 d a b => some (0x84, d, a, b)
  | .sts4 d a b => some (0x85, d, a, b)
  | .spill a b => some (0x86, 0, a, b)
  | .fill d b => some (0x87, d, 0, b)
  | .atomsAdd d a b => some (0x88, d, a, b)
  | .atomsMin d a b => some (0x89, d, a, b)
  | .atomsMax d a b => some (0x8A, d, a, b)
  | .atomsAnd d a b => some (0x8B, d, a, b)
  | .atomsOr d a b => some (0x8C, d, a, b)
  | .atomsXchg d a b => some (0x8D, d, a, b)
  | .atomsCas d a b => some (0x8E, d, a, b)
  | .fatomsAdd d a b => some (0x8F, d, a, b)
  | .ldx d a b => some (0x90, d, a, b)
  | .stx d a b => some (0x91, d, a, b)
  | .ldx2 d a b => some (0x92, d, a, b)
  | .stx2 d a b => some (0x93, d, a, b)
  | .ldx4 d a b => some (0x94, d, a, b)
  | .stx4 d a b => some (0x95, d, a, b)
  | .atomxAdd d a b => some (0x96, d, a, b)
  | .atomxMin d a b => some (0x97, d, a, b)
  | .atomxMax d a b => some (0x98, d, a, b)
  | .atomxXchg d a b => some (0x99, d, a, b)
  | .atomxCas d a b => some (0x9A, d, a, b)
  | .fatomxAdd d a b => some (0x9B, d, a, b)
  | .ticket d a b => some (0x9C, d, a, b)
  | .fence d a b => some (0x9D, d, a, b)
  | .waitv d a b => some (0x9E, d, a, b)
  | .ldaq d a b => some (0x9F, d, a, b)
  | .cpy a => some (0xA0, 0, a, 0)
  | .cpyt a => some (0xA1, 0, a, 0)
  | .cpyg a => some (0xA2, 0, a, 0)
  | .cpys a => some (0xA3, 0, a, 0)
  | .cpya a => some (0xA4, 0, a, 0)
  | .seal d => some (0xA5, d, 0, 0)
  | .shrun d a b => some (0xA6, d, a, b)
  | .shstat d a => some (0xA7, d, a, 0)
  | .shstop a => some (0xA8, 0, a, 0)
  | .gput a => some (0xA9, 0, a, 0)
  | .gget a b => some (0xAA, 0, a, b)
  | .amend a => some (0xAB, 0, a, 0)
  | .final a => some (0xAC, 0, a, 0)
  | .gqry d a => some (0xAD, d, a, 0)
  | .release d a b => some (0xAE, d, a, b)
  | .egress a b => some (0xAF, 0, a, b)
  | .tld d a b => some (0xB0, d, a, b)
  | .tst d a b => some (0xB1, d, a, b)
  | .tgat d a b => some (0xB2, d, a, b)
  | .tsca d a b => some (0xB3, d, a, b)
  | .tcur d a => some (0xB4, d, a, 0)
  | .tstep d a b => some (0xB5, d, a, b)
  | .xld d a b => some (0xB6, d, a, b)
  | .xst d a b => some (0xB7, d, a, b)
  | .lpset d a b => some (0xB8, d, a, b)
  | .lpend d => some (0xB9, d, 0, 0)
  | .arrive d a => some (0xBA, d, a, 0)
  | .tzero d a b => some (0xBB, d, a, b)
  | .tadd d a b => some (0xBC, d, a, b)
  | .shwait d => some (0xBD, d, 0, 0)
  | .shpost d a => some (0xBE, d, a, 0)
  | .shend => some (0xBF, 0, 0, 0)
  | .guard a b => some (0xC0, 0, a, b)
  | .pack d a => some (0xC1, d, a, 0)
  | .packr d a => some (0xC2, d, a, 0)
  | .packq d a b => some (0xC3, d, a, b)
  | .packa d a b => some (0xC4, d, a, b)
  | .packs d a b => some (0xC5, d, a, b)
  | .wmul d a b => some (0xC6, d, a, b)
  | .wmulk d a b => some (0xC7, d, a, b)
  | .wmulg d a b => some (0xC8, d, a, b)
  | .wmulgk d a b => some (0xC9, d, a, b)
  | .extr d a => some (0xCA, d, a, 0)
  | .extsF32 d a b => some (0xCB, d, a, b)
  | .extsBf16 d a b => some (0xCC, d, a, b)
  | .extsF16 d a b => some (0xCD, d, a, b)
  | .norm d => some (0xCE, d, 0, 0)
  | .aclr d => some (0xCF, d, 0, 0)
  | .rls => some (0xD0, 0, 0, 0)
  | .strm d a => some (0xD1, d, a, 0)
  | .subs d => some (0xD2, d, 0, 0)
  | .unsubs => some (0xD3, 0, 0, 0)
  | .skipq d a => some (0xD4, d, a, 0)
  | .wstat d a => some (0xD5, d, a, 0)
  | .accst d a => some (0xD6, d, a, 0)
  | .accld d a b => some (0xD7, d, a, b)
  | .bfjoin d a => some (0xD8, d, a, 0)
  | .bftake d a b => some (0xD9, d, a, b)
  | .bfdone a => some (0xDA, 0, a, 0)
  | .specpg d a => some (0xDB, d, a, 0)
  | .commit d a b => some (0xDC, d, a, b)
  | .mbxput a b => some (0xDD, 0, a, b)
  | .mbxget d a b => some (0xDE, d, a, b)
  | .cancelq d a => some (0xDF, d, a, 0)
  | .binit a b => some (0xE0, 0, a, b)
  | .barr a => some (0xE1, 0, a, 0)
  | .bexp a b => some (0xE2, 0, a, b)
  | .bwait a b => some (0xE3, 0, a, b)
  | .btry d a b => some (0xE4, d, a, b)
  | .bret a => some (0xE5, 0, a, 0)
  | .bgrd d a => some (0xE6, d, a, 0)
  | .fetchw d => some (0xE7, d, 0, 0)
  | .tryw d => some (0xE8, d, 0, 0)
  | .taskend a b => some (0xE9, 0, a, b)
  | .taskq d a b => some (0xEA, d, a, b)
  | .refire a => some (0xEB, 0, a, 0)
  | .retire a => some (0xEC, 0, a, 0)
  | .gwait a => some (0xED, 0, a, 0)
  | .dispq d a => some (0xEE, d, a, 0)
  | .tmrset a => some (0xEF, 0, a, 0)
  | .cswr d a b => some (0xF0, d, a, b)
  | .csrd d a => some (0xF1, d, a, 0)
  | .mret => some (0xF2, 0, 0, 0)
  | .watch d a => some (0xF3, d, a, 0)
  | .unwatch d => some (0xF4, d, 0, 0)
  | .perfrd d a => some (0xF5, d, a, 0)
  | .prec a => some (0xF6, 0, a, 0)
  | .iflush => some (0xF7, 0, 0, 0)
  | .eccq d a => some (0xF8, d, a, 0)
  | .dot4 d a b => some (0xF9, d, a, b)
  | .dot2 d a b => some (0xFA, d, a, b)
  | .fdot2 d a b => some (0xFB, d, a, b)
  | .madw d a b => some (0xFC, d, a, b)
  | .dbgmsg a b => some (0xFD, 0, a, b)
  | .prio => some (0xFE, 0, 0, 0)
  | .udf => some (0xFF, 0, 0, 0)
  | _ => none

/-- The word of an instruction. -/
def encode (i : Instr) : Option Word :=
  (encodeFields i).map fun (op, d, a, b) => op ++ d ++ a ++ b

end Sys2Proof
end

