-- ==== Sys2Proof/Machine/Float.lean ====
section
/-! DEFINITION. Exact values and rounding: the number formats of R199, RoundTo of R11, the exact sums and products of
R193 and R194, and the integer helpers of R10. -/

namespace Sys2Proof

/-- An exact magnitude or rational number `num / den`, with `den` positive. -/
structure Q where
  num : Int
  den : Nat
  deriving DecidableEq, Repr

namespace Num

def qInt (n : Int) : Q := ⟨n, 1⟩
def qAdd (a b : Q) : Q := ⟨a.num * b.den + b.num * a.den, a.den * b.den⟩
def qMul (a b : Q) : Q := ⟨a.num * b.num, a.den * b.den⟩
def qNeg (a : Q) : Q := ⟨-a.num, a.den⟩
def qAbs (a : Q) : Q := ⟨a.num.natAbs, a.den⟩
def qLt (a b : Q) : Bool := a.num * b.den < b.num * a.den
def qLe (a b : Q) : Bool := a.num * b.den ≤ b.num * a.den

/-- `2^e` exactly. -/
def qPow2 (e : Int) : Q := if 0 ≤ e then ⟨2 ^ e.toNat, 1⟩ else ⟨1, 2 ^ (-e).toNat⟩

/-- A quotient of a number by a positive natural. -/
def qDivNat (a : Q) (n : Nat) : Q := ⟨a.num, a.den * n⟩

/-- The integer part toward minus infinity. -/
def qFloor (a : Q) : Int := a.num.fdiv a.den

end Num

/-- The rounding modes of R11. -/
inductive Rnd where
  | ne | na | tz | up | dn
  deriving DecidableEq, Repr

/-- MR[9:8] (R11). -/
def rndOf (n : Nat) : Rnd :=
  match n % 4 with
  | 0 => .ne
  | 1 => .tz
  | 2 => .up
  | _ => .dn

/-- A floating-point format (R199). -/
structure Fmt where
  width : Nat
  mb    : Nat
  bias  : Nat
  infs  : Bool
  maxEnc : Nat      -- the largest finite magnitude
  nan   : Nat       -- the canonical NaN (R11)
  deriving DecidableEq, Repr

def fmt32 : Fmt := ⟨32, 23, 127, true, 0x7F7FFFFF, 0x7FC00000⟩
def fmt16 : Fmt := ⟨16, 10, 15, true, 0x7BFF, 0x7E00⟩
def fmtBf : Fmt := ⟨16, 7, 127, true, 0x7F7F, 0x7FC0⟩
def fmtE4 : Fmt := ⟨8, 3, 7, false, 0x7E, 0x7F⟩
def fmtE5 : Fmt := ⟨8, 2, 15, true, 0x7B, 0x7E⟩

/-- A value of a format: a finite one by its sign and magnitude, so that zeros keep their sign. -/
inductive FVal where
  | nan
  | inf (neg : Bool)
  | fin (neg : Bool) (mag : Q)
  deriving DecidableEq, Repr

namespace Num

/-- The magnitude bits of an encoding. -/
def magBits (f : Fmt) (x : Nat) : Nat := x % 2 ^ (f.width - 1)

/-- The sign bit of an encoding. -/
def signBit (f : Fmt) (x : Nat) : Bool := x / 2 ^ (f.width - 1) % 2 = 1

/-- The value an encoding holds (R199). -/
def fval (f : Fmt) (x : Nat) : FVal :=
  let m := magBits f x
  let neg := signBit f x
  if m ≤ f.maxEnc then
    let e := m / 2 ^ f.mb
    let fr := m % 2 ^ f.mb
    if e = 0 then .fin neg (qMul (qInt fr) (qPow2 (1 - (f.bias : Int) - f.mb)))
    else .fin neg (qMul (qInt (2 ^ f.mb + fr)) (qPow2 ((e : Int) - f.bias - f.mb)))
  else if f.infs ∧ m = f.maxEnc + 1 then .inf neg
  else .nan

/-- A non-negative rational rounded to an integer; `neg` is the sign of the number it is the magnitude of. -/
def roundNat (m : Rnd) (neg : Bool) (n d : Nat) : Nat :=
  let q := n / d
  let r := n % d
  let inc : Bool :=
    match m with
    | .ne => d < 2 * r || (2 * r == d && q % 2 == 1)
    | .na => d ≤ 2 * r
    | .tz => false
    | .up => !neg && r != 0
    | .dn => neg && r != 0
  if inc then q + 1 else q

/-- The exponent `e` with `2^e ≤ n/d < 2^(e+1)`, for positive `n` and `d`. -/
def expOf (n d : Nat) : Int :=
  let e : Int := (n.log2 : Int) - d.log2
  let ge : Bool := if 0 ≤ e then d * 2 ^ e.toNat ≤ n else d ≤ n * 2 ^ (-e).toNat
  if ge then e else e - 1

/-- The magnitude encoding that a finite magnitude rounds to, overflow included (R11). -/
def roundMag (f : Fmt) (m : Rnd) (neg : Bool) (q : Q) : Nat :=
  let n := q.num.natAbs
  if n = 0 then 0 else
  let emin : Int := 1 - f.bias
  let e := expOf n q.den
  let ee := if e < emin then emin else e
  let k : Int := ee - f.mb
  let sig := if 0 ≤ k then roundNat m neg n (q.den * 2 ^ k.toNat) else roundNat m neg (n * 2 ^ (-k).toNat) q.den
  let enc := (ee - emin).toNat * 2 ^ f.mb + sig
  if enc ≤ f.maxEnc then enc
  else if f.infs then
    match m with
    | .ne | .na => f.maxEnc + 1
    | .tz => f.maxEnc
    | .up => if neg then f.maxEnc else f.maxEnc + 1
    | .dn => if neg then f.maxEnc + 1 else f.maxEnc
  else f.maxEnc

/-- Sign and magnitude together. -/
def withSign (f : Fmt) (neg : Bool) (m : Nat) : Nat := if neg then 2 ^ (f.width - 1) + m else m

/-- RoundTo (R11). -/
def roundTo (f : Fmt) (m : Rnd) : FVal → Nat
  | .nan => f.nan
  | .inf neg => withSign f neg (if f.infs then f.maxEnc + 1 else f.maxEnc)
  | .fin neg q => withSign f neg (roundMag f m neg q)

/-- Whether an encoding is subnormal. -/
def isSub (f : Fmt) (x : Nat) : Bool := magBits f x != 0 && magBits f x < 2 ^ f.mb

/-- A subnormal becomes a zero of its sign when flushing is on (R11, R193). -/
def flush (on : Bool) (f : Fmt) (x : Nat) : Nat := if on && isSub f x then withSign f (signBit f x) 0 else x

/-- The signed rational of a finite value. -/
def signedQ (neg : Bool) (q : Q) : Q := if neg then qNeg q else q

/-- The exact sum of two values, with the zero signs of R194. -/
def fadd (m : Rnd) : FVal → FVal → FVal
  | .nan, _ => .nan
  | _, .nan => .nan
  | .inf a, .inf b => if a = b then .inf a else .nan
  | .inf a, .fin _ _ => .inf a
  | .fin _ _, .inf b => .inf b
  | .fin a x, .fin b y =>
    let t := qAdd (signedQ a x) (signedQ b y)
    if t.num = 0 then .fin (if a = b then a else m = .dn) (qInt 0)
    else .fin (t.num < 0) (qAbs t)

/-- The exact product of two values. -/
def fmul : FVal → FVal → FVal
  | .nan, _ => .nan
  | _, .nan => .nan
  | .inf a, .inf b => .inf (a != b)
  | .inf a, .fin b y => if y.num = 0 then .nan else .inf (a != b)
  | .fin a x, .inf b => if x.num = 0 then .nan else .inf (a != b)
  | .fin a x, .fin b y => .fin (a != b) (qMul x y)

/-- The value with its sign inverted. -/
def fneg : FVal → FVal
  | .nan => .nan
  | .inf a => .inf (!a)
  | .fin a x => .fin (!a) x

/-- Order of two values that are not NaN; with `zeros`, -0 lies below +0. -/
def fless (zeros : Bool) : FVal → FVal → Bool
  | .inf a, .inf b => a && !b
  | .inf a, .fin _ _ => a
  | .fin _ _, .inf b => !b
  | .fin a x, .fin b y =>
    let p := signedQ a x
    let q := signedQ b y
    qLt p q || (zeros && p.num == 0 && q.num == 0 && a && !b)
  | _, _ => false

/-- Equality of two values that are not NaN; zeros are equal whatever their sign. -/
def feq : FVal → FVal → Bool
  | .inf a, .inf b => a == b
  | .fin a x, .fin b y => qLe (signedQ a x) (signedQ b y) && qLe (signedQ b y) (signedQ a x)
  | _, _ => false

def isNan : FVal → Bool
  | .nan => true
  | _ => false

/-- A finite value rounded to an integer. -/
def roundInt (m : Rnd) (neg : Bool) (q : Q) : Int :=
  let n := roundNat m neg q.num.natAbs q.den
  if neg then -(n : Int) else n

/-- The largest natural whose square is at most `n`, found bit by bit from bit `k`. -/
def isqrtFrom (n : Nat) : Nat → Nat → Nat
  | 0, r => if (r + 1) * (r + 1) ≤ n then r + 1 else r
  | k + 1, r => isqrtFrom n k (if (r + 2 ^ (k + 1)) * (r + 2 ^ (k + 1)) ≤ n then r + 2 ^ (k + 1) else r)

def isqrt (n : Nat) : Nat := isqrtFrom n (n.log2 / 2 + 1) 0

end Num
end Sys2Proof
end

