-- ==== Sys2Proof/Machine/Sparse.lean ====
section
/-! DEFINITION. Sparse maps from addresses or indexes to bit vectors, in one canonical form: keys strictly rising, and
no entry equal to the default `d` that an unlisted key reads as. Every memory and every large register array of the
machine is held so. -/

namespace Sys2Proof

/-- A sparse map of `w`-bit entries. -/
abbrev Sparse (w : Nat) := List (Nat × BitVec w)

/-- The entry at key `a`; `d` where none is listed. -/
def sget {w : Nat} (d : BitVec w) : Sparse w → Nat → BitVec w
  | [], _ => d
  | (b, v) :: r, a => if a = b then v else if a < b then d else sget d r a

/-- The map with `v` at key `a`, in canonical form again. -/
def sset {w : Nat} (d : BitVec w) : Sparse w → Nat → BitVec w → Sparse w
  | [], a, v => if v = d then [] else [(a, v)]
  | (b, u) :: r, a, v =>
    if a = b then (if v = d then r else (a, v) :: r)
    else if a < b then (if v = d then (b, u) :: r else (a, v) :: (b, u) :: r)
    else (b, u) :: sset d r a v

/-- The canonical form, from keys at least `lo`. -/
def sparseWfFrom {w : Nat} (d : BitVec w) (lo : Nat) : Sparse w → Bool
  | [] => true
  | (b, v) :: r => decide (lo ≤ b) && decide (v ≠ d) && sparseWfFrom d (b + 1) r

/-- The canonical form. -/
def sparseWf {w : Nat} (d : BitVec w) (m : Sparse w) : Bool := sparseWfFrom d 0 m

end Sys2Proof
end

