-- ==== Sys2Proof/Machine/State.lean ====
section
/-! DEFINITION. The state of the NZ-3200 module as plain data, and its state after reset. Tables (`teams`,
`harnesses`, `launches`, ...) are lists indexed by number; an entry keeps its number for good. What a harness owns is
held in its own record, so that a swap only changes which record is resident (R77, R409). -/

namespace Sys2Proof.Machine

/-- A byte memory: address and byte pairs in canonical form; an unlisted byte reads 0 (R450 step 5; log 4). -/
abbrev Memory := List Host.Cell

/-- The canonical form of a memory. -/
def Memory.wf (m : Memory) : Bool := sparseWf 0 m

/-- Why the model stops. -/
inductive Fault where
  /-- Raised by every instruction word that is run while no team and no Shuttle is there to issue it. Safe: the
  machine has no such step. -/
  | noParty
  deriving DecidableEq, Repr

/-- Why the model gives an instruction no meaning. -/
inductive Refusal where
  /-- Raised by an arm of `exec` not written yet. Safe: nothing is claimed of it. -/
  | notModelled (mnemonic : String)
  deriving DecidableEq, Repr

/-- Who issues an instruction (R94, R103). -/
inductive Party where
  | none
  | team (t : Nat)
  | shuttle (h n : Nat)
  deriving DecidableEq, Repr

/-- A firmware image slot of the board flash (R449): its bytes from the start of the header on. -/
structure FwImage where
  bytes : List Byte := []
  deriving DecidableEq, Repr

/-- The writes of graded cells (R342 to R344, R358). -/
inductive GradedKind where
  | gput | amend | final
  deriving DecidableEq, Repr

/-- Where an ECC error was corrected (R436). -/
inductive EccPlace where
  | shared | regs | scratch | hbm
  deriving DecidableEq, Repr

/-- What a step without a word acts on: the constructor says which of these it reads. -/
structure EvArgs where
  f      : Nat := 0
  q      : Nat := 0
  seq    : Word := 0
  id     : Nat := 0
  team   : Nat := 0
  path   : Nat := 0
  core   : Nat := 0
  part   : Nat := 0
  launch : Nat := 0
  die    : Nat := 0
  cid    : Nat := 0
  role   : Nat := 0
  tid    : Nat := 0
  opnd   : Nat := 0
  lane   : Nat := 0
  ctl    : Bool := false
  off    : Nat := 0
  n      : Nat := 0
  v      : BitVec 64 := 0
  bytes  : List Byte := []
  nums   : List Nat := []
  pairs  : List (Nat × Nat) := []
  image0 : FwImage := {}
  image1 : FwImage := {}
  graded : GradedKind := .gput
  place  : EccPlace := .shared
  deriving DecidableEq, Repr

/-- A place bytes are read from or written to. -/
inductive Loc where
  | shared (h a : Nat) | scratch (die a : Nat) | hbm (a : Nat) | cxl (a : Nat) | host (a : Nat) | peer (p a : Nat)
  | zero
  deriving DecidableEq, Repr

/-- One turn of the schedule: a party issues, a step without a word happens, or a host or a peer writes its own memory: bytes
from a place on, and tags of the cells that a peer keeps there (log 81). -/
inductive Turn where
  | issue (p : Party)
  | event (i : Instr) (ev : EvArgs)
  | outside (l : Loc) (bytes : List Byte) (tags : List (Nat × Byte))
  deriving DecidableEq, Repr

/-- The registers an instruction names by operand bytes (R79). Key of `v`: 1024 times the register plus the lane;
`skip` holds the skip mark of each vector register (R298). -/
structure RegFile where
  v    : Sparse 32 := []
  s    : Sparse 32 := []
  p    : Sparse 1024 := []
  skip : BitVec 192 := 0
  deriving DecidableEq, Repr

/-- A path's wait at JOIN (R162); the deadline is a value of TMR (R163). -/
structure JoinWait where
  deadline : Option Nat
  deriving DecidableEq, Repr

/-- What a path's next instruction waits for: the limits of a WAIT (R146), the dependences of R137, room or a count
that the instruction tests again when it issues again, and a gang (R296). `met`: the wait is over, and the instruction
completes when it issues again; `lost`: its barrier slot, here given, was retired (R331); `start`: a SHRUN whose Shuttle is not
yet free (R267); `put`: a put to a full mailbox (R389). -/
inductive Dep where
  | counters (l s c m : Nat)
  | sleep (wake : Nat)
  | barrier (slot : Nat) (epoch : Nat)
  | grade (region first count grade : Nat)
  | tile
  | value (addr : Nat) (scratch : Bool) (cond : Nat) (cmp : Word)
  | retry
  | gang
  | met
  | lost (slot : Nat)
  | start (shuttle pc : Nat) (param : Word)
  | put (mailbox : Nat)
  deriving DecidableEq, Repr

/-- What a team instruction that wrote a watched word leaves: the number of instructions that its team had issued before,
the lowest watchpoint that it met, and that one's address (R435). -/
structure WatchHit where
  issued : BitVec 64
  index  : Nat
  addr   : Nat
  deriving DecidableEq, Repr

/-- A live entry of the path table (R158); `mac` is the macro buffer and the index of its next word, so that each path has a buffer of
its own and an MCALL of another path leaves it as it is (log 122), `resume` the word at which an MCALL resumes (R115, R121); `fence` lists the operations that a FENCE makes its next instruction wait for
(R238). -/
structure Path where
  pc    : Nat := 0
  mask  : BitVec 1024 := 0
  mac   : Option (List Word × Nat) := none
  resume : Nat := 0
  token : Option Nat := none
  join  : Option JoinWait := none
  dep   : Option Dep := none
  held  : Bool := false
  fence : List Nat := []
  slot  : Nat := 0                       -- the issue slot that chose its macro (R122)
  step  : Bool := false                  -- its step trap is due (R395)
  watch : List WatchHit := []            -- its watchpoint traps that are due, oldest first (R395, R435)
  deriving DecidableEq, Repr

/-- Control flow state of a team. -/
structure Flow where
  paths   : List (Option Path) := List.replicate 16 none
  path    : Nat := 0
  quantum : Nat := 0
  nest    : Sparse 8 := []
  shadow  : Sparse 8 := []
  deriving DecidableEq, Repr

/-- The mode and control registers of a team (R84, R86, R237, R403). -/
structure Ctl where
  mr       : BitVec 24 := 0
  parked   : Bool := false
  halted   : Bool := false
  inh      : Bool := false
  step     : Bool := false
  tvec     : BitVec 22 := 0
  tpcPc    : BitVec 22 := 0
  tpcMwi   : BitVec 5 := 0
  tcause   : BitVec 8 := 0
  taddrLo  : Word := 0
  taddrHi  : Word := 0
  pquant   : BitVec 16 := 32
  tmrcmp   : BitVec 64 := 0
  cmpHeld  : Word := 0
  tmr      : BitVec 64 := 0
  snap     : Option (Bool × Word) := none   -- high half taken by the last RDCR: true CYC, false TMR (R88)
  svcring  : BitVec 8 := 0
  bfwin    : Word := 2000
  ssp      : BitVec 21 := 0
  sspBase  : BitVec 21 := 0
  ssplim   : BitVec 21 := 0
  tmode    : BitVec 24 := 0
  pflt     : BitVec 9 := 0      -- PEND and CAUSE of PFLT (R403)
  prio     : BitVec 2 := 0
  gang     : BitVec 13 := 0
  deriving DecidableEq, Repr

/-- A register marked by a pending operation, with its producer (R90). -/
structure Mark where
  reg : Byte
  pc  : Nat
  id  : Nat
  deriving DecidableEq, Repr

/-- A copy batch not yet complete (R91). -/
structure Batch where
  no     : Word
  left   : Nat
  closed : Bool
  deriving DecidableEq, Repr

/-- Dependence counters, scoreboard and batches (R89 to R91); C is the number of incomplete batches. -/
structure Deps where
  l       : Nat := 0
  s       : Nat := 0
  m       : Nat := 0
  marks   : List Mark := []
  next    : Word := 1
  batches : List Batch := []
  sharedRound : Nat := 0     -- round fences executed, shared domain (R235)
  scratchRound : Nat := 0
  sharedSeq : Nat := 0       -- ordered adds issued in the current round (R234)
  scratchSeq : Nat := 0
  deriving DecidableEq, Repr

/-- A WM configuration (R284, R302). -/
structure WmConfig where
  w    : Nat
  cL   : Nat
  cS   : Nat
  lo   : Nat
  cnt  : Nat
  base : Nat
  fr   : Nat
  deriving DecidableEq, Repr

/-- The latched long operand (R131, R307). -/
structure Latch where
  reg  : Nat
  data : BitVec 2048
  skip : Bool
  deriving DecidableEq, Repr

/-- WM state of a team (R284, R294, R307, R318). -/
structure WmState where
  cfg   : Option WmConfig := none
  latch : Option Latch := none
  skips : Word := 0
  ovf   : Bool := false
  sub   : Option (Nat × Nat) := none   -- subscribed stream and position
  deriving DecidableEq, Repr

/-- A tile (R39, R353). -/
structure Tile where
  task : Word
  x    : Word
  y    : Word
  z    : Word
  deriving DecidableEq, Repr

/-- Traps and requests that are due to a team (R396, R412); step and watchpoint traps stand with their path. -/
structure Due where
  shuttle : List (Nat × BitVec 8) := []  -- Shuttles that entered STATE 3, oldest first (R255)
  timer   : Bool := false                -- the timer trap (R402)
  halt    : Bool := false                -- a debugger's halt requested (R431)
  haltAt  : Nat := 0                     -- the cycle of that request, or of the halt (R412)
  one     : Option Nat := none           -- single step of a path (R432)
  entry   : Bool := false                -- a recorded trap whose entry waits for the resume (R412)
  served  : Option (BitVec 8 × Nat × Bool) := none   -- a recorded host-served fault that waits for the resume (R412)
  deriving DecidableEq, Repr

/-- Where a team stands (R135, R138, R167). -/
inductive Place where
  | active | pending | moving | parked | ended
  deriving DecidableEq, Repr

/-- How a team stands in the present cycle: it may be chosen (R142); the scoreboard blocks it (R90); it waits on a
long-latency dependence, or for it in the pending set (R137); it is pending and ready (R136); it still has passes to
issue (R141); or none of these. -/
inductive Standing where
  | none | eligible | stalled | waiting | ready | issuing
  deriving DecidableEq, Repr

/-- What a launch fixes of a team (R31, R66, R67). -/
structure TeamInfo where
  harness : Nat := 0
  launch  : Nat := 0
  core    : Nat := 0
  part    : Nat := 0
  cid     : Nat := 0
  role    : Nat := 0
  tid     : Nat := 0
  grp     : Nat := 1
  budget  : Nat := 8
  cpr     : Bool := false
  index   : Nat := 0        -- resident index on its partition (R138)
  deriving DecidableEq, Repr

/-- A team's counters for PERFRD, the issue choice and stall samples (R436, R142, R428). -/
structure Perf where
  issued   : BitVec 64 := 0
  idle     : BitVec 64 := 0
  stalls   : BitVec 64 := 0
  passes   : BitVec 64 := 0
  lastIssue : Nat := 0
  deriving DecidableEq, Repr

/-- A team (R13, R70). -/
structure Team where
  info  : TeamInfo := {}
  place : Place := .pending
  standing : Standing := .none
  since : Nat := 0          -- the cycle since which it stands so (R138, R142, R143)
  busyTil : Option Nat := none  -- the cycle from which its next instruction may issue (R141)
  fetch : List Nat := []    -- operations that its fetch waits for (R393, R435)
  yields : Bool := false    -- a YIELD's exchange that is still to begin (R147)
  sent  : List Nat := []    -- paths whose waits sent it to the pending set (R136)
  regs  : RegFile := {}
  flow  : Flow := {}
  ctl   : Ctl := {}
  deps  : Deps := {}
  wm    : WmState := {}
  tiles : List Tile := []
  due   : Due := {}
  svc   : List (Nat × Nat) := []   -- ring slot counts and lanes of the entries of a parked team (R407)
  svcOn : Nat := 0                 -- the ring on which it called (R406)
  svcFound : Bool := false         -- a check has found its entries done: its resumption stands, or is due at the restore (R408, R413)
  perf  : Perf := {}
  deriving DecidableEq, Repr

/-- A tensor cursor (R257). -/
structure Cursor where
  space : Nat
  src   : Nat
  run   : Nat
  ndim  : Nat
  cnt   : List Nat
  str   : List Int
  idx   : List Nat
  addr  : Int
  deriving DecidableEq, Repr

/-- A hardware loop of a Shuttle (R278). -/
structure HwLoop where
  count  : Word := 0
  start  : Nat := 0
  active : Bool := false
  deriving DecidableEq, Repr

/-- One leaf of a page table as it is used (R415). -/
structure Leaf where
  tier   : Nat
  target : Nat       -- address of the page in its tier, or in the peer's space
  peer   : Nat
  spec   : Bool
  graded : Bool
  write  : Bool
  deriving DecidableEq, Repr

/-- A TLB entry: function, base and size of the virtual page, leaf (R417). -/
structure TlbEntry where
  f    : Nat
  base : Nat
  size : Nat
  leaf : Leaf
  deriving DecidableEq, Repr

/-- A Shuttle (R242, R256). -/
structure Shuttle where
  regs    : RegFile := {}
  cursors : List (Option Cursor) := List.replicate 4 none
  loops   : List HwLoop := List.replicate 4 {}
  pc      : Nat := 0
  state   : Nat := 0
  cause   : BitVec 8 := 0
  role    : Nat := 0
  tid     : Nat := 0
  starter : Option Nat := none
  faddr   : BitVec 64 := 0
  marks   : List Mark := []
  accesses : Nat := 0        -- loads, stores and atomics not yet performed
  fence   : List Nat := []   -- operations that a FENCE makes its next instruction wait for (R238)
  fault   : Bool := false    -- a host-served wait is recorded (R254)
  posted  : Bool := false    -- its waiting put has been applied (R281, R389)
  run     : Nat := 0         -- programs started so far; what an earlier one left in flight is not counted (R242)
  last    : Nat := 0         -- one more than the cycle of its last issue; 0: none yet (R244)
  deriving DecidableEq, Repr

/-- A range lock (R250): bytes `lo` up to, not including, `hi`. -/
structure Lock where
  id   : Nat
  lo   : Nat
  hi   : Nat
  dest : Bool
  shuttle : Option Nat
  deriving DecidableEq, Repr

/-- One contiguous move of a transfer. -/
structure Seg where
  src : Loc
  dst : Loc
  len : Nat
  deriving DecidableEq, Repr

/-- A transfer in flight (R246 to R250): a Shuttle's own, or a piece of a copy. -/
structure Transfer where
  id      : Nat
  h       : Nat
  shuttle : Nat
  run     : Nat := 0              -- the program of the Shuttle that issued it (R242)
  segs    : List Seg
  add     : Bool
  ordered : Bool := false         -- a copy's pieces whose writes to one word keep the order of issue (R263, R264)
  port    : Nat := 0              -- the port of its host words (R365)
  sent    : Option Nat := none    -- its place in the order in which ports sent their writes (R365)
  applied : Bool := false         -- the home has applied its writes (R365)
  barrier : Option Nat
  copy    : Option Nat
  data    : Option (List Byte)
  reg     : Option (Byte × Nat)   -- XLD's destination
  word    : Option Word           -- XST's data
  pages   : List (Nat × Nat × Nat) := []   -- translations held: function, base, size (R418)
  deriving DecidableEq, Repr

/-- A copy of the copy queue (R258). -/
structure Copy where
  id     : Nat
  h      : Nat
  team   : Nat
  batch  : Word
  pieces : List (List Seg)
  flying : Nat
  add    : Bool
  ordered : Bool := false
  unread : Nat := 0           -- pieces whose source bytes are still to be read (R250)
  pc     : Nat := 0           -- of its instruction (R428)
  pages  : List (Nat × Nat × Nat)
  deriving DecidableEq, Repr

/-- A graded instruction whose data has not been applied or landed (R341, R346). -/
structure GradedFlight where
  id     : Nat
  h      : Nat
  party  : Party
  run    : Nat := 0               -- of a Shuttle: the program that issued it (R242)
  team   : Nat
  batch  : Word
  kind   : Option GradedKind      -- none: GGET
  launch : Nat
  region : Nat
  first  : Nat
  count  : Nat
  grade  : Nat
  hop    : Nat
  data   : List Byte
  sh     : Nat
  slot   : Nat
  input  : Nat
  lowG   : Nat
  highN  : Nat
  pc     : Nat := 0                       -- of its instruction (R428)
  locs   : List Loc := []                 -- the places of the cells, as translated at issue
  packet : Option (Nat × Nat × Nat) := none   -- of a host's GPUT: function, queue, number of the packet
  sent   : Option Nat := none             -- its place in the order in which ports sent their writes (R365)
  applied : Bool := false                 -- the home has applied its cells and tags (R365)
  pages  : List (Nat × Nat × Nat) := []
  deriving DecidableEq, Repr

/-- A write of the IO die to a peer or to host memory that a port holds until its home acknowledges it (R365): bytes, or a number
that the home adds to its 64-bit word. -/
structure PortWrite where
  id      : Nat                           -- its number, which is its place in the order of sending
  port    : Nat
  loc     : Loc
  bytes   : List Byte
  add     : Option (BitVec 64) := none
  packet  : Option (Nat × Nat × Nat) := none   -- whose write it is: function, queue, number of the packet
  reply   : Option (Nat × Nat) := none    -- of a remote add: the function and offset of its answer (R43)
  event   : Option Nat := none            -- of an event message: its function (R442)
  found   : List Byte := []               -- the bytes that the home found
  applied : Bool := false
  deriving DecidableEq, Repr

/-- A load, store, atomic or WM operation in flight (R89); `hold`: an instruction that only occupies its WM (R319). -/
inductive OpKind where
  | load | store | wm | hold
  deriving DecidableEq, Repr

/-- The operations of an atomic (R232). -/
inductive AtomOp where
  | add | min | max | and | or | xchg | cas
  deriving DecidableEq, Repr

/-- One access of a word: a read, or the write that an operation makes of the old word and the data `d`, `d1`; the register
that takes the word found (R228, R232). -/
structure Act where
  lane : Nat
  addr : Nat
  op   : Option AtomOp := none
  sgn  : Bool := false
  d    : Word := 0
  d1   : Word := 0
  dst  : Option Byte := none
  deriving DecidableEq, Repr

/-- What a party has asked that is done in a later cycle: of the Graph Sequencer, a REFIRE of a task, or a TASKQ of a task, with its
selector and the register that takes the word (R352, R356); of a service ring, the entries of an SVC with its number, its ring and its
lanes, the parking of their team, and the end of team `t`'s call (R413). -/
inductive Ask where
  | refire (task : Nat)
  | query (task sel : Nat) (d : Byte)
  | call (n : Word) (ring : Nat) (lanes : List Nat)
  | park
  | resume (t : Nat)
  deriving DecidableEq, Repr

/-- What still has to act: a pass of an access of shared memory (R229), a store of die scratch, or an access that follows one to
its word (R230, R392), the wave of an ACCST or ACCLD (R315), what has been asked (R352, R356, R413). Its place in the order
of cycles, the operation it belongs to, the party and path that issued it, the lanes whose accesses they are (R361), the cycle of
its issue, that team's instructions issued before, and its accesses; for an ACCLD the accumulator, its form and the address of its
image. -/
structure Late where
  key     : Nat
  id      : Nat
  party   : Party
  path    : Nat
  lanes   : BitVec 1024 := 0
  cycle   : Nat := 0
  issued  : BitVec 64
  acts    : List Act := []
  scratch : Bool := false
  image   : Option (Nat × Bool × Nat) := none
  ask     : Option Ask := none
  deriving DecidableEq, Repr

/-- An operation in flight, and who waits for it. An access that FENCE orders has its space, `some true` for die scratch,
and the lanes it belongs to (R169, R238); a BARR whose update is still to come has its slot (R329). -/
structure PendOp where
  id    : Nat
  party : Party
  kind  : OpKind
  part  : Nat := 0
  pc    : Nat := 0          -- of its instruction (R428)
  wm    : Option Nat := none
  space : Option Bool := none
  lanes : BitVec 1024 := 0
  after : List Nat := []                  -- of a BARR: the accesses that come before its update (R329)
  slot  : Option (Nat × Nat) := none      -- of a BARR: harness and barrier slot
  deriving DecidableEq, Repr

/-- An operand stream (R293). -/
structure Stream where
  base   : Nat
  rows   : Nat
  win    : Nat
  fill   : Nat
  free   : Nat
  filled : Nat
  freed  : Nat
  deriving DecidableEq, Repr

/-- A watchpoint (R434). -/
structure Watch where
  addr    : Nat
  scratch : Bool
  change  : Bool
  value   : Word
  mask    : Word
  deriving DecidableEq, Repr

/-- An entry of an ordered-add domain (R234). -/
structure OrdEntry where
  cid   : Nat
  role  : Nat
  tid   : Nat
  lane  : Nat
  seq   : Nat
  round : Nat
  die   : Nat
  addr  : Nat
  value : Word
  deriving DecidableEq, Repr

/-- An ordered-add domain (R234 to R237). -/
structure OrdDomain where
  mask    : Option (BitVec 4) := none
  entries : List OrdEntry := []
  rounds  : Nat := 0
  deriving DecidableEq, Repr

/-- A gang rendezvous in progress (R296). -/
structure GangRound where
  gang  : BitVec 13
  keep  : Bool
  acc   : Nat
  cfg   : WmConfig
  strm  : Bool
  here  : List (Nat × Byte × Byte)   -- teams held, with their A and B bytes
  deriving DecidableEq, Repr

/-- The accumulators of one partition (R83, R207). -/
structure HPart where
  acc  : Sparse 4096 := []
  form : BitVec 16 := 0
  active  : List Nat := []         -- the sets, saved while the harness is away (R409)
  pending : List Nat := []
  deriving DecidableEq, Repr

/-- A harness: all that a context owns on one core (R77). -/
structure Harness where
  launch   : Nat := 0
  core     : Nat := 0
  vcore    : Nat := 0
  alive    : Bool := true
  started  : Bool := false
  blocked  : Bool := false          -- waits for a host-served fault (R403, R404)
  blockedAt : Nat := 0              -- the cycle of the first such fault (R404)
  shared   : Memory := []
  live     : Sparse 1 := []         -- live bit of the slot at a byte address (R322)
  locks    : List Lock := []
  shuttles : List Shuttle := List.replicate 4 {}
  copyq    : List Nat := []
  streams  : List (Option Stream) := List.replicate 8 none
  macros   : Sparse 38 := []        -- tag above word, at 32·m + entry; unlisted: MRET (R114)
  watch    : List (Option Watch) := List.replicate 4 none
  dom      : OrdDomain := {}
  parts    : List HPart := List.replicate 8 {}
  code     : Memory := []           -- code memory at the last IFLUSH, as offsets from CODEBASE (R106)
  gangs    : List GangRound := []
  waves    : BitVec 64 := 0         -- PERFRD 4
  moved    : BitVec 64 := 0         -- PERFRD 7
  wmBusy   : List (BitVec 64) := List.replicate 8 0   -- PERFRD 5
  pairs    : List (BitVec 64) := List.replicate 8 0   -- PERFRD 6
  deriving DecidableEq, Repr

/-- A set change (R138). -/
structure SetChange where
  inTeam  : Nat
  outTeam : Option Nat
  deriving DecidableEq, Repr

/-- What a core keeps of one partition. -/
structure CPart where
  active  : List Nat := []
  pending : List Nat := []
  changes : List SetChange := []              -- in progress, oldest first (R138)
  begun   : Nat := 0                          -- one more than the cycle in which the last one began (R138)
  engines : List Nat := List.replicate 6 0    -- last cycle accepted (R142)
  ports   : List (Option Nat) := List.replicate 7 none  -- cycle from which a port is free; the vector ALU has two (R140)
  chosen  : List (Nat × Nat) := []            -- slots that have issued in cycle `chosenAt`, with their teams (R142)
  chosenAt : Nat := 0
  busy    : List (Option Nat) := List.replicate 8 none  -- operation that occupies each WM (R289)
  credit  : Int := 0                          -- WM credit (R441)
  samples : Nat := 0                          -- stall samples taken (R428)
  taken   : List (Nat × List Word) := []      -- their records not yet entered: launch and words, oldest first
  deriving DecidableEq, Repr

/-- A core (R14). -/
structure Core where
  cyc       : BitVec 64 := 0
  resident  : Option Nat := none
  preempt   : Bool := false        -- pre-emption requested, engines stopping (R409)
  preemptAt : Nat := 0             -- the cycle of that request, in which due traps come before it (R412)
  slice     : Nat := 0
  heldReq   : List Nat := []       -- a pre-emption request is held: the teams whose halts coincided with it (R412)
  idle      : Nat := 0             -- consecutive cycles of the idle rule (R78)
  lastRun   : Nat := 0             -- one more than the harness that ran last; 0: none yet (R77)
  inService : Bool := true
  uncorr    : Nat := 0
  eccShared : Word := 0
  eccRegs   : Word := 0
  parts     : List CPart := List.replicate 8 {}
  left      : List (Nat × Memory) := []   -- shared memory that a function left (R70)
  tlbs      : List (List TlbEntry) := List.replicate 4 []   -- of the Shuttles (R245)
  copyTlb   : List TlbEntry := []         -- of the copy queue (R245)
  deriving DecidableEq, Repr

/-- A non-leaf entry that a walker complex has cached: function, level of the table it stands in, the addresses that it
serves, in units of what one entry of that level covers, and the table it names (R417). -/
structure WalkEntry where
  f     : Nat
  lv    : Nat
  tag   : Nat
  table : Nat
  deriving DecidableEq, Repr

/-- A compute die (R14), with the cache of its walker complex (R417). -/
structure Die where
  scratch    : Memory := []
  eccScratch : Word := 0
  eccHbm     : Word := 0
  walker     : List WalkEntry := []
  deriving DecidableEq, Repr

/-- A signal of a queue program: a place, or a word of the queue's ring (R63). -/
inductive Sig where
  | place (l : Loc)
  | ring (a : Nat)
  deriving DecidableEq, Repr

/-- A packet: read, or accepted, which starts its action, and not yet completed (R48, R53). -/
structure Packet where
  seq     : Word
  words   : List Word
  id      : Nat := 0              -- its number as an accepted packet
  started : Bool := false         -- its action has started (R56)
  done    : Bool := false         -- its action is done, its completion still to come (R57)
  csig    : Option Loc := none
  buf     : List (Sig × BitVec 64) := []   -- signal writes of its program that wait for its start (R54, R62; log 88)
  signalled : Bool := false       -- a port has sent the decrement of its completion signal (R57, R365)
  unit    : Word := 0             -- RDIDX at its acceptance (R54)
  raw     : List Word := []       -- the words that its units held in the ring (R54)
  after   : Option (List Nat) := none   -- of an MBOX: the writes of its queue processor that its put waits for (R389)
  orphan  : Bool := false         -- of a destroyed queue whose table entry was lost (R46, R64)
  deriving DecidableEq, Repr

/-- A queue (R45, R52, R61). -/
structure Queue where
  state    : Nat := 0
  logn     : Nat := 0
  ringoff  : Word := 0
  lastacc  : Word := 0
  lastcomp : Word := 0
  rdidx    : Word := 0
  nextseq  : Word := 0
  notified : Word := 0
  prog     : List Word := []
  progMask : BitVec 12 := 0
  sigBase  : Nat := 0
  sigLen   : Nat := 0
  taken    : Option Packet := none   -- the packet read that its queue's turn will accept and start (R54, R58)
  accepted : List Packet := []
  finished : List Word := []      -- completed out of order, for LASTCOMP (R57)
  deriving DecidableEq, Repr

/-- An armed event request (R49). -/
structure EvReq where
  addr : Nat
  cond : Nat
  cmp  : BitVec 64
  deriving DecidableEq, Repr

/-- Who has put a message that waits: a path of a team, a Shuttle, a packet (R388). -/
inductive Putter where
  | team (t path : Nat) | shuttle (h n : Nat) | packet (q id : Nat)
  deriving DecidableEq, Repr

/-- A put that waits at the IO die (R389). -/
structure Put where
  mailbox : Nat
  who     : Putter
  msg     : List Word
  deriving DecidableEq, Repr

/-- A function (R438, R43). -/
structure Func where
  state   : Nat := 0
  disable : Bool := false          -- the reset in progress ends in disable
  swept   : Bool := false          -- its steps 3 and 4 have been taken (R444)
  root    : BitVec 57 := 0
  slw     : BitVec 8 := 0
  wmw     : BitVec 8 := 0
  bfgrp   : BitVec 4 := 0
  ccnt    : BitVec 9 := 0
  cbase   : BitVec 8 := 0
  slen    : BitVec 12 := 0
  sbase   : BitVec 12 := 0
  evtaddr : BitVec 64 := 0
  evtNum  : Word := 0
  evlog   : Sparse 256 := []
  queues  : List (Nat × Queue) := []
  qmem    : Memory := []
  mbox    : Memory := []
  puts    : List Put := []              -- puts that wait, in order of arrival (R389)
  dbgdata : BitVec 64 := 0
  nonce   : BitVec 256 := 0
  attest  : Option (Nat × BitVec 256) := none   -- report address and the nonce read (R451)
  report  : Option Nat := none                  -- the write of that report, which a port has sent (R365, R451)
  invseq  : BitVec 64 := 0
  invals  : List (List Nat) := []  -- invalidations not complete: transfers and copies that hold a dropped translation
  evwait  : List (Nat × List Byte) := []   -- event messages still to be sent, with their addresses, oldest first (R442)
  evreqs  : List EvReq := []
  tags    : Sparse 8 := []         -- graded tags, by virtual address div 256 (R335)
  deriving DecidableEq, Repr

/-- A role descriptor (R31). -/
structure Role where
  entry : Nat := 0
  trapv : Nat := 0
  cpr   : Bool := false
  teams : Nat := 1
  grp   : Nat := 1
  bud   : Nat := 1
  svcr  : BitVec 8 := 0
  pri   : BitVec 2 := 0
  spill : Nat := 0
  pq    : BitVec 16 := 0
  bfw   : Word := 0
  deriving DecidableEq, Repr

/-- A format slot (R33). -/
structure Slot where
  kind : Nat := 0
  lblk : Nat := 0
  sblk : Nat := 0
  thr  : Int := -128
  rlx  : Bool := false
  deriving DecidableEq, Repr

/-- A graded region (R36). -/
structure Region where
  base  : Nat
  cells : Nat
  clr   : Bool
  deriving DecidableEq, Repr

/-- A range of graded cells of a task record (R40). -/
structure CellRange where
  reg   : Nat
  first : Nat
  count : Nat
  ming  : Nat
  cgen  : Nat
  deriving DecidableEq, Repr

/-- A task and its live state (R38, R349 to R356). -/
structure Task where
  tpri    : Nat
  rolem   : Nat
  tx      : Nat
  ty      : Nat
  tz      : Nat
  arg     : Word
  ins     : List CellRange
  out     : Option CellRange
  fired   : Bool := false       -- a firing is under way
  done    : Bool := false       -- the last firing has completed
  held    : Bool := false
  removed : Bool := false
  fires   : Nat := 0
  hop     : Nat := 0
  pend    : Option Nat := none  -- hop of a pending re-fire
  left    : Nat := 0            -- tiles of the firing not reported
  given   : Bool := false       -- a tile of the current firing has been dispensed
  ever    : Bool := false       -- a tile has been dispensed in some firing (R75)
  dealt   : Nat := 0            -- tiles of the firing dealt so far, in the order of R39
  deriving DecidableEq, Repr

/-- A waiting requester of a front end (R74). -/
structure Request where
  team : Nat
  dreg : Nat
  path : Nat
  deriving DecidableEq, Repr

/-- A dispenser front end of one launch (R73, R74). -/
structure FrontEnd where
  buffer  : List Tile := []
  transit : List Tile := []
  waiters : List Request := []
  deriving DecidableEq, Repr

/-- A page of a KV pool (R380, R381). -/
inductive KvPage where
  | free | spec (seq : Nat) | quarantine (seq : Nat) | committed (seq : Nat)
  deriving DecidableEq, Repr

/-- A KV page pool (R380): pages not listed are free; `order` holds pages in allocation order. -/
structure Pool where
  base   : Nat
  pages  : Nat
  wmark  : Nat
  owned  : List (Nat × KvPage)     -- in allocation order
  deriving DecidableEq, Repr

/-- An entry of an egress stream that has not left (R385). -/
structure EgEntry where
  region  : Nat
  cell    : Nat
  deriving DecidableEq, Repr

/-- An egress stream (R384). -/
structure Egress where
  stream   : Nat
  ring     : Nat
  credit   : Nat
  note     : Nat
  seq      : Nat
  slots    : Nat
  entries  : List EgEntry := []
  released : Nat := 0
  leaves   : Nat := 0        -- entries that have left or been dropped: the number of the first one listed
  slotOut  : List (Nat × Nat) := []       -- ring writes whose NOTE is still to come, oldest first, with that NOTE (R387)
  noteOut  : Option Nat := none           -- the last write of NOTE
  deriving DecidableEq, Repr

/-- A service ring (R405). -/
structure SvcRing where
  ring  : Nat
  base  : Nat
  evt   : Bool
  logn  : Nat
  tail  : Word := 0
  head  : Word := 0
  freed : List Nat := []       -- entries freed ahead of HEAD
  deriving DecidableEq, Repr

/-- The trace ring (R426). -/
structure TraceRing where
  base  : Nat
  per   : Nat
  evt   : Bool
  logn  : Nat
  tail  : Word := 0
  drops : Word := 0
  deriving DecidableEq, Repr

/-- A tile report on its way to the Sequencer (R354). -/
structure Report where
  id    : Nat
  team  : Nat
  tile  : Tile
  hgen  : Nat
  mask  : Word
  after : List Nat          -- operations, copies and graded writes that must complete first
  deriving DecidableEq, Repr

/-- A launch (R28, R31, R33, R36, R38). -/
structure Launch where
  f        : Nat := 0
  q        : Nat := 0
  seq      : Word := 0
  live     : Bool := true
  fpol     : BitVec 4 := 0
  ncore    : Nat := 1
  codebase : Nat := 0
  codesize : Nat := 4
  codeMap  : List (Loc × Nat) := []   -- the places of the code range as translated at acceptance (R26)
  roles    : List Role := []
  slots    : List Slot := []
  regions  : List Region := []
  tasks    : List Task := []
  notices  : List Nat := []        -- held tasks whose notice is not dealt (R351)
  lastDie  : Option Nat := none
  dealFrom : Nat := 0              -- the first cycle in which the next tile may be dealt (R73)
  fronts   : List FrontEnd := List.replicate 4 {}
  reports  : List Report := []
  xdom     : OrdDomain := {}
  pool     : Option Pool := none
  cancelled : List Nat := []       -- sequences whose cancel flag is set
  refused  : List Nat := []        -- sequences whose cancel has taken effect (R383)
  rcl      : List Nat := []
  egress   : List Egress := []
  rings    : List SvcRing := []
  trace    : Option TraceRing := none
  deriving DecidableEq, Repr

/-- A row of a batch (R376, R378). -/
structure BfRow where
  seq     : Nat
  payload : Word
  done    : Nat
  launch  : Nat
  void    : Bool := false
  deriving DecidableEq, Repr

/-- A batch of the BFQ (R377). -/
structure BfBatch where
  group  : Nat             -- a batch group 1 to 15, or 16 plus a launch (R377, R443)
  key    : Word
  no     : Word
  rows   : List BfRow
  opened : Nat             -- time of the opening join and its window
  win    : Nat
  closed : Bool := false
  taker  : Option (Nat × Nat × Nat) := none   -- taking team, its harness and the table's address
  deriving DecidableEq, Repr

/-- A host-served fault record (R419). -/
structure FaultRec where
  fid   : Nat
  f     : Nat
  page  : Nat
  addr  : Nat
  cause : BitVec 8
  write : Bool
  teams : List (Nat × Nat)      -- waiting teams, and the address each has named
  shuttles : List (Nat × Nat)
  deriving DecidableEq, Repr

/-- An answer of the module to a remote access (R43). -/
inductive Answer where
  | ok (f off : Nat) | data (f off : Nat) (bytes : List Byte) | transportError (f off : Nat)
  deriving DecidableEq, Repr

/-- The power states, with bring-up before run (R445, R450). -/
inductive Power where
  | run | idle | off | bringup
  deriving DecidableEq, Repr

/-- Services of the module (R445 to R452). -/
structure Services where
  power     : Power := .run
  throttle  : Bool := false        -- by power (R446)
  hot       : List Nat := []       -- dies above 95 °C (R447)
  idle      : Nat := 0             -- idle cycles (R445)
  reading   : Nat := 0             -- telemetry (R448)
  dieTemps  : List Nat := []
  coolant   : List Nat := []
  stateRead : Power := .run
  digest    : BitVec 256 := 0
  version   : BitVec 64 := 0
  fused     : BitVec 64 := 0
  keyDigest : BitVec 256 := 0    -- fused digest of the signing key (R449)
  qmemLen   : Nat := 2 ^ 26      -- populated bytes of each queue-memory window (R43, log 87)
  cxlCap    : Nat := 0
  peerId    : Nat := 0           -- the module's own identifier (R416)
  deriving DecidableEq, Repr

/-- The module. -/
structure State where
  cur       : Party := .none
  ir        : Word := 0            -- the word being issued, after macro substitution (log 11)
  ev        : EvArgs := {}         -- what the step without a word acts on
  schedule  : List Turn := []      -- the interleaving oracle (log 2)
  agenda    : List (Instr × EvArgs) := []   -- internal events pending, oldest first
  ticks     : Nat := 0             -- steps taken, read by free time (log 6)
  freeIx    : Nat := 0             -- free values taken (log 12)
  time      : Nat := 0             -- module cycles since reset (log 6)
  sweep     : Nat := 0             -- one more than the place of the last issue of this cycle (log 2)
  nextId    : Nat := 0             -- next operation number
  teams     : List Team := []
  harnesses : List Harness := []
  launches  : List Launch := []
  cores     : List Core := List.replicate 256 {}
  dies      : List Die := List.replicate 4 {}
  hbm       : Memory := []
  cxl       : Memory := []
  host      : Memory := []
  peers     : List (Nat × Memory) := []
  peerTags  : List (Nat × Sparse 8) := []   -- tags of the cells a peer keeps, by address div 256 (R358)
  funcs     : List Func := List.replicate 64 {}
  pf        : Func := {}
  lostProcs : List Nat := []       -- queue processors halted (R64)
  turns     : List Nat := List.replicate 16 0   -- of each queue processor: one more than the queue served last; 0: none (R58)
  ioTlb     : List TlbEntry := []
  faults    : List FaultRec := []
  ops       : List PendOp := []
  late      : List Late := []      -- what still has to act, in order (R229, R315, R352, R356, R392)
  transfers : List Transfer := []
  portWrites : List PortWrite := []    -- writes of the IO die held by ports (R365)
  copies    : List Copy := []
  graded    : List GradedFlight := []
  batches   : List BfBatch := []
  batchNos  : List (Nat × Word) := []   -- last batch number of each launch or group
  svc       : Services := {}
  outbox    : List Answer := []
  deriving DecidableEq, Repr

/-- The machine right after bring-up (R450 step 7): the physical function answers, every virtual function is in
STATE 0, die scratch and shared memory are zero, and nothing has been handed over. -/
def State.reset : State := {}

end Sys2Proof.Machine
end

