-- ==== Sys2Proof/Machine/Flags.lean ====
section
/-! DEFINITION. The mode register's fields (R84, R85), element types, narrowing and saturation (R173), carries and
borrows (R178) and the comparisons that write predicates (R184, R50). The machine has no flag register: these are all
its flag computations. -/

namespace Sys2Proof.Machine

/-- MR[7:4] (R85). -/
def mrEtype (mr : BitVec 24) : Nat := (mr.extractLsb' 4 4).toNat
/-- MR[9:8] (R11). -/
def mrRnd (mr : BitVec 24) : Rnd := rndOf (mr.extractLsb' 8 2).toNat
/-- MR[10]. -/
def mrSat (mr : BitVec 24) : Bool := mr.getLsbD 10
/-- MR[13:11]. -/
def mrSelp (mr : BitVec 24) : Nat := (mr.extractLsb' 11 3).toNat
/-- MR[15:14], where 2 and 3 behave as 1. -/
def mrFlush (mr : BitVec 24) : Bool := mr.extractLsb' 14 2 != 0
/-- MR[2:0]. -/
def mrGuard (mr : BitVec 24) : Nat := (mr.extractLsb' 0 3).toNat
/-- MR[3]. -/
def mrInvert (mr : BitVec 24) : Bool := mr.getLsbD 3

/-- The check of R84 on a new mode: no reserved bit, no reserved element type. -/
def mrOk (mr : BitVec 24) : Bool := mr.extractLsb' 16 8 == 0 && mrEtype mr ≤ 9

/-- Element width in bits (R85). -/
def etBits (et : Nat) : Nat :=
  match et with
  | 0 | 1 | 6 => 32
  | 2 | 3 | 7 | 8 => 16
  | 4 | 5 => 8
  | _ => 64

/-- Elements of a lane (R85). -/
def etCount (et : Nat) : Nat := if et = 9 then 1 else 32 / etBits et

/-- The s types (R85). -/
def etSigned (et : Nat) : Bool := et == 0 || et == 2 || et == 4 || et == 9

/-- The floating-point types (R85). -/
def etFloat (et : Nat) : Bool := et == 6 || et == 7 || et == 8

/-- The format of a floating-point element type (R193). -/
def etFmt (et : Nat) : Fmt := if et = 6 then fmt32 else if et = 7 then fmt16 else fmtBf

/-- Sext and Zext of R10 on a natural's low `n` bits. -/
def sext (x n : Nat) : Int := (BitVec.ofNat n x).toInt
def zext (x n : Nat) : Int := ((x % 2 ^ n : Nat) : Int)

/-- Element `j` of a lane's value, `b` bits wide. -/
def elemOf (b : Nat) (x : BitVec 64) (j : Nat) : Nat := (x.toNat >>> (b * j)) % 2 ^ b

/-- Element `j` read as an integer (R173). -/
def elemInt (sgn : Bool) (b : Nat) (x : BitVec 64) (j : Nat) : Int :=
  if sgn then sext (elemOf b x j) b else (elemOf b x j : Int)

/-- The least and greatest value of an integer type. -/
def loOf (sgn : Bool) (b : Nat) : Int := if sgn then -(2 ^ (b - 1) : Int) else 0
def hiOf (sgn : Bool) (b : Nat) : Int := if sgn then 2 ^ (b - 1) - 1 else 2 ^ b - 1

/-- An integer modulo 2^b. -/
def wrap (b : Nat) (r : Int) : Nat := (BitVec.ofInt b r).toNat

/-- A value clamped to the range of a type. -/
def clampTo (sgn : Bool) (b : Nat) (r : Int) : Int := min (max r (loOf sgn b)) (hiOf sgn b)

/-- Narrow (R173). -/
def narrow (sat sgn : Bool) (b : Nat) (r : Int) : Nat := wrap b (if sat then clampTo sgn b r else r)

/-- A lane's value put together from its elements, element 0 lowest. -/
def packElems (b : Nat) : Nat → (Nat → Nat) → Nat
  | 0, _ => 0
  | n + 1, g => packElems b n g + (g n % 2 ^ b) * 2 ^ (b * n)

/-- The value made of `etCount` elements. -/
def mapElems (et : Nat) (g : Nat → Nat) : BitVec 64 := BitVec.ofNat 64 (packElems (etBits et) (etCount et) g)

/-- The sum and carry out of ADDC (R178). -/
def addCarry (a b : Word) (c : Bool) : Word × Bool :=
  let r := a.toNat + b.toNat + c.toNat
  (BitVec.ofNat 32 r, 2 ^ 32 ≤ r)

/-- The difference and borrow out of SUBB (R178). -/
def subBorrow (a b : Word) (c : Bool) : Word × Bool :=
  let r : Int := a.toNat - (b.toNat + c.toNat : Nat)
  (BitVec.ofInt 32 r, r < 0)

/-- The six comparisons of SETP (R184). -/
inductive Cc where
  | eq | ne | lt | le | gt | ge
  deriving DecidableEq, Repr

def ccInt (cc : Cc) (a b : Int) : Bool :=
  match cc with
  | .eq => a == b
  | .ne => a != b
  | .lt => a < b
  | .le => a ≤ b
  | .gt => b < a
  | .ge => b ≤ a

/-- IEEE comparison: with a NaN only NE holds (R184). -/
def ccFloat (cc : Cc) (a b : FVal) : Bool :=
  if Num.isNan a || Num.isNan b then cc == .ne
  else
    match cc with
    | .eq => Num.feq a b
    | .ne => !Num.feq a b
    | .lt => Num.fless false a b
    | .le => Num.fless false a b || Num.feq a b
    | .gt => Num.fless false b a
    | .ge => Num.fless false b a || Num.feq a b

/-- The condition codes of R50 on `n`-bit words; codes 4 and 5 are refused before they are used. -/
def cond50 {n : Nat} (c : Nat) (x y : BitVec n) : Bool :=
  match c with
  | 0 => x == y
  | 1 => x != y
  | 2 => x.ult y
  | 3 => !x.ult y
  | 6 => x.slt y
  | 7 => !x.slt y
  | _ => false

end Sys2Proof.Machine
end

