-- ==== Sys2Proof/Machine/Operands.lean ====
section
/-! DEFINITION. Operand bytes (R79, R80), which of them an instruction may name (R170, R103), the view an instruction
has of the party that issues it, and the reads and writes of operands (R171, R173, R82). -/

namespace Sys2Proof.Machine

/-- What an operand byte names (R79). -/
inductive Opd where
  | v (n : Nat) | s (n : Nat) | p (n : Nat)
  | lid | gid | tid | cid | role | strm | tmr | zero
  | acc (n : Nat)
  deriving DecidableEq, Repr

/-- The table of R79. -/
def opd (x : Byte) : Opd :=
  let n := x.toNat
  if n < 0xC0 then .v n
  else if n < 0xE0 then .s (n - 0xC0)
  else if n < 0xE8 then .p (n - 0xE0)
  else if n = 0xE8 then .lid
  else if n = 0xE9 then .gid
  else if n = 0xEA then .tid
  else if n = 0xEB then .cid
  else if n = 0xEC then .role
  else if n = 0xED then .strm
  else if n = 0xEE then .tmr
  else if n = 0xEF then .zero
  else .acc (n - 0xF0)

/-- What an instruction sees of its party. A Shuttle is a team of one lane (R104). -/
structure View where
  regs    : RegFile
  mr      : BitVec 24
  nl      : Nat            -- lanes of the team, 32·G
  mask    : BitVec 1024    -- PathMask
  run     : BitVec 1024    -- running lanes (R12)
  tid     : Word
  cid     : Word
  role    : Word
  tmr     : Word
  budget  : Nat
  shuttle : Bool
  deriving DecidableEq, Repr

def isV (x : Byte) : Bool := x.toNat < 0xC0
def isS (x : Byte) : Bool := 0xC0 ≤ x.toNat && x.toNat < 0xE0
def isZero (x : Byte) : Bool := x.toNat == 0xEF
def isAcc (x : Byte) : Bool := 0xF0 ≤ x.toNat
def isStrm (x : Byte) : Bool := x.toNat == 0xED

/-- p0 to p7, for a Shuttle p0 to p3 (R103). -/
def isQ (sh : Bool) (x : Byte) : Bool := 0xE0 ≤ x.toNat && x.toNat < (if sh then 0xE4 else 0xE8)

/-- s0 to s31, or zero. -/
def isSZ (x : Byte) : Bool := isS x || isZero x

/-- The kinds d of R170: a Shuttle names no vector register. -/
def isD (sh : Bool) (x : Byte) : Bool := isSZ x || (!sh && isV x)

/-- The kinds x of R170; for a Shuttle s0 to s31 and zero (R103). -/
def isX (sh : Bool) (x : Byte) : Bool := isSZ x || (!sh && (isV x || (0xE8 ≤ x.toNat && x.toNat < 0xED) || x.toNat == 0xEE))

/-- A source that has the same value in every lane: not a vector register, predicate, lid or gid (R82). -/
def isUniform (x : Byte) : Bool := 0xC0 ≤ x.toNat && !(0xE0 ≤ x.toNat && x.toNat < 0xEA)

/-- R82: a scalar destination takes uniform sources only. -/
def scalarOk (d : Byte) (xs : List Byte) : Bool := !isS d || xs.all isUniform

/-- The shape OP d, x, y (R175). -/
def legalDXY (w : View) (d x y : Byte) : Bool :=
  isD w.shuttle d && isX w.shuttle x && isX w.shuttle y && scalarOk d [x, y]

/-- The shape OP d, x (R175). -/
def legalDX (w : View) (d x : Byte) : Bool := isD w.shuttle d && isX w.shuttle x && scalarOk d [x]

/-- R4: a register that heads a pair is even; other operands are free. -/
def evenReg (x : Byte) : Bool := !(isV x || isS x) || x.toNat % 2 == 0

/-- R4, R173: under ETYPE 9 every register operand is a pair. -/
def pairsOk (mr : BitVec 24) (xs : List Byte) : Bool := mrEtype mr != 9 || xs.all evenReg

/-- Lanes of the team, in ascending order (R8). -/
def lanesOf (w : View) : List Nat := List.range w.nl

/-- The running lanes in ascending order. -/
def runLanes (w : View) : List Nat := (List.range w.nl).filter w.run.getLsbD

/-- A register's key in the vector file. -/
def vkey (n k : Nat) : Nat := 1024 * n + k

def getV (r : RegFile) (n k : Nat) : Word := sget 0 r.v (vkey n k)
def getS (r : RegFile) (n : Nat) : Word := sget 0 r.s n

/-- A predicate's lane mask; p0 reads true (R79). -/
def getP (r : RegFile) (n : Nat) : BitVec 1024 := if n = 0 then BitVec.allOnes 1024 else sget 0 r.p n

/-- A write of a vector register in the lanes `ks`; it clears the register's skip mark (R298). -/
def putV (r : RegFile) (n : Nat) (ks : List Nat) (g : Nat → Word) : RegFile :=
  if ks = [] then r
  else { r with v := ks.foldl (fun v k => sset 0 v (vkey n k) (g k)) r.v, skip := r.skip &&& ~~~(BitVec.twoPow 192 n) }

def putS (r : RegFile) (n : Nat) (x : Word) : RegFile := { r with s := sset 0 r.s n x }

/-- A write of predicate bits in the lanes `ks`; p0 discards it (R79). -/
def putP (r : RegFile) (n : Nat) (ks : List Nat) (g : Nat → Bool) : RegFile :=
  if n = 0 then r
  else
    { r with
      p := sset 0 r.p n (ks.foldl (fun m k => (m &&& ~~~(BitVec.twoPow 1024 k)) ||| (if g k then BitVec.twoPow 1024 k else 0))
        (sget 0 r.p n)) }

/-- An operand as a 32-bit source in lane `k` (R79). -/
def rd (w : View) (x : Byte) (k : Nat) : Word :=
  match opd x with
  | .v n => getV w.regs n k
  | .s n => getS w.regs n
  | .lid => BitVec.ofNat 32 k
  | .gid => BitVec.ofNat 32 (k / 32)
  | .tid => w.tid
  | .cid => w.cid
  | .role => w.role
  | .tmr => w.tmr
  | _ => 0

/-- An operand as a pair, even register low; a special source is zero-extended (R4, R173). -/
def rd64 (w : View) (x : Byte) (k : Nat) : BitVec 64 :=
  if isV x || isS x then (rd w (x + 1) k) ++ (rd w x k) else (rd w x k).setWidth 64

/-- A typed source: a pair under ETYPE 9. -/
def rdT (w : View) (x : Byte) (k : Nat) : BitVec 64 :=
  if mrEtype w.mr = 9 then rd64 w x k else (rd w x k).setWidth 64

/-- A predicate operand in lane `k`. -/
def rdQ (w : View) (x : Byte) (k : Nat) : Bool :=
  match opd x with
  | .p n => (getP w.regs n).getLsbD k
  | _ => false

/-- A 32-bit result written to `d`: running lanes of a vector register, once to a scalar (R171, R82). -/
def wr (w : View) (d : Byte) (g : Nat → Word) : RegFile :=
  match opd d with
  | .v n => putV w.regs n (runLanes w) g
  | .s n => putS w.regs n (g 0)
  | _ => w.regs

/-- A 64-bit result written to the pair at `d`. -/
def wr64 (w : View) (d : Byte) (g : Nat → BitVec 64) : RegFile :=
  match opd d with
  | .v n => putV (putV w.regs n (runLanes w) fun k => (g k).setWidth 32) (n + 1) (runLanes w) fun k => (g k).extractLsb' 32 32
  | .s n => putS (putS w.regs n ((g 0).setWidth 32)) (n + 1) ((g 0).extractLsb' 32 32)
  | _ => w.regs

/-- A typed result. -/
def wrT (w : View) (d : Byte) (g : Nat → BitVec 64) : RegFile :=
  if mrEtype w.mr = 9 then wr64 w d g else wr w d fun k => (g k).setWidth 32

/-- A predicate result in the running lanes (R171). -/
def wrQ (w : View) (d : Byte) (g : Nat → Bool) : RegFile :=
  match opd d with
  | .p n => putP w.regs n (runLanes w) g
  | _ => w.regs

/-- A scalar result; zero discards it. -/
def wrS (r : RegFile) (d : Byte) (x : Word) : RegFile :=
  match opd d with
  | .s n => putS r n x
  | _ => r

/-- Consecutive scalar results from `d` upward. -/
def wrSs (r : RegFile) (d : Byte) : List Word → RegFile
  | [] => r
  | x :: xs => wrSs (wrS r d x) (d + 1) xs

/-- The scalar register that byte `x` names, `i` registers further on. -/
def rdS (w : View) (x : Byte) (i : Nat) : Word :=
  match opd x with
  | .s n => getS w.regs (n + i)
  | _ => 0

/-- A base of a group of `step` scalar registers (R260, R339, R374). -/
def isBase (step : Nat) (x : Byte) : Bool := isS x && (x.toNat - 0xC0) % step == 0

/-- An instruction is scalar when none of its operands is a vector register, a predicate, lid or gid (R82). -/
def allUniform (xs : List Byte) : Bool := xs.all isUniform

end Sys2Proof.Machine
end

