-- ==== Sys2Proof/Machine/Tables.lean ====
section
/-! DEFINITION. The tables of the state by number, and its memories by place. A table index with no entry reads as the default
entry, and a write to it changes nothing. -/

namespace Sys2Proof.Machine

/-! ## Table entries -/

def State.team (s : State) (t : Nat) : Team := s.teams.getD t {}
def State.harness (s : State) (h : Nat) : Harness := s.harnesses.getD h {}
def State.launch (s : State) (l : Nat) : Launch := s.launches.getD l {}
def State.core (s : State) (c : Nat) : Core := s.cores.getD c {}
def State.die (s : State) (d : Nat) : Die := s.dies.getD d {}

/-- The functions 0 to 63; every other number is the physical function. -/
def State.func (s : State) (f : Nat) : Func := if f < 64 then s.funcs.getD f {} else s.pf

def State.putTeam (s : State) (t : Nat) (x : Team) : State := { s with teams := s.teams.set t x }
def State.putHarness (s : State) (h : Nat) (x : Harness) : State := { s with harnesses := s.harnesses.set h x }
def State.putLaunch (s : State) (l : Nat) (x : Launch) : State := { s with launches := s.launches.set l x }
def State.putCore (s : State) (c : Nat) (x : Core) : State := { s with cores := s.cores.set c x }
def State.putDie (s : State) (d : Nat) (x : Die) : State := { s with dies := s.dies.set d x }
def State.putFunc (s : State) (f : Nat) (x : Func) : State :=
  if f < 64 then { s with funcs := s.funcs.set f x } else { s with pf := x }

/-- The launch of a team, and its function. -/
def State.launchOf (s : State) (t : Nat) : Launch := s.launch (s.team t).info.launch
def State.fnOf (s : State) (t : Nat) : Nat := (s.launchOf t).f
def State.harnessOf (s : State) (t : Nat) : Harness := s.harness (s.team t).info.harness

/-- The die of a core (R14). -/
def dieOf (core : Nat) : Nat := core / 64

/-- An internal event put at the end of the agenda (log 2). -/
def State.post (s : State) (i : Instr) (ev : EvArgs) : State := { s with agenda := s.agenda ++ [(i, ev)] }

/-- A notify or a remote access brings an idle module back to run (R445). -/
def wakeModule (s : State) : State :=
  if s.svc.power = .idle ∧ s.agenda.all (·.1 != .idleExit) then s.post .idleExit {} else s

/-- A new operation number. -/
def State.fresh (s : State) : State := { s with nextId := s.nextId + 1 }

/-! ## Bytes and memories -/

/-- The natural number of little-endian bytes (R3). -/
def leNat : List Byte → Nat
  | [] => 0
  | b :: r => b.toNat + 256 * leNat r

/-- The `n` little-endian bytes of a number. -/
def leBytes : Nat → Nat → List Byte
  | 0, _ => []
  | n + 1, x => BitVec.ofNat 8 x :: leBytes n (x / 256)

def memByte (m : Memory) (a : Nat) : Byte := sget 0 m a

/-- `n` bytes from address `a`. -/
def memBytes (m : Memory) : Nat → Nat → List Byte
  | _, 0 => []
  | a, n + 1 => memByte m a :: memBytes m (a + 1) n

def memWord (m : Memory) (a : Nat) : Word := BitVec.ofNat 32 (leNat (memBytes m a 4))

/-- Bytes stored from address `a` upward. -/
def memStore (m : Memory) : Nat → List Byte → Memory
  | _, [] => m
  | a, b :: r => memStore (sset 0 m a b) (a + 1) r

def memStoreWord (m : Memory) (a : Nat) (w : Word) : Memory := memStore m a (leBytes 4 w.toNat)

/-- The memory a place lies in, and its address there. -/
def State.memAt (s : State) : Loc → Memory × Nat
  | .shared h a => ((s.harness h).shared, a)
  | .scratch d a => ((s.die d).scratch, a)
  | .hbm a => (s.hbm, a)
  | .cxl a => (s.cxl, a)
  | .host a => (s.host, a)
  | .peer p a => ((s.peers.lookup p).getD [], a)
  | .zero => ([], 0)

/-- An entry of an association list replaced, or added. -/
def putAssoc {α : Type} (l : List (Nat × α)) (k : Nat) (x : α) : List (Nat × α) :=
  if (l.lookup k).isSome then l.map fun e => if e.1 = k then (k, x) else e else l ++ [(k, x)]

/-- The memory of a place replaced; a peer's memory is listed once something is written there. -/
def State.putMem (s : State) (l : Loc) (m : Memory) : State :=
  match l with
  | .shared h _ => s.putHarness h { s.harness h with shared := m }
  | .scratch d _ => s.putDie d { s.die d with scratch := m }
  | .hbm _ => { s with hbm := m }
  | .cxl _ => { s with cxl := m }
  | .host _ => { s with host := m }
  | .peer p _ => { s with peers := putAssoc s.peers p m }
  | .zero => s

/-- A place `k` bytes further on. -/
def Loc.add (l : Loc) (k : Nat) : Loc :=
  match l with
  | .shared h a => .shared h (a + k)
  | .scratch d a => .scratch d (a + k)
  | .hbm a => .hbm (a + k)
  | .cxl a => .cxl (a + k)
  | .host a => .host (a + k)
  | .peer p a => .peer p (a + k)
  | .zero => .zero

def State.locBytes (s : State) (l : Loc) (n : Nat) : List Byte :=
  match l with
  | .zero => List.replicate n 0
  | _ => memBytes (s.memAt l).1 (s.memAt l).2 n

def State.locStore (s : State) (l : Loc) (bs : List Byte) : State :=
  s.putMem l (memStore (s.memAt l).1 (s.memAt l).2 bs)

def w32 (n : Nat) : Word := BitVec.ofNat 32 n

end Sys2Proof.Machine
end

