-- ==== Sys2Proof/Machine/Ports.lean ====
section
/-! DEFINITION. The Ultra Ethernet ports (R365): which port an access takes, the writes that ports hold until their homes
acknowledge them, what a read through a port finds, and the reads and writes of the IO die. -/

namespace Sys2Proof.Machine

/-- Two places that lie in one memory, as a pair of addresses. -/
def Loc.same : Loc → Loc → Option (Nat × Nat)
  | .shared h a, .shared k b => if h = k then some (a, b) else none
  | .scratch d a, .scratch e b => if d = e then some (a, b) else none
  | .hbm a, .hbm b => some (a, b)
  | .cxl a, .cxl b => some (a, b)
  | .host a, .host b => some (a, b)
  | .peer p a, .peer q b => if p = q then some (a, b) else none
  | _, _ => none

def meets (x : Loc) (n : Nat) (y : Loc) (m : Nat) : Bool :=
  match x.same y with
  | some (a, b) => a < b + m && b < a + n
  | none => false

/-- The die of the party of a transfer: a copy's piece counts the die of its Shuttle (R365). -/
def Transfer.die (s : State) (x : Transfer) : Nat := dieOf (s.harness x.h).core

/-- The die that a party of the IO die counts as (R365; log 103). -/
def ioDie : Nat := 0

/-- The die of the party of a graded write: the IO die for a host's packet. -/
def GradedFlight.die (s : State) (x : GradedFlight) : Nat :=
  match x.party with
  | .none => ioDie
  | _ => dieOf (s.harness x.h).core

/-- The port of an access to a place, for a party of a die and the port chosen for its host words; none on the module (R365). -/
def portAt (die port : Nat) (l : Loc) : Option Nat :=
  match l with
  | .peer p a => some ((p % 8 + a / 4096 % 8 + die) % 8)
  | .host _ => some port
  | _ => none

/-- The port through which a transfer reaches a place (R365). -/
def Transfer.portOf (s : State) (x : Transfer) (l : Loc) : Option Nat := portAt (x.die s) x.port l

/-- A write that ports hold: when it was sent, its party's die, its port for host words, its places and bytes (R365). -/
structure HeldWrite where
  order : Nat
  die   : Nat
  port  : Nat
  segs  : List Seg
  data  : List Byte
  applied : Bool
  deriving DecidableEq, Repr

def Transfer.held (s : State) (x : Transfer) : Option HeldWrite :=
  x.sent.map fun k => { order := k, die := x.die s, port := x.port, segs := x.segs, data := x.data.getD [], applied := x.applied }
def GradedFlight.held (s : State) (x : GradedFlight) : Option HeldWrite :=
  x.sent.map fun k => { order := k, die := x.die s, port := 0, segs := x.locs.map fun l => ⟨.zero, l, 256⟩, data := x.data, applied := x.applied }
def PortWrite.held (x : PortWrite) : HeldWrite :=
  { order := x.id, die := ioDie, port := x.port, segs := [⟨.zero, x.loc, if x.add.isSome then 8 else x.bytes.length⟩]
    data := x.bytes, applied := x.applied }

/-- Every write that ports hold: of transfers, of graded writes, of the IO die (R365). -/
def heldWrites (s : State) : List HeldWrite :=
  s.transfers.filterMap (·.held s) ++ s.graded.filterMap (·.held s) ++ s.portWrites.map (·.held)

/-- Whether a place lies off the module, where a port reaches it (R365). -/
def Loc.isAway (l : Loc) : Bool := (portAt ioDie 0 l).isSome

/-- Bytes of a move that go through port `k`, to the one place or the other; the port of a byte of a peer is that of its own
4-KiB block (R365). -/
def Seg.through (g : Seg) (die port k : Nat) : Nat :=
  if g.src.isAway || g.dst.isAway then
    (List.range g.len).countP fun i => portAt die port (g.src.add i) == some k || portAt die port (g.dst.add i) == some k
  else 0

/-- Bytes of these moves in flight through port `k`. -/
def bytesThrough (die port k : Nat) (segs : List Seg) : Nat := segs.foldl (fun n g => n + g.through die port k) 0

/-- Bytes in flight through port `k` (R365). -/
def portBytes (s : State) (k : Nat) : Nat :=
  s.transfers.foldl (fun n x => n + bytesThrough (x.die s) x.port k x.segs) 0 +
    (s.graded.filterMap (·.held s) ++ s.portWrites.map (·.held)).foldl (fun n x => n + bytesThrough x.die x.port k x.segs) 0

/-- The port with the fewest bytes in flight, the lowest on a tie (R365). -/
def freestPort (s : State) : Nat := (List.range 8).foldl (fun b k => if portBytes s k < portBytes s b then k else b) 0

/-- The byte that moves with these data put at a place: the last of them that does. -/
def byteAt (l : Loc) : List Seg → List Byte → Option Byte
  | [], _ => none
  | g :: r, bs =>
    match byteAt l r (bs.drop g.len), l.same g.dst with
    | some b, _ => some b
    | none, some (a, b) => if b ≤ a ∧ a < b + g.len then bs[a - b]? else none
    | none, none => none

def HeldWrite.byteAt (x : HeldWrite) (l : Loc) : Option Byte := Sys2Proof.Machine.byteAt l x.segs x.data

/-- The write to a byte that port `k` holds, the latest one sent (R365). -/
def portByte (s : State) (k : Nat) (l : Loc) : Option Byte :=
  let held := (heldWrites s).filter fun y => portAt y.die y.port l == some k && (y.byteAt l).isSome
  let last := held.foldl (fun (b : Option HeldWrite) y => match b with
    | none => some y
    | some z => if z.order < y.order then some y else b) none
  last.bind (·.byteAt l)

/-- The byte of a peer or host as a party reads it: from the port of its read where that holds it (R365). -/
def farByte (s : State) (die port : Nat) (l : Loc) : Byte :=
  ((portAt die port l).bind fun k => portByte s k l).getD ((s.locBytes l 1).getD 0 0)

/-- Bytes as a party reads them: on a peer or host each one through its own port, as a read that crosses into another 4-KiB block
of a peer goes on through another port (R365). -/
def portRead (s : State) (die port : Nat) (l : Loc) (n : Nat) : List Byte :=
  if l.isAway then (List.range n).map fun i => farByte s die port (l.add i) else s.locBytes l n

/-- Whether a port holds a write to some of these bytes. -/
def portHolds (s : State) (l : Loc) (n : Nat) : Bool := (heldWrites s).any fun y => y.segs.any fun g => meets l n g.dst g.len

/-- Whether `y` was sent before `x` through the port of a byte that both write: at any one place the ports of the two are the same
or not. -/
def HeldWrite.precedes (y x : HeldWrite) : Bool :=
  y.order < x.order && y.segs.any fun g => x.segs.any fun k =>
    meets g.dst g.len k.dst k.len && portAt y.die y.port k.dst == portAt x.die x.port k.dst

/-- Whether a port still holds a write sent before `x` to a byte that `x` writes too: acknowledgements come back in the order of
sending (R365). -/
def sentBefore (s : State) (x : HeldWrite) : Bool := (heldWrites s).any (·.precedes x)

/-- Whether such a write has not been applied: homes apply what one port sends to a byte in the order of sending (R364). -/
def sentUnapplied (s : State) (x : HeldWrite) : Bool := (heldWrites s).any fun y => !y.applied && y.precedes x

/-- Bytes as a party of the IO die reads them (R365). -/
def State.ioBytes (s : State) (l : Loc) (n : Nat) : List Byte := portRead s ioDie (freestPort s) l n

/-- A write of the IO die that its port sends, and holds from now on (R365). -/
def sendWrite (s : State) (w : PortWrite) : State :=
  ({ s.fresh with portWrites := s.portWrites ++ [{ w with id := s.nextId }] }).post .transferComplete { id := s.nextId }

/-- A write of the IO die, for a packet or not, its port for host words being `k`: on the module it is done, else the port sends and
holds it (R365). -/
def State.ioStoreAt (s : State) (k : Nat) (packet : Option (Nat × Nat × Nat)) (l : Loc) (bs : List Byte) : State :=
  match portAt ioDie k l with
  | none => s.locStore l bs
  | some _ => sendWrite s { id := s.nextId, port := k, loc := l, bytes := bs, packet := packet }

/-- The same through the port that is chosen now. -/
def State.ioStore (s : State) (packet : Option (Nat × Nat × Nat)) (l : Loc) (bs : List Byte) : State :=
  s.ioStoreAt (freestPort s) packet l bs

/-- Writes of the IO die over a list of places, through one port for host words. -/
def ioPlacesAt (k : Nat) (packet : Option (Nat × Nat × Nat)) : State → List (Loc × Nat) → List Byte → State
  | s, [], _ => s
  | s, (l, n) :: r, bs => ioPlacesAt k packet (s.ioStoreAt k packet l (bs.take n)) r (bs.drop n)

/-- Writes of one transfer of the IO die: its port for host words is chosen once (R365). -/
def ioPlaces (packet : Option (Nat × Nat × Nat)) (s : State) (ls : List (Loc × Nat)) (bs : List Byte) : State :=
  ioPlacesAt (freestPort s) packet s ls bs

/-- An event message of function `f` sent to a host address (R442). -/
def sendMessage (s : State) (f a : Nat) (bs : List Byte) : State :=
  sendWrite s { id := s.nextId, port := freestPort s, loc := .host a, bytes := bs, event := some f }

/-- Whether an event message of a function is with a port, or waits for one that is. -/
def eventOut (s : State) (f : Nat) : Bool := s.portWrites.any (·.event == some f) || (s.func f).evwait != []

/-- An event message of function `f` for a host address: message n + 1 is sent once message n is visible at system scope, so that the
host sees them in number order (R442, R453). -/
def postMessage (s : State) (f a : Nat) (bs : List Byte) : State :=
  if eventOut s f then s.putFunc f { s.func f with evwait := (s.func f).evwait ++ [(a, bs)] } else sendMessage s f a bs

/-- The next event message of a function is sent. -/
def nextMessage (s : State) (f : Nat) : State :=
  match (s.func f).evwait with
  | (a, bs) :: r => sendMessage (s.putFunc f { s.func f with evwait := r }) f a bs
  | [] => s

/-- The 64-bit word at a place. -/
def State.word64 (s : State) (l : Loc) : BitVec 64 := BitVec.ofNat 64 (leNat (s.locBytes l 8))

/-- A number added to the 64-bit word at a place. -/
def State.addWord (s : State) (l : Loc) (v : BitVec 64) : State := s.locStore l (leBytes 8 (s.word64 l + v).toNat)

/-- An addition of the IO die: on the module it is done, else a port sends and holds it, and the word's home adds (R50, R57, R365;
log 103). -/
def State.ioAdd (s : State) (packet : Option (Nat × Nat × Nat)) (l : Loc) (v : BitVec 64) : State :=
  match portAt ioDie (freestPort s) l with
  | none => s.addWord l v
  | some _ => sendWrite s { id := s.nextId, port := freestPort s, loc := l, bytes := [], add := some v, packet := packet }

/-- What the home of a write of the IO die makes of it. -/
def PortWrite.apply (s : State) (w : PortWrite) : State :=
  match w.add with
  | some v => s.addWord w.loc v
  | none => s.locStore w.loc w.bytes

end Sys2Proof.Machine
end

