-- ==== Sys2Proof/Machine/Ops.lean ====
section
/-! DEFINITION. The named operations over registers, teams and Shuttles; event messages (R442); taking an exception (R394 to
R397, R254) and the return from one (R401). -/

namespace Sys2Proof.Machine

/-! ## Event messages -/

/-- Appends one 32-byte event message to the function's event log and sends it to EVTADDR, through a port, after the messages before it
(R59, R365, R442); none while the function is in reset (R444). -/
def sendEvent (s : State) (f ty : Nat) (pay : List Word) : State :=
  let fn := s.func f
  if fn.state = 2 then s
  else
    let words := [BitVec.ofNat 32 ty, fn.evtNum] ++ pay ++ List.replicate (6 - pay.length) 0
    let bytes := words.flatMap fun w => leBytes 4 w.toNat
    let s := s.putFunc f
      { fn with
        evtNum := fn.evtNum + 1
        evlog := sset 0 fn.evlog (fn.evtNum.toNat % 2048) (BitVec.ofNat 256 (leNat bytes)) }
    if fn.evtaddr = 0 then s else postMessage s f fn.evtaddr.toNat bytes

/-- The TYPE 0x07 message of a team (R442). -/
def teamEvent (s : State) (t : Nat) (pc : Nat) (cause : Byte) : State :=
  let i := (s.team t).info
  sendEvent s (s.fnOf t) 7 [w32 i.cid, w32 i.role, w32 i.tid, w32 pc, w32 cause.toNat]

/-! ## Teams, paths and views -/

/-- The current path (R158). -/
def Team.path (t : Team) : Path := (t.flow.paths.getD t.flow.path none).getD {}

def Team.putPathAt (t : Team) (i : Nat) (p : Option Path) : Team :=
  { t with flow := { t.flow with paths := t.flow.paths.set i p } }

def Team.putPath (t : Team) (p : Path) : Team := t.putPathAt t.flow.path (some p)

/-- Lanes(), as a mask (R10). -/
def lanesMask (grp : Nat) : BitVec 1024 := BitVec.ofNat 1024 (2 ^ (32 * grp) - 1)

/-- The lanes whose nesting counter is not 0. -/
def nestMask : Sparse 8 → BitVec 1024
  | [] => 0
  | (k, n) :: r => (if n = 0 then 0 else BitVec.twoPow 1024 k) ||| nestMask r

/-- The lanes of PathMask() whose counter is 0. -/
def Team.zeroMask (t : Team) : BitVec 1024 := t.path.mask &&& ~~~(nestMask t.flow.nest)

/-- A path with no lane at counter 0 (R156). -/
def Team.dormant (t : Team) : Bool := t.zeroMask == 0

/-- The guard (R12). -/
def guardMask (r : RegFile) (mr : BitVec 24) : BitVec 1024 :=
  if mrGuard mr = 0 then BitVec.allOnes 1024
  else if mrInvert mr then ~~~(getP r (mrGuard mr)) else getP r (mrGuard mr)

/-- The view of a team's current path. -/
def Team.view (t : Team) : View where
  regs := t.regs
  mr := t.ctl.mr
  nl := 32 * t.info.grp
  mask := t.path.mask
  run := lanesMask t.info.grp &&& t.zeroMask &&& guardMask t.regs t.ctl.mr
  tid := w32 t.info.tid
  cid := w32 t.info.cid
  role := w32 t.info.role
  tmr := t.ctl.tmr.setWidth 32
  budget := t.info.budget
  shuttle := false

/-- The view of a Shuttle: one lane, mode 0x00_0800 (R104). -/
def Shuttle.view (x : Shuttle) : View where
  regs := x.regs
  mr := 0x800
  nl := 1
  mask := 1
  run := 1
  tid := 0
  cid := 0
  role := 0
  tmr := 0
  budget := 0
  shuttle := true

def Harness.shuttle (h : Harness) (n : Nat) : Shuttle := h.shuttles.getD n {}
def Harness.putShuttle (h : Harness) (n : Nat) (x : Shuttle) : Harness := { h with shuttles := h.shuttles.set n x }
def State.shuttle (s : State) (h n : Nat) : Shuttle := (s.harness h).shuttle n
def State.putShuttle (s : State) (h n : Nat) (x : Shuttle) : State := s.putHarness h ((s.harness h).putShuttle n x)

/-- The team of the issuing party; a Shuttle stands for the team that started it (R349). -/
def State.curTeam (s : State) : Nat :=
  match s.cur with
  | .team t => t
  | .shuttle h n => (s.shuttle h n).starter.getD s.teams.length
  | .none => s.teams.length

/-- The harness of the issuing party. -/
def State.curHarness (s : State) : Nat :=
  match s.cur with
  | .team t => (s.team t).info.harness
  | .shuttle h _ => h
  | .none => s.harnesses.length

/-- The launch of the issuing party. -/
def State.curLaunch (s : State) : Nat := (s.harness s.curHarness).launch

/-- The function of the issuing party. -/
def State.curFn (s : State) : Nat := (s.launch s.curLaunch).f

/-- The register file of the issuing party replaced. -/
def State.putRegs (s : State) (r : RegFile) : State :=
  match s.cur with
  | .team t => s.putTeam t { s.team t with regs := r }
  | .shuttle h n => s.putShuttle h n { s.shuttle h n with regs := r }
  | .none => s

/-! ## Taking an exception -/

/-- The word offset and macro word at which the current path of a team stands (R115, R395). -/
def Team.at (t : Team) : Nat × Nat :=
  (t.path.pc, match t.path.mac with | some (_, j) => j | none => t.path.resume)

/-- The copy of the nesting counters of the lanes in `mask` from `a` over `b` (R394, R401). -/
def copyNest (mask : BitVec 1024) (a b : Sparse 8) (nl : Nat) : Sparse 8 :=
  (List.range nl).foldl (fun m k => if mask.getLsbD k then sset 0 m k (sget 0 a k) else m) b

/-- The nesting counters of the lanes in `mask` set to 0. -/
def clearNest (mask : BitVec 1024) (a : Sparse 8) (nl : Nat) : Sparse 8 :=
  (List.range nl).foldl (fun m k => if mask.getLsbD k then sset 0 m k 0 else m) a

/-- What is saved of a trap: TPC, TCAUSE and TADDR (R394, R395). -/
def Team.saveTrap (t : Team) (cause : Byte) (pc mwi : Nat) (lo hi : Word) : Team :=
  { t with
    ctl := { t.ctl with tpcPc := BitVec.ofNat 22 pc, tpcMwi := BitVec.ofNat 5 mwi, tcause := cause, taddrLo := lo, taddrHi := hi } }

/-- TrapEntry of R394, outside a handler. -/
def Team.enter (t : Team) (cause : Byte) (pc mwi : Nat) (lo hi : Word) : Team :=
  let t := t.saveTrap cause pc mwi lo hi
  let p := t.path
  let t := { t with
    ctl := { t.ctl with tmode := t.ctl.mr, mr := 0, inh := true }
    flow := { t.flow with
      shadow := copyNest p.mask t.flow.nest t.flow.shadow (32 * t.info.grp)
      nest := clearNest p.mask t.flow.nest (32 * t.info.grp) } }
  t.putPath { p with pc := t.ctl.tvec.toNat, mac := none, resume := 0, dep := none, join := none }

/-- A waiting put of a path leaves its mailbox's order: its MBXPUT issues afresh. -/
def dropPut (s : State) (t path : Nat) : State :=
  let fn := s.func (s.fnOf t)
  if fn.puts.all (·.who != .team t path) then s
  else s.putFunc (s.fnOf t) { fn with puts := fn.puts.filter (·.who != .team t path) }

/-- The waiting requests of a path leave the dispenser's queue, and its waiting put its mailbox: its FETCHW or MBXPUT issues
afresh after the trap (R402). -/
def dropRequest (s : State) (t path : Nat) : State :=
  let s := dropPut s t path
  let l := s.launchOf t
  if l.fronts.all fun f => f.waiters.all fun r => r.team != t then s
  else
    s.putLaunch (s.team t).info.launch
      { l with fronts := l.fronts.map fun f => { f with waiters := f.waiters.filter fun r => !(r.team == t && r.path == path) } }

/-- The entry of a team into its handler (R394). -/
def enterTrap (s : State) (t : Nat) (cause : Byte) (pc mwi : Nat) (lo hi : Word) : State :=
  let s := dropRequest s t (s.team t).flow.path
  s.putTeam t ((s.team t).enter cause pc mwi lo hi)

/-- A team counts as halted when every live path is held, too (R433), but for a debugger's step of one (R432). -/
def Team.isHalted (t : Team) : Bool :=
  t.ctl.halted || (t.due.one.isNone && t.flow.paths.any (·.isSome) && t.flow.paths.all fun p => match p with
    | some q => q.held
    | none => true)

/-- A team halted; a single step that was under way ends with it (R431, R432). -/
def Team.halt (t : Team) : Team := { t with ctl := { t.ctl with halted := true }, due := { t.due with halt := false, one := none } }

/-- The double fault of R396: the team halts and keeps the first trap. -/
def doubleFault (s : State) (t : Nat) (cause : Byte) : State :=
  let x := s.team t
  teamEvent (s.putTeam t x.halt) t x.path.pc cause

/-- The halt of R397. -/
def haltFault (s : State) (t : Nat) (cause : Byte) (lo hi : Word) : State :=
  let x := s.team t
  let y := x.saveTrap cause x.at.1 x.at.2 lo hi
  teamEvent (s.putTeam t y.halt) t x.path.pc cause

/-- A device-handled trap with the resume point given (R394, R396). A halt that waits takes effect before the entry,
which follows at the resume (R412); a single step ends with the entry (R432). -/
def takeTrap (s : State) (t : Nat) (cause : Byte) (pc mwi : Nat) (lo hi : Word) : State :=
  let x := s.team t
  if x.ctl.inh then doubleFault s t cause
  else if x.due.halt then
    let y := (x.saveTrap cause pc mwi lo hi).halt
    s.putTeam t { y with due := { y.due with entry := true, haltAt := s.time } }
  else
    let s := enterTrap s t cause pc mwi lo hi
    if x.due.one.isSome then s.putTeam t (s.team t).halt else s

/-- The fault policy bit that governs a cause, from bit 16 of the launch record (R30). -/
def fpolBit (cause : Byte) : Option Nat :=
  let c := cause.toNat
  if c = 0x18 || c = 0x19 || c = 0x1A || c = 0x1B then some 0
  else if c = 0x05 || c = 0x06 then some 1
  else if c = 0x20 || c = 0x21 || c = 0x22 then some 2
  else if c = 0x01 || c = 0x02 || c = 0x08 || c = 0x09 then some 3
  else none

/-- Whether a fault of a team goes to its handler (R398). -/
def goesToHandler (s : State) (t : Nat) (cause : Byte) : Bool :=
  match fpolBit cause with
  | some b => (s.launchOf t).fpol.getLsbD b
  | none => cause != 0x30

/-- A fault of a team at its current instruction: double fault, trap or halt (R396 to R398). -/
def teamFault (s : State) (t : Nat) (cause : Byte) (lo hi : Word) : State :=
  let x := s.team t
  if x.ctl.inh then doubleFault s t cause
  else if goesToHandler s t cause then takeTrap s t cause x.at.1 x.at.2 lo hi
  else haltFault s t cause lo hi

/-- The starting team's trap with cause 0x31 becomes due, or the host is told (R255). -/
def shuttleTrapDue (s : State) (h n : Nat) (cause : Byte) : State :=
  let hh := s.harness h
  match (s.shuttle h n).starter with
  | some t =>
    if (s.team t).place = .ended then
      sendEvent s (s.launch hh.launch).f 9 [w32 hh.vcore, w32 n, w32 cause.toNat]
    else
      s.putTeam t { s.team t with due := { (s.team t).due with shuttle := (s.team t).due.shuttle ++ [(n, cause)] } }
  | none => sendEvent s (s.launch hh.launch).f 9 [w32 hh.vcore, w32 n, w32 cause.toNat]

/-- A Shuttle fault (R254). -/
def shuttleFault (s : State) (h n : Nat) (cause : Byte) (lo hi : Word) : State :=
  let x := s.shuttle h n
  shuttleTrapDue (s.putShuttle h n { x with state := 3, cause := cause, faddr := hi ++ lo, fault := false }) h n cause

/-- A fault record joined or opened (R419), with the party that waits; none when all 1,024 are in use. -/
def openRecord (s : State) (f va : Nat) (cause : Byte) (write : Bool) (p : Party) : Option State :=
  let page := va / 65536
  let add (r : FaultRec) : FaultRec :=
    match p with
    | .team t => { r with teams := r.teams ++ [(t, va)] }
    | .shuttle h n => { r with shuttles := r.shuttles ++ [(h, n)] }
    | .none => r
  if s.faults.any fun r => r.f == f && r.page == page && r.cause == cause then
    some { s with faults := s.faults.map fun r => if r.f == f && r.page == page && r.cause == cause then add r else r }
  else
    match (List.range 1024).find? fun n => s.faults.all fun r => r.fid != n with
    | none => none
    | some n =>
      let r : FaultRec := { fid := n, f := f, page := page, addr := va, cause := cause, write := write, teams := [], shuttles := [] }
      let s := { s with faults := s.faults ++ [add r] }
      some (sendEvent s f 3 [w32 n, w32 va, w32 (va / 2 ^ 32), w32 cause.toNat, w32 write.toNat])

/-- Asks that the resident harness of a core leaves it (R409); the cycle is kept, in which due traps come before it (R412). -/
def requestPreempt (s : State) (c : Nat) : State :=
  (s.putCore c { s.core c with preempt := true, preemptAt := s.time }).post .preemptionComplete { core := c }

/-- A harness blocked by a host-served fault; the cycle of the first one is kept, in which others may join it (R404). -/
def Harness.block (h : Harness) (now : Nat) : Harness :=
  if h.blocked then h else { h with blocked := true, blockedAt := now }

/-- Whether harness `h` can be given the core (R77, R404, R409). -/
def Harness.runnable (h : Harness) : Bool := h.alive && !h.blocked

/-- Whether another context of the core can run (R403). -/
def otherRunnable (s : State) (c : Nat) : Bool :=
  (List.range s.harnesses.length).any fun h =>
    (s.harness h).core == c && (s.harness h).runnable && (s.core c).resident != some h

/-- A team whose halt is due, or was taken in this cycle (R412). -/
def haltsNow (s : State) (x : Team) : Bool := x.due.halt || (x.ctl.halted && x.due.haltAt == s.time)

/-- Teams of a harness. -/
def teamsOf (s : State) (h : Nat) : List Nat := (List.range s.teams.length).filter fun t => (s.team t).info.harness == h

/-- A request that the resident harness of a core leave it; one that coincides with halts is held while those teams are halted
(R409, R412). -/
def askPreempt (s : State) (c : Nat) : State :=
  let k := s.core c
  match k.resident with
  | some h =>
    let ts := (teamsOf s h).filter fun t => haltsNow s (s.team t)
    if k.preempt then s
    else if ts = [] then requestPreempt s c
    else s.putCore c { k with heldReq := k.heldReq ++ ts.filter fun t => !k.heldReq.contains t }
  | none => s

/-- A host-served fault of a team outside a handler: PFLT, the fault record, and the swap of its harness while that is resident
(R403). -/
def serveTeamFault (s : State) (t : Nat) (cause : Byte) (va : Nat) (write : Bool) : State :=
  let x := s.team t
  match openRecord s (s.fnOf t) va cause write (.team t) with
  | none => s.putTeam t (x.putPath { x.path with dep := some .retry })
  | some s =>
    let x := s.team t
    let s := s.putTeam t { x with ctl := { x.ctl with pflt := 0x100 + cause.setWidth 9 } }
    let h := x.info.harness
    let s := s.putHarness h ((s.harness h).block s.time)
    if (s.core x.info.core).resident == some h && otherRunnable s x.info.core then askPreempt s x.info.core else s

/-- A host-served fault of a team: a double fault in a handler (R396); a halt that waits takes effect after PFLT is
written, and the rest follows at the resume (R412). -/
def teamHostFault (s : State) (t : Nat) (cause : Byte) (va : Nat) (write : Bool) : State :=
  let x := s.team t
  if x.ctl.inh then doubleFault s t cause
  else if x.due.halt then
    let y := x.halt
    s.putTeam t { y with ctl := { y.ctl with pflt := 0x100 + cause.setWidth 9 }, due := { y.due with served := some (cause, va, write), haltAt := s.time } }
  else serveTeamFault s t cause va write

/-- A host-served fault of a Shuttle: STATE 2 (R254). -/
def shuttleHostFault (s : State) (h n : Nat) (cause : Byte) (va : Nat) (write : Bool) : State :=
  match openRecord s (s.launch (s.harness h).launch).f va cause write (.shuttle h n) with
  | none => s
  | some s =>
    let x := s.shuttle h n
    s.putShuttle h n { x with state := 2, cause := cause, faddr := BitVec.ofNat 64 va, fault := true }

/-- A fault refused, or raised without a host request (R398, R404, R254). -/
def refuseFault (s : State) (p : Party) (cause : Byte) (va : Nat) : State :=
  match p with
  | .team t => if (s.team t).ctl.inh then doubleFault s t cause else haltFault s t cause (w32 va) (w32 (va / 2 ^ 32))
  | .shuttle h n => shuttleFault s h n cause (w32 va) (w32 (va / 2 ^ 32))
  | .none => s

/-- The return from a handler (R401), its checks passed. -/
def Team.leave (t : Team) : Team :=
  let p := t.path
  let t := { t with
    ctl := { t.ctl with mr := t.ctl.tmode, inh := false }
    flow := { t.flow with nest := copyNest p.mask t.flow.shadow t.flow.nest (32 * t.info.grp) } }
  t.putPath { p with pc := t.ctl.tpcPc.toNat, mac := none, resume := t.ctl.tpcMwi.toNat, dep := none }

end Sys2Proof.Machine
end

