-- ==== Sys2Proof/Machine/Translate.lean ====
section
/-! DEFINITION. Address translation (R414 to R418): the walk, the TLBs, the checks of a leaf when it is used (R416, R249,
R423, R424), and the resolution of a virtual range to places. -/

namespace Sys2Proof.Machine

/-- The units that translate (R417). -/
inductive Unit' where
  | shuttle (h n : Nat) | copy (h : Nat) | io
  deriving DecidableEq, Repr

/-- What a lookup finds: nothing usable, or a page and its leaf. -/
inductive Walk where
  | absent
  | page (base size : Nat) (leaf : Leaf)
  deriving DecidableEq, Repr

/-- How a page is used: by a read, a write or an adding write of a copy, transfer or remote access, or by a graded read
or write (R249, R340). -/
inductive Acc where
  | read | write | add | gread | gwrite
  deriving DecidableEq, Repr

/-- The result of a check: passed, a device-handled fault, a fault the host may serve, or a cause raised without a host
request (R398). -/
inductive Chk where
  | ok
  | trap (cause : Byte) (addr : Nat)
  | host (cause : Byte) (va : Nat) (write : Bool)
  | refused (cause : Byte) (va : Nat)
  deriving DecidableEq, Repr

def nbit (e i : Nat) : Bool := e.testBit i
def nfield (e lo n : Nat) : Nat := e / 2 ^ lo % 2 ^ n

/-- The size of the page that a leaf at level `lv` maps (R414). -/
def leafSize (lv : Nat) : Nat := if lv = 0 then 2 ^ 16 else if lv = 1 then 2 ^ 21 else 2 ^ 30

/-- The index of `va` at a level, and the alignment of a table read at that level (R414). -/
def walkIndex (lv va : Nat) : Nat :=
  if lv = 3 then nfield va 43 14 else if lv = 2 then nfield va 30 13 else if lv = 1 then nfield va 21 9 else nfield va 16 5
def tableSize (lv : Nat) : Nat :=
  if lv = 3 then 2 ^ 17 else if lv = 2 then 2 ^ 16 else if lv = 1 then 2 ^ 12 else 2 ^ 8

/-- HBM capacity (R14, R415). -/
def hbmSize : Nat := 2 ^ 39

/-- A present leaf entry, none when malformed (R415). -/
def leafOf (cxl lv e : Nat) : Option Leaf :=
  let tier := nfield e 4 2
  let size := leafSize lv
  let tgt := if tier = 3 then nfield e 16 29 * 2 ^ 16 else nfield e 8 49 * 2 ^ 8
  let reserved := nbit e 7 || nfield e 8 8 != 0 || (tier != 3 && nfield e 57 7 != 0)
  let beyond := (tier == 0 && hbmSize < tgt + size) || (tier == 1 && cxl < tgt + size)
  if reserved || tgt % size != 0 || beyond then none
  else
    some { tier := tier, target := tgt, peer := if tier = 3 then nfield e 45 19 else 0
           spec := nbit e 3, graded := nbit e 2, write := nbit e 1 }

/-- What one entry of a table leads to. -/
inductive Hop where
  | absent
  | leaf (l : Leaf)
  | table (a : Nat)
  deriving DecidableEq, Repr

/-- The meaning of an entry `e` of a table at level `lv` (R415). -/
def hopOf (cxl lv e : Nat) : Hop :=
  if !nbit e 0 then .absent
  else if nbit e 6 then
    if lv = 3 then .absent
    else
      match leafOf cxl lv e with
      | some l => .leaf l
      | none => .absent
  else
    let next := nfield e 8 49 * 2 ^ 8
    if lv = 0 || nfield e 57 7 != 0 || nbit e 7 || nfield e 4 2 != 0 || next % tableSize (lv - 1) != 0 || hbmSize ≤ next then .absent
    else .table next

/-- What one entry of a table at level `lv` covers (R414). -/
def entrySpan (lv : Nat) : Nat := if lv = 3 then 2 ^ 43 else leafSize lv

/-- The walk from a table at level `lv` (R414, R415): an entry that the walker complex has cached is not read again (R417); with
the non-leaf entries read. -/
def walkFrom (m : Memory) (cache : List WalkEntry) (cxl f va : Nat) : Nat → Nat → Walk × List WalkEntry
  | lv, tbl =>
    let tag := va / entrySpan lv
    let held := cache.find? fun e => e.f == f && e.lv == lv && e.tag == tag
    let hop := match held with
      | some e => Hop.table e.table
      | none => hopOf cxl lv (leNat (memBytes m (tbl + 8 * walkIndex lv va) 8))
    match hop, lv with
    | .leaf l, lv => (.page (va / leafSize lv * leafSize lv) (leafSize lv) l, [])
    | .table a, lv + 1 =>
      let (w, r) := walkFrom m cache cxl f va lv a
      (w, if held.isSome then r else { f := f, lv := lv + 1, tag := tag, table := a } :: r)
    | _, _ => (.absent, [])

/-- The core of a Shuttle or of a copy queue, and the die of a unit, whose walker complex serves it (R417). -/
def Unit'.core (s : State) : Unit' → Nat
  | .shuttle h _ => (s.harness h).core
  | .copy h => (s.harness h).core
  | .io => 0

/-- The walk of `va` for a unit. -/
def walk (s : State) (u : Unit') (f va : Nat) : Walk × List WalkEntry :=
  walkFrom s.hbm (s.die (dieOf (u.core s))).walker s.svc.cxlCap f va 3 (s.func f).root.toNat

/-! ## The TLBs -/

def State.tlb (s : State) (u : Unit') : List TlbEntry :=
  match u with
  | .shuttle _ n => (s.core (u.core s)).tlbs.getD n []
  | .copy _ => (s.core (u.core s)).copyTlb
  | .io => s.ioTlb

def State.putTlb (s : State) (u : Unit') (l : List TlbEntry) : State :=
  let c := s.core (u.core s)
  match u with
  | .shuttle _ n => s.putCore (u.core s) { c with tlbs := c.tlbs.set n l }
  | .copy _ => s.putCore (u.core s) { c with copyTlb := l }
  | .io => { s with ioTlb := l }

/-- Entries that a walk read join the cache of the unit's walker complex; the oldest make room (R417, log 5). -/
def State.putWalked (s : State) (u : Unit') (l : List WalkEntry) : State :=
  if l = [] then s
  else
    let d := s.die (dieOf (u.core s))
    let w := d.walker ++ l
    s.putDie (dieOf (u.core s)) { d with walker := w.drop (w.length - 512) }

def tlbRoom : Unit' → Nat
  | .io => 256
  | _ => 64

def TlbEntry.covers (e : TlbEntry) (f va : Nat) : Bool := e.f == f && e.base ≤ va && va < e.base + e.size

/-- The page of `va`: from the TLB, else by a walk. -/
def State.page (s : State) (u : Unit') (f va : Nat) : Walk :=
  match (s.tlb u).find? (·.covers f va) with
  | some e => .page e.base e.size e.leaf
  | none => (walk s u f va).1

/-- The TLB and the walker's cache after a use of `va`; the oldest entry makes room (log 5). -/
def State.tlbUse (s : State) (u : Unit') (f va : Nat) : State :=
  if (s.tlb u).any (·.covers f va) then s
  else
    let (w, r) := walk s u f va
    let s := s.putWalked u r
    match w with
    | .absent => s
    | .page b n l =>
      let t := s.tlb u ++ [{ f := f, base := b, size := n, leaf := l }]
      s.putTlb u (t.drop (t.length - tlbRoom u))

/-! ## The checks of a leaf -/

/-- The place `va` is mapped to. -/
def Leaf.loc (l : Leaf) (off : Nat) : Loc :=
  match l.tier with
  | 0 => .hbm (l.target + off)
  | 1 => .cxl (l.target + off)
  | 2 => .host (l.target + off)
  | _ => .peer l.peer (l.target + off)

/-- The tag of the cell at virtual address `va` of function `f`, whose bytes lie at `l` (R335, R358). -/
def tagAt (s : State) (f va : Nat) (l : Loc) : Byte :=
  match l with
  | .peer p a => sget 0 ((s.peerTags.lookup p).getD []) (a / 256)
  | _ => sget 0 (s.func f).tags (va / 256)

def putTagAt (s : State) (f va : Nat) (l : Loc) (t : Byte) : State :=
  match l with
  | .peer p a =>
    if (s.peerTags.lookup p).isSome then
      { s with peerTags := s.peerTags.map fun e => if e.1 = p then (p, sset 0 e.2 (a / 256) t) else e }
    else { s with peerTags := s.peerTags ++ [(p, sset 0 [] (a / 256) t)] }
  | _ => s.putFunc f { s.func f with tags := sset 0 (s.func f).tags (va / 256) t }

def gradeOf (t : Byte) : Nat := (t.extractLsb' 0 2).toNat
def genOf (t : Byte) : Nat := (t.extractLsb' 2 5).toNat
def consOf (t : Byte) : Bool := t.getLsbD 7
def mkTag (cons : Bool) (gen grade : Nat) : Byte := BitVec.ofNat 8 (cons.toNat * 128 + gen % 32 * 4 + grade % 4)

/-- Whether every cell that the `n` bytes at `va`, mapped to `l`, touch is final (R249). -/
def allFinal (s : State) (f va n : Nat) (l : Loc) : Bool :=
  (List.range ((va + n - 1) / 256 + 1 - va / 256)).all fun j => gradeOf (tagAt s f (va / 256 * 256 + 256 * j) (l.add (256 * j))) = 3

/-- The state of the pool page that holds `va`, over the live launches of the function (R423); none outside every pool. -/
def poolPage (s : State) (f va : Nat) : Option KvPage :=
  s.launches.findSome? fun l =>
    if l.live && l.f == f then
      l.pool.bind fun p =>
        if p.base ≤ va && va < p.base + 65536 * p.pages then some ((p.owned.lookup ((va - p.base) / 65536)).getD .free) else none
    else none

/-- Whether a page is closed to accesses: a pool page that is free or quarantined, and a page with SPEC = 1 outside every
pool (R423, log 20). -/
def poolClosed (spec : Bool) : Option KvPage → Bool
  | some .free => true
  | some (.quarantine _) => true
  | some _ => false
  | none => spec

/-- The first address among the bytes `va` to `va + n - 1` that lies in a closed page. -/
def poolFault (s : State) (f : Nat) (spec : Bool) (va n : Nat) : Option Nat :=
  ((List.range ((va + n - 1) / 65536 + 1 - va / 65536)).map fun j => max va ((va / 65536 + j) * 65536)).find? fun a =>
    poolClosed spec (poolPage s f a)

/-- The checks of a leaf that the bytes `va` to `va + n - 1` use, in the order of R416; a peer checks an access last, under its
own tables (R424). -/
def useLeaf (s : State) (f : Nat) (acc : Acc) (va n : Nat) (base : Nat) (l : Leaf) : Chk :=
  let writes := acc == .write || acc == .add || acc == .gwrite
  let own := l.tier == 3 && l.peer == s.svc.peerId
  let loc := l.loc (va - base)
  if acc == .add && 2 ≤ l.tier then .refused 0x11 va
  else if writes && !l.write then .host 0x11 va true
  else if own then .refused 0x11 va
  else if (l.graded && (l.tier == 1 || l.tier == 2)) || (l.spec && l.tier != 0) then .trap 0x12 va
  else if (acc == .gread || acc == .gwrite) && !l.graded then .trap 0x12 va
  else if (acc == .write || acc == .add) && l.graded then .trap 0x12 va
  else if acc == .read && l.graded && !allFinal s f va n loc then .trap 0x12 va
  else
    match poolFault s f l.spec va n with
    | some a => .refused 0x11 a
    | none => if l.tier == 3 && Config.peerFaults s.freeIx l.peer (l.target + (va - base)) then .refused 0x11 va else .ok

/-- What a range resolves to: a failed check, or its places in order and the pages used. -/
structure Resolved where
  chk   : Chk
  locs  : List (Loc × Nat)
  pages : List (Nat × Nat × Nat)
  deriving DecidableEq, Repr

/-- Resolves the `n` bytes at `va`, page by page; the first failure ends it (R246, R259). -/
def resolveFuel (u : Unit') (f : Nat) (acc : Acc) : Nat → State → Nat → Nat → State × Resolved
  | 0, s, _, _ => (s, ⟨.ok, [], []⟩)
  | k + 1, s, va, n =>
    if n = 0 then (s, ⟨.ok, [], []⟩)
    else if 2 ^ 57 ≤ va then (s, ⟨.trap 0x04 va, [], []⟩)
    else
      match s.page u f va with
      | .absent => (s.tlbUse u f va, ⟨.host 0x10 va (acc == .write || acc == .add || acc == .gwrite), [], []⟩)
      | .page b z l =>
        let m := min n (b + z - va)
        let s := s.tlbUse u f va
        match useLeaf s f acc va m b l with
        | .ok =>
          let (s, r) := resolveFuel u f acc k s (va + m) (n - m)
          (s, { r with locs := (l.loc (va - b), m) :: r.locs, pages := (f, b, z) :: r.pages })
        | c => (s, ⟨c, [], []⟩)

/-- `resolveFuel` with fuel for every page of the range. -/
def resolve (s : State) (u : Unit') (f : Nat) (acc : Acc) (va n : Nat) : State × Resolved :=
  resolveFuel u f acc (n / 65536 + 2) s va n

/-- The place of one byte address without any check, for reads of what was resolved before. -/
def State.placeOf (s : State) (u : Unit') (f va : Nat) : Loc :=
  match s.page u f va with
  | .page b _ l => l.loc (va - b)
  | .absent => .zero

end Sys2Proof.Machine
end

