-- ==== Sys2Proof/Machine/Paths.lean ====
section
/-! DEFINITION. Barrier slots, graded cells, streams and gangs as waits see them (R322, R331, R348, R294, R151), what a
path waits for (R137), the choice of the next path (R160) and joins (R162). -/

namespace Sys2Proof.Machine

/-! ## Barrier slots -/

def Harness.isLive (h : Harness) (slot : Nat) : Bool := sget 0 h.live slot = 1
def slotWord (h : Harness) (slot i : Nat) : Word := memWord h.shared (slot + 4 * i)

/-- The epoch test of R331 on the slot's count of completed phases. -/
def epochTest (h : Harness) (slot e : Nat) : Bool :=
  let d := (((slotWord h slot 2).toNat / 65536) + 65536 - e % 65536) % 65536
  1 ≤ d && d ≤ 32767

/-! ## Graded cells -/

/-- The virtual address of cell `i` of region `g` of a launch (R36). -/
def cellVa (l : Launch) (g i : Nat) : Nat := ((l.regions[g]?).map (·.base)).getD 0 + 256 * i

/-- The tag of a cell of a launch, its page found as unit `u` finds it. -/
def cellTag (s : State) (u : Unit') (l : Launch) (g i : Nat) : Byte :=
  tagAt s l.f (cellVa l g i) (s.placeOf u l.f (cellVa l g i))

/-! ## Streams -/

def Harness.stream (h : Harness) (n : Nat) : Option Stream := h.streams.getD n none
def Harness.putStream (h : Harness) (n : Nat) (x : Stream) : Harness := { h with streams := h.streams.set n (some x) }

/-- The positions of the subscribers of a stream (R294). -/
def positions (s : State) (h n : Nat) : List Nat :=
  s.teams.filterMap fun x => match x.wm.sub with
    | some (k, p) => if x.info.harness = h && k = n then some p else none
    | none => none

def lowest : List Nat → Option Nat
  | [] => none
  | p :: r => match lowest r with
    | some q => some (min p q)
    | none => some p

/-- Whether a team's strm operand may be read (R294). -/
def rowReady (s : State) (h n pos : Nat) : Bool :=
  match (s.harness h).stream n, lowest (positions s h n) with
  | some x, some m => pos < x.filled && pos < m + x.win
  | _, _ => false

/-! ## Gangs -/

/-- The team of a harness with a role and a tid. -/
def findTeam (s : State) (h role tid : Nat) : Option Nat :=
  (List.range s.teams.length).find? fun t =>
    let i := (s.team t).info
    i.harness == h && i.role == role && i.tid == tid

/-- The fields of a gang register (R151). -/
def gangN (g : BitVec 13) : Nat := (g.extractLsb' 10 3).toNat
def gangRole (g : BitVec 13) : Nat := (g.extractLsb' 8 2).toNat
def gangT0 (g : BitVec 13) : Nat := (g.extractLsb' 0 8).toNat

/-- The teams of a gang on a harness, in tid order. -/
def gangTeams (s : State) (h : Nat) (g : BitVec 13) : List Nat :=
  (List.range (gangN g)).filterMap fun j => findTeam s h (gangRole g) (gangT0 g + j)

/-- The round of a gang on a harness that has begun: one for each value of the gang register, so that teams whose registers differ do
not meet (R151, R296; log 124). -/
def roundOf (s : State) (h : Nat) (g : BitVec 13) : Option GangRound := (s.harness h).gangs.find? (·.gang == g)

/-! ## Waits -/

/-- C: the batches from the first incomplete one on (R89, R91). -/
def Deps.c (d : Deps) : Nat := (d.batches.dropWhile (·.left = 0)).length

/-- A word a WAITV watches (R240). -/
def watchedWord (s : State) (t : Nat) (addr : Nat) (scratch : Bool) : Word :=
  if scratch then memWord (s.die (addr / 2 ^ 27)).scratch (addr % 2 ^ 27) else memWord (s.harnessOf t).shared addr

/-- Whether a party has accesses of memory, issued before number `id`, that still have to act (R230, R315, R392). -/
def lateBefore (s : State) (p : Party) (id : Nat) : Bool :=
  s.late.any fun x => x.party == p && x.id < id && (x.acts != [] || x.image.isSome)

/-- The place in the order of cycles of the last of the accesses of die scratch that still have to act, of those that `mine` accepts
and that make an access that `ok` accepts. -/
def lastLate (s : State) (mine : Late → Bool) (ok : Act → Bool) : Option Nat :=
  ((s.late.filter fun x => mine x && x.scratch && x.acts.any ok).map (·.key)).max?

/-- Whether what a path waits for has come about; a WAITV reads a word of die scratch once its team's earlier accesses to it have
acted (R230). -/
def depMet (s : State) (t : Nat) : Dep → Bool
  | .counters l st c m =>
    let d := (s.team t).deps
    d.l ≤ l && d.s ≤ st && (c == 63 || d.c ≤ c) && d.m ≤ m
  | .sleep n => n ≤ (s.team t).ctl.tmr.toNat
  | .barrier _ _ => false
  | .grade g first n gr =>
    (List.range n).all fun j => gr ≤ gradeOf (cellTag s (.copy (s.team t).info.harness) (s.launchOf t) g (first + j))
  | .tile => false
  | .value a x c v => !(x && (lastLate s (·.party == .team t) fun b => b.addr == a).isSome) && cond50 c (watchedWord s t a x) v
  | .retry => true
  | .gang => false
  | .met => true
  | .lost _ => true
  | .start _ _ _ => false
  | .put _ => false

/-- A wait whose end the instruction has still to take, as its completion or its fault, before any trap (R331, R412). -/
def Dep.isOver : Dep → Bool
  | .met => true
  | .lost _ => true
  | _ => false

/-- Whether a path's instruction has such a wait behind it. -/
def Path.isOver (p : Path) : Bool := p.dep.any Dep.isOver

/-- Whether a wait is a long-latency dependence (R137). -/
def longDep (s : State) (t : Nat) : Dep → Bool
  | .counters _ _ c _ => c != 63 && c < (s.team t).deps.c
  | .sleep _ => true
  | .barrier _ _ => true
  | .grade _ _ _ _ => true
  | .tile => true
  | .value _ _ _ _ => true
  | .retry => false
  | .gang => false
  | .met => false
  | .lost _ => false
  | .start _ _ _ => false
  | .put _ => false

/-- Whether an operation or a transfer that a FENCE waits for has not ended (R238). -/
def fenced (s : State) (ids : List Nat) : Bool := ids.any fun i => (s.ops.any (·.id == i)) || s.transfers.any (·.id == i)

/-- Whether a path can issue (R160, R238, R433): it waits for nothing that its instruction has found; one whose next word only
stalls, on the scoreboard or a full counter, counts as able (log 107). -/
def pathCan (s : State) (t : Nat) (p : Path) : Bool :=
  p.join.isNone && (!p.held || (s.team t).due.one.isSome) && !fenced s p.fence && match p.dep with | none => true | some d => depMet s t d

/-- Whether a path's wait at JOIN is still on: not from the cycle of its deadline, which a held path has none of (R163, R433). -/
def atJoin (tmr : Nat) (p : Path) : Bool :=
  match p.join with
  | some ⟨some d⟩ => p.held || tmr < d
  | some ⟨none⟩ => true
  | none => false

/-- Whether a path waits on a long-latency dependence that has not come about (R137, R139). -/
def waitsLong (s : State) (t : Nat) (p : Path) : Bool :=
  atJoin (s.team t).ctl.tmr.toNat p || match p.dep with
    | some d => longDep s t d && !depMet s t d
    | none => false

/-- The limits that a WAIT names (R146). -/
def waitLimits (i : BitVec 24) : Dep :=
  .counters (i.extractLsb' 18 6).toNat (i.extractLsb' 12 6).toNat (i.extractLsb' 6 6).toNat (i.extractLsb' 0 6).toNat

/-- The path table entries after `i`, wrapping round to `i` itself (R160). -/
def pathOrder (i : Nat) : List Nat := (List.range 16).map fun j => (i + 1 + j) % 16

/-- The first path after the current one that can issue. -/
def nextPathOf (s : State) (t : Nat) : Option Nat :=
  (pathOrder (s.team t).flow.path).find? fun i =>
    match (s.team t).flow.paths.getD i none with
    | some p => pathCan s t p
    | none => false

/-- Whether the current path is about to take its step or watchpoint trap (R395). -/
def Team.pathTrap (x : Team) : Bool := x.path.join.isNone && (!x.path.held || x.due.one.isSome) && (x.path.step || x.path.watch != [])

/-- The choice of R160, with a fresh quantum; in a handler, for a debugger's step, and while a step or watchpoint trap of
the current path is due, the path stays (R394, R395, R432). -/
def choosePath (s : State) (t : Nat) : State :=
  let x := s.team t
  if x.ctl.inh || x.due.one.isSome || x.pathTrap then s
  else
    let n := (nextPathOf s t).getD x.flow.path
    s.putTeam t { x with flow := { x.flow with path := n, quantum := 0 } }

/-- A team whose current path has ended and of which no path can issue stands at its next live path that is not held, one that does
not wait at JOIN before one that does (R160; log 127). -/
def standIn (s : State) (t : Nat) : State :=
  let x := s.team t
  let at' (ok : Path → Bool) : Option Nat :=
    (pathOrder x.flow.path).find? fun i => (x.flow.paths.getD i none).any fun p => !p.held && p.dep != some .gang && ok p
  match x.flow.paths.getD x.flow.path none, (at' fun p => p.join.isNone).or (at' fun _ => true) with
  | none, some i => s.putTeam t { x with flow := { x.flow with path := i, quantum := 0 } }
  | _, _ => s

/-! ## Joins -/

/-- Whether an entry is a live path of token `tok`. -/
def hasToken (tok : Nat) : Option Path → Bool
  | some p => p.token == some tok
  | none => false

def isWaiting : Option Path → Bool
  | some p => p.join.isSome
  | none => false

/-- Whether an entry waits at a JOIN of `tok` at `pc`. -/
def waitsAt (tok pc : Nat) : Option Path → Bool
  | some p => p.token == some tok && p.join.isSome && p.pc == pc
  | none => false

/-- The join condition of R162. -/
def joinHolds (ps : List (Option Path)) (tok : Nat) : Bool :=
  (ps.filter (hasToken tok)).all isWaiting

/-- The merge of R162: entry `i` of the table after the paths of `tok` leave their JOINs. -/
def mergeAt (ps : List (Option Path)) (tok i : Nat) : Option Path :=
  match ps.getD i none with
  | none => none
  | some p =>
    if !waitsAt tok p.pc (some p) then some p
    else if (ps.take i).any (waitsAt tok p.pc) then none
    else
      let all := ps.filter (waitsAt tok p.pc)
      some { p with
        mask := all.foldl (fun m q => m ||| (q.getD {}).mask) 0
        held := all.any fun q => (q.getD {}).held
        step := all.any fun q => (q.getD {}).step
        watch := all.flatMap fun q => (q.getD {}).watch
        fence := all.flatMap fun q => (q.getD {}).fence
        pc := p.pc + 1, join := none, dep := none }

/-- Tests the join condition of a token and merges when it holds (R162). -/
def joinTest (t : Team) (tok : Nat) : Team :=
  if joinHolds t.flow.paths tok then
    { t with flow := { t.flow with paths := (List.range 16).map (mergeAt t.flow.paths tok) } }
  else t

/-- Live paths of a team. -/
def Team.live (t : Team) : Nat := (t.flow.paths.filter (·.isSome)).length

/-- The lowest free index of the path table (R158). -/
def Team.freePaths (t : Team) : List Nat := (List.range 16).filter fun i => (t.flow.paths.getD i none).isNone

end Sys2Proof.Machine
end

