-- ==== Sys2Proof/Machine/Issue.lean ====
section
/-! DEFINITION. The issue of one instruction word by a team or a Shuttle: the checks of R98 in their order, dormant paths
(R156), the instruction's own effect, the fall-through (R105), and what every issued instruction counts (R160, R395, R436). -/

namespace Sys2Proof.Machine

/-- The result of an instruction's own rule. -/
inductive Eff where
  /-- Its effect; the party goes on at the next word. -/
  | done (s : State)
  /-- Its effect; the path moves to a word offset. -/
  | goto (s : State) (target : Int)
  /-- A fault with its TADDR, nothing changed (R9). -/
  | fault (cause : Byte) (lo hi : Word)
  /-- A fault the host may serve (R403). -/
  | host (s : State) (cause : Byte) (va : Nat) (write : Bool)
  /-- Cause 0x11 raised without a host request (R398). -/
  | refused (cause : Byte) (va : Nat)
  /-- A wait; the instruction issues again when the dependence is met. -/
  | wait (s : State) (d : Dep)
  /-- The effect has placed the party's PC itself and done its own counting. -/
  | stop (s : State)

/-- What R98 and R156 need to know of an instruction: who may issue it (R102, R103), whether it needs copy rights (R99),
whether it acts on a dormant path (R155), which operand bytes are legal (step 1 of R98), which modes and immediates its own
rule accepts (R172, R97; log 13), and its operand bytes in the order D, A, B. -/
structure Rules where
  team    : Bool := true
  shuttle : Bool := false
  copy    : Bool := false
  counter : Bool := false
  legal   : View → Bool := fun _ => true
  mode    : View → Bool := fun _ => true
  regs    : List Byte := []
  span    : Nat := 1
  passes  : Option Nat := none

/-- The word that TADDR shows for causes 0x01 and 0x07 (R98, R398). -/
def wordShown (i : Instr) (s : State) : Word :=
  match i with
  | .udf => s.ir
  | .prio => s.ir
  | _ => (encode i).getD s.ir

/-- Words of the code of a launch (R105). -/
def codeWords (l : Launch) : Nat := l.codesize / 4

/-- The first operand byte at or above the budget (R81). -/
def overBudget (r : Rules) (w : View) : Option Byte :=
  r.regs.find? fun x => isV x && w.budget < x.toNat + r.span

/-- Groups of a team that have a running lane (R141). -/
def runGroups (w : View) : Nat :=
  ((List.range (w.nl / 32)).filter fun g => w.run.extractLsb' (32 * g) 32 != 0).length

/-- Passes of an instruction (R141). -/
def passesOf (r : Rules) (w : View) : Nat :=
  match r.passes with
  | some n => n
  | none => if allUniform r.regs then 1 else max 1 (runGroups w)

/-- What an instruction that has issued counts: the path's quantum (R160), the step bit (R395), a debugger's step (R432)
and the counters of R436. `x` is the team before the instruction; the step trap is due to the path that issued it. -/
def countIssue (x : Team) (passes : Nat) (whole : Bool) (s : State) (t : Nat) : State :=
  let y := s.team t
  let step := whole && x.ctl.step && !x.ctl.inh
  let one := whole && x.due.one == some x.flow.path
  let q := if whole then y.flow.quantum + 1 else y.flow.quantum
  let y := { y with
    flow := { y.flow with quantum := q }
    due := { y.due with one := if one then none else y.due.one }
    ctl := { y.ctl with halted := y.ctl.halted || one }
    perf := { y.perf with
      issued := y.perf.issued + 1, passes := y.perf.passes + BitVec.ofNat 64 passes, lastIssue := s.time } }
  s.putTeam t (if step then y.putPath { y.path with step := true } else y)

/-- The opcode of an instruction word. -/
def opOf (w : Word) : Nat := (w.extractLsb' 24 8).toNat

/-- One entry of the control store; unlisted entries hold MRET with tag 0 (R114). -/
def macroEntry (h : Harness) (ix : Nat) : BitVec 38 := sget (0xF2000000 : BitVec 38) h.macros ix

/-- Whether word `j` of a macro buffer ends it: the first MRET is the last word copied, whatever its substituted fields
(R115). -/
def macroEnds (ws : List Word) (j : Nat) : Bool := ws.length ≤ j || opOf (ws.getD j 0) = 0xF2

/-- The end of an instruction that falls through: the next word of the macro, or of the code (R105, R115); of a macro whose MCALL is the
last code word, the last word finds none (log 14). -/
def fallThrough (i : Instr) (r : Rules) (s0 : State) (t : Nat) (w : View) (s : State) : State :=
  let x := s0.team t
  let y := s.team t
  let p := y.path
  let again : Bool := match p.mac with
    | some (ws, j) => !macroEnds ws (j + 1)
    | none => false
  if again then
    let mac := match p.mac with
      | some (ws, j) => some (ws, j + 1)
      | none => none
    countIssue x (passesOf r w) false (s.putTeam t (y.putPath { p with mac := mac, dep := none })) t
  else if codeWords (s0.launchOf t) ≤ x.path.pc + 1 then
    teamFault { s0 with ir := wordShown i s0 } t 0x04 (w32 (x.path.pc + 1)) 0
  else
    countIssue x (passesOf r w) true
      (s.putTeam t (y.putPath { p with pc := x.path.pc + 1, mac := none, resume := 0, dep := none })) t

/-- A transfer of control of a team (R105); TADDR shows a target below 0 in 32 bits of two's complement (log 133). -/
def transfer (r : Rules) (s0 : State) (t : Nat) (w : View) (s : State) (target : Int) : State :=
  let x := s0.team t
  if target < 0 || (codeWords (s0.launchOf t) : Int) ≤ target then
    teamFault s0 t 0x04 (BitVec.ofInt 32 target) 0
  else
    let y := s.team t
    countIssue x (passesOf r w) true
      (s.putTeam t (y.putPath { y.path with pc := target.toNat, mac := none, resume := 0, dep := none })) t

/-- A wait of a team's current path; a long-latency one gives way to the next path (R160). -/
def waitOn (s : State) (t : Nat) (d : Dep) : State :=
  let y := s.team t
  let s := s.putTeam t (y.putPath { y.path with dep := some d })
  if longDep s t d then choosePath s t else s

/-- A wait that SHSTAT shows as STATE 2 (R256). -/
def waiting (s : State) : State :=
  match s.cur with
  | .shuttle h n => s.putShuttle h n { s.shuttle h n with state := 2 }
  | _ => s

/-- Carries out the result of an instruction's rule for a team. -/
def finishTeam (i : Instr) (r : Rules) (s0 : State) (t : Nat) (w : View) : Eff → State
  | .done s => fallThrough i r s0 t w s
  | .goto s target => transfer r s0 t w s target
  | .fault c lo hi => teamFault s0 t c lo hi
  | .host s c va wr => teamHostFault s t c va wr
  | .refused c va => refuseFault s0 (.team t) c va
  | .wait s d => waitOn s t d
  | .stop s => s

/-- The same for a Shuttle (R244, R254). -/
def finishShuttle (s0 : State) (h n : Nat) : Eff → State
  | .done s =>
    let pc := (s0.shuttle h n).pc + 1
    if codeWords (s0.launch (s0.harness h).launch) ≤ pc then shuttleFault s0 h n 0x04 (w32 pc) 0
    else s.putShuttle h n { s.shuttle h n with pc := pc, state := 1 }
  | .goto s target =>
    if target < 0 || (codeWords (s0.launch (s0.harness h).launch) : Int) ≤ target then
      shuttleFault s0 h n 0x04 (BitVec.ofInt 32 target) 0
    else s.putShuttle h n { s.shuttle h n with pc := target.toNat, state := 1 }
  | .fault c lo hi => shuttleFault s0 h n c lo hi
  | .host s c va wr => shuttleHostFault s h n c va wr
  | .refused c va => refuseFault s0 (.shuttle h n) c va
  | .wait s _ => s
  | .stop s => s

/-- Whether a path that resumes inside a macro finds an MCALL there (R121). -/
def resumeOk (i : Instr) (p : Path) : Bool :=
  p.resume == 0 || match i with | .mcall _ _ _ => true | _ => false

/-- The cause of a fault. -/
def Eff.cause : Eff → Option Byte
  | .fault c _ _ => some c
  | _ => none

/-- The issue of a word by a team, in the order of R98; a dormant path only goes on to the next word, in one pass
(R156). An illegal instruction comes before a register beyond the budget, in the instruction's own rule too (R81; log 13). -/
def issueTeam (i : Instr) (r : Rules) (body : View → State → Eff) (s : State) (t : Nat) : State :=
  let x := s.team t
  let w := x.view
  if !r.team || !resumeOk i x.path || !r.legal w then teamFault s t 0x01 (wordShown i s) 0
  else if x.dormant && !r.counter then fallThrough i { r with passes := some 1 } s t w s
  else if r.copy && !x.info.cpr then teamFault s t 0x07 (wordShown i s) 0
  else if !r.mode w then teamFault s t 0x01 (wordShown i s) 0
  else
    match overBudget r w with
    | some b => if (body w s).cause = some 0x01 then finishTeam i r s t w (body w s) else teamFault s t 0x02 (b.setWidth 32) 0
    | none => finishTeam i r s t w (body w s)

/-- The issue of a word by a Shuttle (R103, R104). -/
def issueShuttle (i : Instr) (r : Rules) (body : View → State → Eff) (s : State) (h n : Nat) : State :=
  let w := (s.shuttle h n).view
  if !r.shuttle || !r.legal w || !r.mode w then shuttleFault s h n 0x01 (wordShown i s) 0
  else finishShuttle s h n (body w s)

/-- The issue of a word by the party whose turn it is. -/
def issue (i : Instr) (r : Rules) (body : View → State → Eff) (s : State) : Host.Outcome State Fault Refusal :=
  match s.cur with
  | .team t => .next (issueTeam i r body s t)
  | .shuttle h n => .next (issueShuttle i r body s h n)
  | .none => .fault .noParty

/-- The effect of an instruction that only writes registers. -/
def regsBody (g : View → RegFile) : View → State → Eff := fun w s => .done (s.putRegs (g w))

/-- The illegal-instruction fault of an instruction's own rule, with the instruction's word (R98). -/
def illegal (i : Instr) (s : State) : Eff := .fault 0x01 (wordShown i s) 0

end Sys2Proof.Machine
end

