-- ==== Sys2Proof/Machine/Control.lean ====
section
/-! DEFINITION. Control flow: nesting counters, paths, joins, transfers (R154 to R168), and macros (R114 to R121). -/

namespace Sys2Proof.Machine

/-- The current team of an instruction that only teams execute, and its replacement. -/
def State.me (s : State) : Team := s.team s.curTeam
def State.putMe (s : State) (x : Team) : State := s.putTeam s.curTeam x

/-- The target of a branch from the current instruction (R96). -/
def pcOf (s : State) : Int :=
  match s.cur with
  | .team t => (s.team t).path.pc
  | .shuttle h n => (s.shuttle h n).pc
  | .none => 0

def branchTo (s : State) (off : Int) : Eff := .goto s (pcOf s + 1 + off)

def execNop (s : State) : Host.Outcome State Fault Refusal := issue .nop { shuttle := true } (fun _ s => .done s) s

def execJmp (i : BitVec 24) (s : State) : Host.Outcome State Fault Refusal :=
  issue (.jmp i) { shuttle := true } (fun _ s => branchTo s i.toInt) s

def execBrs (d : Byte) (i : BitVec 16) (s : State) : Host.Outcome State Fault Refusal :=
  issue (.brs d i) { shuttle := true, legal := fun _ => isS d, regs := [d] }
    (fun w s => if rd w d 0 != 0 then branchTo s i.toInt else .done s) s

/-- The lanes of a mask whose predicate bit is set. -/
def predMask (w : View) (d : Byte) : BitVec 1024 :=
  match opd d with
  | .p n => getP w.regs n
  | _ => 0

/-- BRP (R159); illegal inside a handler (R396). A full path table stops a split before the target is looked at (log 114). -/
def execBrp (d : Byte) (i : BitVec 16) (s : State) : Host.Outcome State Fault Refusal :=
  issue (.brp d i) { legal := fun w => isQ w.shuttle d, regs := [d], passes := some 1 }
    (fun w s =>
      let x := s.me
      let tk := w.run &&& predMask w d
      let fl := w.mask &&& ~~~tk
      if x.ctl.inh then illegal (.brp d i) s
      else if tk = 0 then .done s
      else if fl = 0 then branchTo s i.toInt
      else
        match x.freePaths with
        | [] => .fault 0x08 0 0
        | n :: _ =>
          let target := pcOf s + 1 + i.toInt
          if target < 0 || (codeWords (s.launchOf s.curTeam) : Int) ≤ target then .fault 0x04 (BitVec.ofInt 32 target) 0
          else
            .done (s.putMe ((x.putPathAt n (some { pc := target.toNat, mask := tk, token := x.path.token })).putPath
              { x.path with mask := fl }))) s

/-- The nesting counters of the lanes of PathMask() changed by `g` (R155). -/
def mapNest (x : Team) (g : Nat → Byte → Byte) : Team :=
  let p := x.path
  { x with
    flow := { x.flow with
      nest := (List.range (32 * x.info.grp)).foldl
        (fun m k => if p.mask.getLsbD k then sset 0 m k (g k (sget 0 m k)) else m) x.flow.nest } }

/-- Whether some lane of PathMask() has a counter above `n`. -/
def nestAbove (x : Team) (n : Nat) : Bool :=
  (List.range (32 * x.info.grp)).any fun k => x.path.mask.getLsbD k && n < (sget 0 x.flow.nest k).toNat

/-- IF (R155, R157). -/
def execIfP (d : Byte) (i : BitVec 16) (s : State) : Host.Outcome State Fault Refusal :=
  issue (.ifP d i) { counter := true, legal := fun w => isQ w.shuttle d, regs := [d], passes := some 1 }
    (fun w s =>
      if nestAbove s.me 254 then .fault 0x09 0 0
      else
        let x := mapNest s.me fun k n => if n != 0 then n + 1 else if rdQ w d k then 0 else 1
        if x.dormant then branchTo (s.putMe x) i.toNat else .done (s.putMe x)) s

/-- ELSE (R155, R157). -/
def execElseP (i : BitVec 16) (s : State) : Host.Outcome State Fault Refusal :=
  issue (.elseP i) { counter := true }
    (fun _ s =>
      let x := mapNest s.me fun _ n => if n = 0 then 1 else if n = 1 then 0 else n
      if x.dormant then branchTo (s.putMe x) i.toNat else .done (s.putMe x)) s

def execEndif (s : State) : Host.Outcome State Fault Refusal :=
  issue .endif { counter := true } (fun _ s => .done (s.putMe (mapNest s.me fun _ n => if n = 0 then 0 else n - 1))) s

/-- LOOP (R155); on a dormant path it passes over its loop (R157). -/
def execLoop (i : BitVec 24) (s : State) : Host.Outcome State Fault Refusal :=
  issue (.loop i) { counter := true }
    (fun _ s =>
      if s.me.dormant then branchTo s i.toNat
      else if nestAbove s.me 253 then .fault 0x09 0 0
      else .done (s.putMe (mapNest s.me fun _ n => if n = 0 then 0 else n + 2))) s

/-- ENDLOOP (R155). -/
def execEndloop (i : BitVec 24) (s : State) : Host.Outcome State Fault Refusal :=
  issue (.endloop i) { counter := true }
    (fun _ s =>
      let x := mapNest s.me fun _ n => if n = 1 then 0 else n
      if x.dormant then .done (s.putMe (mapNest x fun _ n => if n = 0 then 0 else n - 2))
      else branchTo (s.putMe x) i.toInt) s

/-- BREAK and CONT: the counter of each running lane with the predicate set (R155, R126). -/
def setNest (w : View) (d a : Byte) (s : State) : State :=
  s.putMe (mapNest s.me fun k n => if w.run.getLsbD k && rdQ w d k then a else n)

def execBreakP (d a : Byte) (s : State) : Host.Outcome State Fault Refusal :=
  issue (.breakP d a) { counter := true, legal := fun w => isQ w.shuttle d, regs := [d], passes := some 1 }
    (fun w s => .done (setNest w d a s)) s

def execContP (d a : Byte) (s : State) : Host.Outcome State Fault Refusal :=
  issue (.contP d a) { counter := true, legal := fun w => isQ w.shuttle d, regs := [d], passes := some 1 }
    (fun w s => .done (setNest w d a s)) s

/-- The choice of the next path when the current entry is free or waits (R160); the current one stays current otherwise. -/
def settlePath (s : State) (t : Nat) : State :=
  match (s.team t).flow.paths.getD (s.team t).flow.path none with
  | some p => if p.join.isSome then choosePath s t else s
  | none => choosePath s t

/-- The arrival of the current path at a JOIN of its token (R162), with the timeout of R163. -/
def arriveJoin (s : State) (t : Nat) (tok limit : Nat) : State :=
  let x := s.team t
  let wait : JoinWait := { deadline := if limit = 0 then none else some (x.ctl.tmr.toNat + 16 * limit) }
  settlePath (s.putTeam t (joinTest (x.putPath { x.path with join := some wait }) tok)) t

/-- JOIN (R162); illegal inside a handler (R396). One of the path's token in the last code word faults when the path arrives, not when it
would leave the wait (log 14). -/
def execJoin (d : Byte) (i : BitVec 16) (s : State) : Host.Outcome State Fault Refusal :=
  issue (.join d i) { mode := fun _ => d.toNat < 16 }
    (fun w s =>
      let x := s.me
      if x.ctl.inh then illegal (.join d i) s
      else if x.path.token != some d.toNat then .done s
      else if codeWords (s.launchOf s.curTeam) ≤ x.path.pc + 1 then .fault 0x04 (w32 (x.path.pc + 1)) 0
      else
        .stop (arriveJoin (countIssue x (passesOf {} w) true s s.curTeam) s.curTeam d.toNat i.toNat)) s

/-- One access: the lane it belongs to and its address, computed exactly (R221). -/
structure Access where
  lane : Nat
  addr : Nat
  deriving DecidableEq, Repr

/-! ## Bank waves -/

/-- The words of a list, each once. -/
def distinctWords : List Nat → List Nat
  | [] => []
  | a :: r => if r.contains a then distinctWords r else a :: distinctWords r

/-- W, the waves of a pass that asks for the words `ws`: the greatest count over the 384 banks of the distinct rows asked of
one (R223). -/
def bankWaves (ws : List Nat) : Nat :=
  let ds := distinctWords ws
  ds.foldl (fun m a => max m (distinctWords ((ds.filter fun b => b % 384 == a % 384).map (· / 384))).length) 0

/-- The words that the pass of group `g` asks for, `n` of them in each access (R141, R223). -/
def passWords (n g : Nat) (l : List Access) : List Nat :=
  (l.filter fun a => a.lane / 32 == g).flatMap fun a => (List.range n).map fun i => a.addr / 4 + i

/-- The waves beyond the first of each pass of an instruction (R223, R436). -/
def extraWaves (n : Nat) (l : List Access) : Nat :=
  ((List.range 32).map fun g => bankWaves (passWords n g l) - 1).foldl (· + ·) 0

/-- The waves of a shared-memory instruction of the issuing party counted for its core (R436). -/
def countWaves (s : State) (scratch : Bool) (n : Nat) (l : List Access) : State :=
  if scratch then s
  else
    let h := s.harness s.curHarness
    s.putHarness s.curHarness { h with waves := h.waves + BitVec.ofNat 64 (extraWaves n l) }

/-! ## JTAB, CALL, EXIT -/

/-- The lanes of JTAB that look an entry up (R164). -/
def jtabLanes (w : View) (d b : Byte) : List Nat := (runLanes w).filter fun k => (rd w d k).toNat < (rd w b 0).toNat

/-- The groups of JTAB: each target with the mask of its lanes, in ascending order of their lowest lane. -/
def jtabGroups (target : Nat → Nat) : List Nat → List (Nat × BitVec 1024)
  | [] => []
  | k :: r =>
    let rest := jtabGroups target r
    let bit := BitVec.twoPow 1024 k
    match rest.lookup (target k) with
    | some m => (target k, m ||| bit) :: rest.filter fun g => g.1 != target k
    | none => (target k, bit) :: rest

/-- JTAB (R164); illegal inside a handler (R396); of several targets outside the code, that of the lowest lane is shown (log 132). -/
def execJtab (d a b : Byte) (s : State) : Host.Outcome State Fault Refusal :=
  issue (.jtab d a b) { legal := fun _ => isV d && isS a && isS b, regs := [d, a, b], passes := some 1 }
    (fun w s =>
      let x := s.me
      let ks := jtabLanes w d b
      let addr := fun k => (rd w a 0).toNat + 4 * (rd w d k).toNat
      let entry := fun k => memWord (s.harnessOf s.curTeam).shared (addr k)
      let bad := fun k => addr k % 4 != 0 || Config.sharedBytes ≤ addr k || (entry k).extractLsb' 22 10 != 0
      let target := fun k => (entry k).toNat % 2 ^ 22
      if x.ctl.inh then illegal (.jtab d a b) s
      else
        match ks.find? bad with
        | some k => .fault 0x0A (w32 (addr k)) 0
        | none =>
          match ks.find? fun k => codeWords (s.launchOf s.curTeam) ≤ target k with
          | some k => .fault 0x04 (w32 (target k)) 0
          | none =>
            let gs := jtabGroups target ks
            let taken := gs.foldl (fun m g => m ||| g.2) 0
            let fl := w.mask &&& ~~~taken
            let new := if fl = 0 then gs.drop 1 else gs
            let free := x.freePaths
            if free.length < new.length then .fault 0x08 0 0
            else
              let y := (free.zip new).foldl (fun y g =>
                y.putPathAt g.1 (some { pc := g.2.1, mask := g.2.2, token := x.path.token })) x
              let s := countWaves s false 1 (ks.map fun k => ⟨k, addr k⟩)
              match fl == 0, gs with
              | true, g :: _ => .goto (s.putMe (y.putPath { x.path with mask := g.2 })) g.1
              | _, _ => .done (s.putMe (y.putPath { x.path with mask := fl }))) s

/-- Writes the return address to s30 (R166). -/
def setLink (s : State) (v : Word) : State :=
  match s.cur with
  | .team t => s.putTeam t { s.team t with regs := putS (s.team t).regs 30 v }
  | .shuttle h n => s.putShuttle h n { s.shuttle h n with regs := putS (s.shuttle h n).regs 30 v }
  | .none => s

def execCall (i : BitVec 24) (s : State) : Host.Outcome State Fault Refusal :=
  issue (.call i) { shuttle := true }
    (fun _ s => .goto (setLink s (BitVec.ofInt 32 (pcOf s + 1))) (pcOf s + 1 + i.toInt)) s

/-- RET (R166); a bit above [21:0] lies beyond every code. -/
def execRet (a : Byte) (s : State) : Host.Outcome State Fault Refusal :=
  issue (.ret a) { shuttle := true, legal := fun _ => isS a, regs := [a] }
    (fun w s =>
      let v := rd w a 0
      if 2 ^ 22 ≤ v.toNat then .fault 0x04 v 0 else .goto s v.toNat) s

/-- EXIT (R167); illegal inside a handler (R396). -/
def execExit (s : State) : Host.Outcome State Fault Refusal :=
  issue .exit {}
    (fun w s =>
      let x := s.me
      let left := w.mask &&& ~~~w.run
      if x.ctl.inh then illegal .exit s
      else if left != 0 then .done (s.putMe (x.putPath { x.path with mask := left }))
      else
        let s := countIssue x 1 true s s.curTeam
        let y := (s.me).putPathAt x.flow.path none
        let y := match x.path.token with
          | some tok => joinTest y tok
          | none => y
        .stop (settlePath (s.putMe y) s.curTeam)) s

/-- PATHQ (R168). -/
def execPathq (d a b : Byte) (s : State) : Host.Outcome State Fault Refusal :=
  issue (.pathq d a b)
    { legal := fun _ => isSZ d
      mode := fun _ => a.toNat ≤ 2 && b.toNat ≤ 15 && (b == 0 || a == 1)
      regs := [d] }
    (fun _ s =>
      let x := s.me
      let tok := if a = 1 then some b.toNat else if a = 2 then none else x.path.token
      let y := x.putPath { x.path with token := tok }
      let y := match x.path.token with
        | some old => if tok != some old then joinTest y old else y
        | none => y
      let r := w32 ((if tok.isNone then 2 ^ 20 else 0) + tok.getD 0 * 2 ^ 16 + y.live * 2 ^ 8 + y.flow.path)
      .done (s.putMe { y with regs := wrS y.regs d r })) s

/-! ## Macros -/

/-- One field of a macro word after substitution (R114). -/
def substField (tag : Nat) (old a b : Byte) : Byte :=
  match tag with
  | 0 => old
  | 1 => a
  | 2 => b
  | _ => a + 1

/-- A macro word after substitution (R114). -/
def substWord (e : BitVec 38) (a b : Byte) : Word :=
  let t := (e.extractLsb' 32 6).toNat
  e.extractLsb' 24 8 ++ substField (t / 16) (e.extractLsb' 16 8) a b ++ substField (t / 4 % 4) (e.extractLsb' 8 8) a b ++
    substField (t % 4) (e.extractLsb' 0 8) a b

/-- The entries MCALL copies: from `ix` on, up to and including the first MRET (R115). -/
def macroCopy (h : Harness) (ix : Nat) : Nat → List (BitVec 38)
  | 0 => []
  | n + 1 =>
    let e := macroEntry h ix
    e :: if (e.extractLsb' 24 8).toNat = 0xF2 then [] else macroCopy h (ix + 1) n

/-- Whether a buffered entry passes the check of R115 under MCALL's A byte; a BREAK or CONT does not, whatever R126 says of words
that software builds (log 97). -/
def macroOk (a : Byte) (e : BitVec 38) : Bool :=
  let op := (e.extractLsb' 24 8).toNat
  let t := (e.extractLsb' 32 6).toNat
  let plus := t / 16 == 3 || t / 4 % 4 == 3 || t % 4 == 3
  !((1 ≤ op && op ≤ 0x0F) || (0x12 ≤ op && op ≤ 0x16) || op == 0xFF) &&
    !(op == 0xF2 && (e.extractLsb' 0 24) != 0) &&
    (!plus || a.toNat ≤ 190 || (0xC0 ≤ a.toNat && a.toNat ≤ 0xDE))

/-- MCALL (R115, R121): the copy and its check; the words then issue one by one, from word `resume` on. -/
def execMcall (d a b : Byte) (s : State) : Host.Outcome State Fault Refusal :=
  issue (.mcall d a b) { mode := fun _ => d.toNat < 64 }
    (fun _ s =>
      let x := s.me
      let es := macroCopy (s.harnessOf s.curTeam) (32 * d.toNat) 32
      let ws := es.map fun e => substWord e a b
      let j := x.path.resume
      if !es.all (macroOk a) || ws.length ≤ j && j != 0 then illegal (.mcall d a b) s
      else if macroEnds ws j then .done s
      else .stop (s.putMe (x.putPath { x.path with mac := some (ws, j), resume := 0 }))) s

/-- MRET outside a macro buffer is illegal (R119); inside one it has no effect. -/
def execMret (s : State) : Host.Outcome State Fault Refusal :=
  issue .mret {} (fun _ s => if s.me.path.mac.isSome then .done s else illegal .mret s) s

/-- The address of a control-store entry (R117). -/
def entryIx (v : Word) : Nat := v.toNat / 32 % 64 * 32 + v.toNat % 32

/-- CSWR (R117). -/
def execCswr (d a b : Byte) (s : State) : Host.Outcome State Fault Refusal :=
  issue (.cswr d a b) { legal := fun _ => isS d && isS a && isS b, regs := [d, a, b] }
    (fun w s =>
      let at' := rd w d 0
      let tag := rd w b 0
      if at'.extractLsb' 11 21 != 0 || tag.extractLsb' 6 26 != 0 then illegal (.cswr d a b) s
      else
        let h := s.harness s.curHarness
        .done (s.putHarness s.curHarness
          { h with macros := sset (0xF2000000 : BitVec 38) h.macros (entryIx at') (tag.setWidth 6 ++ rd w a 0) })) s

/-- CSRD (R118). -/
def execCsrd (d a : Byte) (s : State) : Host.Outcome State Fault Refusal :=
  issue (.csrd d a) { legal := fun _ => isS d && evenReg d && isS a, regs := [d, a] }
    (fun w s =>
      let at' := rd w a 0
      if at'.extractLsb' 11 21 != 0 then illegal (.csrd d a) s
      else
        let e := macroEntry (s.harness s.curHarness) (entryIx at')
        .done (s.putRegs (wrSs w.regs d [e.setWidth 32, (e.extractLsb' 32 6).setWidth 32]))) s

/-- UDF, and every word that is no instruction: the illegal-instruction fault (R98, R100). -/
def execUdf (s : State) : Host.Outcome State Fault Refusal :=
  issue .udf { shuttle := true, legal := fun _ => false } (fun _ s => .done s) s

end Sys2Proof.Machine
end

