-- ==== Sys2Proof/Machine/MemoryOps.lean ====
section
/-! DEFINITION. Shared memory and die scratch: addresses and checks (R221 to R227), loads, stores, the spill stack,
atomics, ordered adds, fences and WAITV (R228 to R240), watchpoints (R435), and the events that end an access. -/

namespace Sys2Proof.Machine

/-- The accesses of an instruction: one when it is scalar, else one for each running lane (R226). -/
def accesses (w : View) (d x y : Byte) : List Access :=
  let ad := fun k => (rd w x k).toNat + (rd w y k).toNat
  if allUniform [d, x, y] then [⟨0, ad 0⟩] else (runLanes w).map fun k => ⟨k, ad k⟩

/-- Whether an offset of die scratch lies in a function's share (R221, R439). -/
def inShare (s : State) (f off : Nat) : Bool :=
  let fn := s.func f
  65536 * fn.sbase.toNat ≤ off && off < 65536 * (fn.sbase.toNat + fn.slen.toNat)

/-- Whether an address of the space exists for a function (R221). -/
def inRange (s : State) (f : Nat) (scratch : Bool) (a : Nat) : Bool :=
  if scratch then a < 2 ^ 29 && inShare s f (a % 2 ^ 27) else a < Config.sharedBytes

/-- The place of an address of the issuing party's core (R221, R222). -/
def nearLoc (h : Nat) (scratch : Bool) (a : Nat) : Loc := if scratch then .scratch (a / 2 ^ 27) (a % 2 ^ 27) else .shared h a

/-- What a range-lock check finds (R251, R252). -/
inductive LockHit where
  | free | conflict | own
  deriving DecidableEq, Repr

/-- The entries that the bytes `a` to `a + n - 1` meet: a store meets the sources of others too; a Shuttle waits for its own of
either kind. -/
def lockHit (locks : List Lock) (p : Party) (store : Bool) (a n : Nat) : LockHit :=
  let mine := fun (l : Lock) => match p with
    | .shuttle _ k => l.shuttle == some k
    | _ => false
  let hits := locks.filter fun l => a < l.hi && l.lo < a + n && (l.dest || store || mine l)
  if hits.any fun l => !mine l then .conflict else if hits = [] then .free else .own

/-- What an access does to memory: reads it, writes it. -/
inductive MemKind where
  | load | store
  deriving DecidableEq, Repr

/-- The first access that fails a check. -/
def firstBad (l : List Access) (p : Access → Bool) : Option Access := l.find? p

/-- Whether a place within one die's scratch meets the bytes `a` to `a + n - 1`. -/
def Loc.meets (l : Loc) (len die a n : Nat) : Bool :=
  match l with
  | .scratch d b => d == die && a < b + len && b < a + n
  | _ => false

/-- Whether an access of a Shuttle waits for an earlier transfer of its own: in die scratch, where there are no locks, one
that still reads or writes the place, so that its accesses to one word keep program order (R364, R366); and for a store any
that has still to read, whose value is fixed before a later write is seen (R366). -/
def meetsOwn (s : State) (scratch st : Bool) (a n : Nat) : Bool :=
  match s.cur with
  | .shuttle h k =>
    (s.transfers.any fun x =>
      x.h == h && x.shuttle == k && x.copy.isNone &&
        ((st && x.data.isNone) || (scratch && x.segs.any fun g => g.dst.meets g.len (a / 2 ^ 27) (a % 2 ^ 27) n ||
          (x.data.isNone && g.src.meets g.len (a / 2 ^ 27) (a % 2 ^ 27) n)))) ||
      (st && s.graded.any fun g => g.party == .shuttle h k && g.kind.isSome)
  | _ => false

/-- The current path of the issuing party, how many instructions its team has issued, and its lanes; a Shuttle is one. -/
def State.curPath (s : State) : Nat := (s.team s.curTeam).flow.path
def State.curIssued (s : State) : BitVec 64 := (s.team s.curTeam).perf.issued
def State.curMask (s : State) : BitVec 1024 :=
  match s.cur with
  | .team t => (s.team t).path.mask
  | _ => 1

/-- Whether what is late comes before an access of the issuing party, of its current path with the lanes `mask`: of the same path, or
of one of these lanes while it belonged to another (R230, R361, R366). A sibling path's accesses are those of other parties. -/
def comesBefore (s : State) (mask : BitVec 1024) (x : Late) : Bool :=
  x.party == s.cur && ((x.lanes &&& mask) != 0 || match x.party with | .team t => x.path == (s.team t).flow.path | _ => true)

/-- Whether a read of die scratch that comes before has still to act, whose value is fixed before a later write is seen (R230, R366). -/
def readsLate (s : State) (mask : BitVec 1024) : Bool := (lastLate s (comesBefore s mask) fun a => a.dst.isSome).isSome

/-- The checks of R227 on accesses of `n` bytes, in their order; none when they pass. A Shuttle's access that meets its
own lock waits in STATE 2 (R252, R256); one that only meets its own transfers, or a write of shared memory before which a read has to
be fixed, waits as it stands (R366, log 102). -/
def checkAccess (s : State) (scratch : Bool) (kind : MemKind) (n : Nat) (l : List Access) : Option Eff :=
  let h := s.harness s.curHarness
  let st := kind == .store
  match firstBad l fun x => x.addr % n != 0 with
  | some x => some (.fault 0x03 (w32 x.addr) 0)
  | none =>
    match firstBad l fun x => !inRange s s.curFn scratch x.addr with
    | some x => some (.fault 0x04 (w32 x.addr) 0)
    | none =>
      let early := l.any fun x => meetsOwn s scratch st x.addr n || (st && !scratch && readsLate s s.curMask)
      if scratch then (if early then some (.wait s .retry) else none)
      else
        match firstBad l fun x => lockHit h.locks s.cur st x.addr n == .conflict with
        | some x => some (.fault 0x05 (w32 x.addr) 0)
        | none =>
          match firstBad l fun x => st && h.isLive (x.addr / 16 * 16) with
          | some x => some (.fault 0x06 (w32 x.addr) 0)
          | none =>
            if l.any fun x => lockHit h.locks s.cur st x.addr n == .own then some (.wait (waiting s) .retry)
            else if early then some (.wait s .retry) else none

/-- The word at an address of the issuing party's core. -/
def nearWord (s : State) (scratch : Bool) (a : Nat) : Word :=
  BitVec.ofNat 32 (leNat (s.locBytes (nearLoc s.curHarness scratch a) 4))

def putNear (s : State) (scratch : Bool) (a : Nat) (v : Word) : State :=
  s.locStore (nearLoc s.curHarness scratch a) (leBytes 4 v.toNat)

/-! ## Watchpoints -/

/-- Whether a write of a word meets a watchpoint's condition (R435). -/
def watchHit (scratch : Bool) (a : Nat) (old new : Word) (x : Watch) : Bool :=
  x.addr == a && x.scratch == scratch &&
    if x.change then ((new ^^^ old) &&& x.mask) != 0 else (new &&& x.mask) == (x.value &&& x.mask)

/-- The hits of a path after a write that meets watchpoint `i`: one for each instruction, of its lowest watchpoint (R435). -/
def noteHit (issued : BitVec 64) (i a : Nat) (l : List WatchHit) : List WatchHit :=
  match l.getLast? with
  | some k =>
    if k.issued != issued then l ++ [⟨issued, i, a⟩] else if i < k.index then l.dropLast ++ [⟨issued, i, a⟩] else l
  | none => [⟨issued, i, a⟩]

/-- A word written by the instruction of a path that its team issued after `issued` others; a watchpoint that holds arms a trap
of that path, the lowest one giving the address (R435). -/
def writeFor (path : Nat) (issued : BitVec 64) (s : State) (scratch : Bool) (a : Nat) (v : Word) : State :=
  let old := nearWord s scratch a
  let ws := (s.harness s.curHarness).watch
  let hit := (List.range 4).find? fun i => match ws.getD i none with
    | some x => watchHit scratch a old v x
    | none => false
  let s' := putNear s scratch a v
  match s.cur, hit with
  | .team t, some i =>
    let x := s'.team t
    match x.flow.paths.getD path none with
    | some p => s'.putTeam t (x.putPathAt path (some { p with watch := noteHit issued i a p.watch }))
    | none => s'
  | _, _ => s'

/-! ## Passes -/

def atomNew (op : AtomOp) (sgn : Bool) (old d d1 : Word) : Word :=
  match op with
  | .add => old + d
  | .min => if (if sgn then d.slt old else d.ult old) then d else old
  | .max => if (if sgn then old.slt d else old.ult d) then d else old
  | .and => old &&& d
  | .or => old ||| d
  | .xchg => d
  | .cas => if old = d then d1 else old

/-- The register file of the issuing party. -/
def State.curRegs (s : State) : RegFile :=
  match s.cur with
  | .team t => (s.team t).regs
  | .shuttle h n => (s.shuttle h n).regs
  | .none => {}

/-- One lane's result in a register. -/
def putLane (r : RegFile) (d : Byte) (k : Nat) (v : Word) : RegFile :=
  match opd d with
  | .v n => putV r n [k] fun _ => v
  | .s n => putS r n v
  | _ => r

/-- One access of the issuing party: its word written, but by a CAS that finds another word than its operand, and the word it found
put into its register (R228, R232). -/
def runAct (path : Nat) (issued : BitVec 64) (scratch : Bool) (s : State) (a : Act) : State :=
  let old := nearWord s scratch a.addr
  let s := match a.op with
    | some op =>
      if op = .cas ∧ old ≠ a.d then s else writeFor path issued s scratch a.addr (atomNew op a.sgn old a.d a.d1)
    | none => s
  match a.dst with
  | some r => s.putRegs (putLane s.curRegs r a.lane old)
  | none => s

/-- Accesses one after the other. -/
def runActs (path : Nat) (issued : BitVec 64) (scratch : Bool) (s : State) (l : List Act) : State :=
  l.foldl (runAct path issued scratch) s

/-- The passes of an instruction: the accesses of each group in turn (R141). -/
def byGroup (l : List Act) : List (List Act) :=
  (List.range 32).filterMap fun g =>
    let p := l.filter fun a => a.lane / 32 == g
    if p = [] then none else some p

/-- The place of a pass that a team's port takes in cycle `c` (R224, R391). -/
def passKey (s : State) (t c : Nat) : Nat := c * 20000 + 5120 + (s.team t).info.core * 20 + (s.team t).info.part * 2

/-- A pass or wave entered in the order of those still to act. -/
def lateIn (x : Late) : List Late → List Late
  | [] => [x]
  | y :: r => if x.key < y.key then x :: y :: r else y :: lateIn x r

/-- The place of what a party does in cycle `c` (R74, R391). -/
def actKey (s : State) (p : Party) (c : Nat) : Nat :=
  match p with
  | .team t => passKey s t c
  | .shuttle h n => c * 20000 + 5120 + (s.harness h).core * 20 + 16 + n
  | .none => c * 20000

/-- What the issuing party asks that is done `n` cycles from now, at the place of the party's passes in that cycle (log 109), under the
next operation's number. -/
def askIn (s : State) (n : Nat) (k : Ask) : State :=
  let x : Late :=
    { key := actKey s s.cur (s.time + n), id := s.nextId, party := s.cur, path := s.curPath, cycle := s.time, issued := s.curIssued
      ask := some k }
  { s with late := lateIn x s.late }

/-- The cycles from the last pass of a store of die scratch to its performance: on the issuing core's die, and on another (R392). -/
def storeCycles (own : Bool) : Nat := if own then 60 else 140

/-- The accesses `acts` of the operation that starts next, of the lanes `lanes` of the issuing party, set to act in die scratch at
place `key`. -/
def actLater (s : State) (lanes : BitVec 1024) (key : Nat) (acts : List Act) : State :=
  if acts = [] then s
  else
    let x : Late :=
      { key := key, id := s.nextId, party := s.cur, path := s.curPath, lanes := lanes, cycle := s.time, issued := s.curIssued
        acts := acts, scratch := true }
    { s with late := lateIn x s.late }

/-- The passes of a store of die scratch: it is performed, in one moment for each die, when R392 says, and no earlier than what comes
before it to the same words and the reads that have still to be fixed before it (R230, R364, R366). -/
def storeScratch (s : State) (lanes : BitVec 1024) (ps : List (List Act)) : State :=
  let acts := ps.flatten
  let past := (lastLate s (comesBefore s s.curMask) fun a => a.dst.isSome || acts.any (·.addr == a.addr)).getD 0
  let near (a : Act) : Bool := a.addr / 2 ^ 27 == dieOf (s.harness s.curHarness).core
  let key (own : Bool) : Nat := max past (actKey s s.cur (s.time + (ps.length - 1) + storeCycles own))
  actLater (actLater s lanes (key true) (acts.filter near)) lanes (key false) (acts.filter fun a => !near a)

/-- The die of a party's core. -/
def partyDie (s : State) (p : Party) : Nat :=
  match p with
  | .team t => dieOf (s.team t).info.core
  | .shuttle h _ => dieOf (s.harness h).core
  | .none => 4

/-- Whether what is late has been issued in this cycle on a core of the issuing party's die (R391). -/
def sameCycle (s : State) (x : Late) : Bool := x.cycle == s.time && partyDie s x.party == partyDie s s.cur

/-- Whether an access is an atomic's: it writes the word and returns the old one. -/
def Act.isAtomic (a : Act) : Bool := a.op.isSome && a.dst.isSome

/-- The place behind which an access of die scratch that returns a word acts, if it does not act at once: what comes before it to the
same words; for an atomic, the reads before it too, and an atomic on the same word that has been issued in this cycle on a core of
the die, which the order of cores has put before it (R230, R364, R366, R391; log 7). -/
def loadBehind (s : State) (acts : List Act) : Option Nat :=
  let writes := acts.any (·.op.isSome)
  let meets (a : Act) : Bool := acts.any (·.addr == a.addr)
  let before := lastLate s (comesBefore s s.curMask) fun a => meets a || (writes && a.dst.isSome)
  let beside := if writes then lastLate s (sameCycle s) fun a => a.isAtomic && meets a else none
  (before.toList ++ beside.toList).max?

/-- The passes of a load or atomic of die scratch: they act at once, or behind others. -/
def loadScratch (s : State) (lanes : BitVec 1024) (ps : List (List Act)) : State :=
  match loadBehind s ps.flatten with
  | some k => actLater s lanes k ps.flatten
  | none => ps.foldl (runActs s.curPath s.curIssued true) s

/-- The passes of the access that starts next, of the lanes `lanes`: in shared memory the first acts in its own cycle and each other
one cycle after the one before (R141, R229). -/
def runPasses (s : State) (scratch : Bool) (lanes : BitVec 1024) (ps : List (List Act)) : State :=
  let path := s.curPath
  let issued := s.curIssued
  if scratch then (if ps.flatten.all (·.dst.isNone) then storeScratch s lanes ps else loadScratch s lanes ps)
  else
    match ps with
    | [] => s
    | p :: r =>
      let t := s.curTeam
      let late := (List.range r.length).map fun j =>
        ({ key := passKey s t (s.time + 1 + j), id := s.nextId, party := s.cur, path := path, lanes := lanes, cycle := s.time
           issued := issued, acts := r.getD j [] } : Late)
      let s := runActs path issued scratch s p
      { s with late := late.foldl (fun l x => lateIn x l) s.late }

/-! ## Operations in flight -/

/-- Registers marked until operation `id` ends (R90). -/
def marksFor (pc id : Nat) (regs : List Byte) : List Mark := (regs.filter fun r => isV r || isS r).map fun r => ⟨r, pc, id⟩

/-- The PC of the instruction of the issuing party. -/
def issuePc (s : State) : Nat := (pcOf s).toNat

/-- An operation still has accesses to act. -/
def State.hasLate (s : State) (id : Nat) : Bool := s.late.any (·.id == id)

/-- The event that ends an operation, once all its accesses have acted, and those that come before it (R228, R308, R329). -/
def State.postEnd (s : State) (o : PendOp) : State :=
  if s.hasLate o.id || fenced s o.after then s
  else s.post (match o.kind with | .load => .loadReturn | .store => .storePerformed | _ => .wmOperationComplete) { id := o.id }

/-- Adds operation `o`, which takes the next number, to those in flight of the issuing party: its counter, its marks, and the event
that ends it (R89, R90). -/
def startPend (s : State) (o : PendOp) (regs : List Byte) : State :=
  let s : State := { s.fresh with ops := s.ops ++ [o] }
  let s := s.postEnd o
  match s.cur with
  | .team t =>
    let x := s.team t
    s.putTeam t { x with
      deps := { x.deps with
        l := x.deps.l + (if o.kind = .load then 1 else 0)
        s := x.deps.s + (if o.kind = .store then 1 else 0)
        marks := x.deps.marks ++ marksFor x.path.pc o.id regs } }
  | .shuttle h n =>
    let x := s.shuttle h n
    s.putShuttle h n { x with accesses := x.accesses + 1, marks := x.marks ++ marksFor x.pc o.id regs }
  | .none => s

/-- The same for an operation of a kind; `space` and `lanes` are those of an access that FENCE orders. -/
def startOpIn (s : State) (kind : OpKind) (regs : List Byte) (space : Option Bool) (lanes : BitVec 1024) : State :=
  startPend s { id := s.nextId, party := s.cur, kind := kind, pc := issuePc s, space := space, lanes := lanes } regs

/-- The same for an operation that is no access of FENCE's. -/
def startOp (s : State) (kind : OpKind) (regs : List Byte) : State := startOpIn s kind regs none 0

/-- The lanes to which the accesses of an instruction belong: the running ones, or for a scalar access those of the path
(R169). -/
def accessLanes (w : View) (d x y : Byte) : BitVec 1024 := if allUniform [d, x, y] then w.mask else w.run

/-- While a watchpoint of its space is armed, operation `id` holds its team's fetch until it has ended (R393, R435). -/
def holdFor (s : State) (scratch : Bool) (id : Nat) : State :=
  match s.cur with
  | .team t =>
    if (s.harnessOf t).watch.any fun w => w.any (·.scratch == scratch) then s.putTeam t { s.team t with fetch := [id] } else s
  | _ => s

/-- A die-scratch write holds its team's fetch until it is performed, while a die-scratch watchpoint is armed (R393, R435). -/
def holdFetch (s : State) (scratch : Bool) (id : Nat) : State := if scratch then holdFor s true id else s

/-- An access started: a load, or a write, whose operation is the next one numbered. -/
def startLoad (s : State) (scratch : Bool) (regs : List Byte) (lanes : BitVec 1024) : State :=
  startOpIn s .load regs (some scratch) lanes
def startStore (s : State) (scratch : Bool) (lanes : BitVec 1024) : State :=
  holdFetch (startOpIn s .store [] (some scratch) lanes) scratch s.nextId
def startAtom (s : State) (scratch : Bool) (regs : List Byte) (lanes : BitVec 1024) : State :=
  holdFetch (startLoad s scratch regs lanes) scratch s.nextId

/-- The end of an operation in flight (R89, R90). -/
def endOp (s : State) (o : PendOp) : State :=
  let s : State := { s with ops := s.ops.filter fun q => q.id != o.id }
  match o.party with
  | .team t =>
    let x := s.team t
    s.putTeam t { x with
      deps := { x.deps with
        l := x.deps.l - (if o.kind = .load then 1 else 0)
        s := x.deps.s - (if o.kind = .store then 1 else 0)
        m := x.deps.m - (if o.kind = .wm then 1 else 0)
        marks := x.deps.marks.filter fun k => k.id != o.id } }
  | .shuttle h n =>
    let x := s.shuttle h n
    s.putShuttle h n { x with accesses := x.accesses - 1, marks := x.marks.filter fun k => k.id != o.id }
  | .none => s

/-- LOAD_RETURN: L falls and the marks are cleared (R89, R228). -/
def execLoadReturn (s : State) : Host.Outcome State Fault Refusal :=
  .next <|
    match s.ops.find? fun o => o.id == s.ev.id && o.kind == .load && !s.hasLate o.id with
    | some o => endOp s o
    | none => s

/-! ## Loads and stores -/

/-- A register that heads a group of `n` (R4, R225). -/
def groupReg (n : Nat) (d : Byte) : Bool := !(isV d || isS d) || d.toNat % n == 0

/-- What R98 needs of an access with destination or data `d`. -/
def rulesMem (sh load : Bool) (n : Nat) (d x y : Byte) : Rules where
  shuttle := sh
  legal := fun w =>
    isD w.shuttle d && isX w.shuttle x && isX w.shuttle y && (!load || scalarOk d [x, y]) && groupReg n d
  regs := [d, x, y]

/-- Register `d + i`; zero stays zero. -/
def regAt (d : Byte) (i : Nat) : Byte := if isZero d then d else d + BitVec.ofNat 8 i

/-- What a load of `n` words into `d` and the registers after it does, lane by lane (R228). -/
def loadActs (n : Nat) (d : Byte) (l : List Access) : List Act :=
  l.flatMap fun a => (List.range n).map fun i => { lane := a.lane, addr := a.addr + 4 * i, dst := some (regAt d i) }

/-- What a store of `n` words does; lanes are applied in ascending order (R228). -/
def storeActs (w : View) (n : Nat) (d : Byte) (l : List Access) : List Act :=
  l.flatMap fun a => (List.range n).map fun i =>
    { lane := a.lane, addr := a.addr + 4 * i, op := some .xchg, d := rd w (regAt d i) a.lane }

/-- A load (R228). -/
def loadBody (scratch : Bool) (n : Nat) (d x y : Byte) (w : View) (s : State) : Eff :=
  let l := accesses w d x y
  match checkAccess s scratch .load (4 * n) l with
  | some e => e
  | none =>
    .done (startLoad (countWaves (runPasses s scratch (accessLanes w d x y) (byGroup (loadActs n d l))) scratch n l) scratch
      ((List.range n).map (regAt d)) (accessLanes w d x y))

/-- A store (R228). -/
def storeBody (scratch : Bool) (n : Nat) (d x y : Byte) (w : View) (s : State) : Eff :=
  let l := accesses w d x y
  match checkAccess s scratch .store (4 * n) l with
  | some e => e
  | none =>
    .done (startStore (countWaves (runPasses s scratch (accessLanes w d x y) (byGroup (storeActs w n d l))) scratch n l) scratch (accessLanes w d x y))

def execLds (d a b : Byte) (s : State) : Host.Outcome State Fault Refusal :=
  issue (.lds d a b) (rulesMem true true 1 d a b) (loadBody false 1 d a b) s
def execLds2 (d a b : Byte) (s : State) : Host.Outcome State Fault Refusal :=
  issue (.lds2 d a b) (rulesMem false true 2 d a b) (loadBody false 2 d a b) s
def execLds4 (d a b : Byte) (s : State) : Host.Outcome State Fault Refusal :=
  issue (.lds4 d a b) (rulesMem false true 4 d a b) (loadBody false 4 d a b) s
def execSts (d a b : Byte) (s : State) : Host.Outcome State Fault Refusal :=
  issue (.sts d a b) (rulesMem true false 1 d a b) (storeBody false 1 d a b) s
def execSts2 (d a b : Byte) (s : State) : Host.Outcome State Fault Refusal :=
  issue (.sts2 d a b) (rulesMem false false 2 d a b) (storeBody false 2 d a b) s
def execSts4 (d a b : Byte) (s : State) : Host.Outcome State Fault Refusal :=
  issue (.sts4 d a b) (rulesMem false false 4 d a b) (storeBody false 4 d a b) s
def execLdx (d a b : Byte) (s : State) : Host.Outcome State Fault Refusal :=
  issue (.ldx d a b) (rulesMem true true 1 d a b) (loadBody true 1 d a b) s
def execLdx2 (d a b : Byte) (s : State) : Host.Outcome State Fault Refusal :=
  issue (.ldx2 d a b) (rulesMem false true 2 d a b) (loadBody true 2 d a b) s
def execLdx4 (d a b : Byte) (s : State) : Host.Outcome State Fault Refusal :=
  issue (.ldx4 d a b) (rulesMem false true 4 d a b) (loadBody true 4 d a b) s
def execStx (d a b : Byte) (s : State) : Host.Outcome State Fault Refusal :=
  issue (.stx d a b) (rulesMem true false 1 d a b) (storeBody true 1 d a b) s
def execStx2 (d a b : Byte) (s : State) : Host.Outcome State Fault Refusal :=
  issue (.stx2 d a b) (rulesMem false false 2 d a b) (storeBody true 2 d a b) s
def execStx4 (d a b : Byte) (s : State) : Host.Outcome State Fault Refusal :=
  issue (.stx4 d a b) (rulesMem false false 4 d a b) (storeBody true 4 d a b) s

/-! ## The spill stack -/

/-- Bytes of one frame (R92). -/
def frameBytes (x : Team) : Nat := 4 * 32 * x.info.grp

/-- The accesses of `n` frames from `base` (R231), in the order in which they are checked: frame by frame, the lanes of each in
ascending order (R227; log 116). -/
def frameAccesses (x : Team) (base n : Nat) : List Access :=
  (List.range n).flatMap fun i => (List.range (32 * x.info.grp)).map fun k => ⟨k, base + i * frameBytes x + 4 * k⟩

/-- The passes of SPILL and FILL: frame by frame, each group in turn (R231). -/
def framePasses (grp n : Nat) (act : Nat → Nat → Act) : List (List Act) :=
  (List.range n).flatMap fun i => (List.range grp).map fun g => (List.range 32).map fun j => act i (32 * g + j)

/-- What R98 needs of SPILL and FILL of a team of `grp` groups, which issue in GRP·n passes (R231). -/
def rulesSpill (grp : Nat) (v b : Byte) : Rules where
  passes := some (grp * b.toNat)
  legal := fun _ => isV v
  mode := fun _ => 1 ≤ b.toNat && b.toNat ≤ 8
  regs := [v]
  span := b.toNat

/-- SPILL (R92, R231). -/
def execSpill (a b : Byte) (s : State) : Host.Outcome State Fault Refusal :=
  issue (.spill a b) (rulesSpill s.me.info.grp a b)
    (fun w s =>
      let x := s.me
      let f := frameBytes x
      let base := x.ctl.ssp.toNat
      let top := base + b.toNat * f
      if x.ctl.ssplim.toNat < top then .fault 0x04 (w32 base) 0
      else
        match checkAccess s false .store 4 (frameAccesses x base b.toNat) with
        | some e => e
        | none =>
          if readsLate s (lanesMask x.info.grp) then .wait s .retry
          else
            let s := runPasses s false (lanesMask x.info.grp) (framePasses x.info.grp b.toNat fun i k =>
              { lane := k, addr := base + i * f + 4 * k, op := some .xchg, d := rd w (regAt a i) k })
            let x := s.me
            .done (startStore (s.putMe { x with ctl := { x.ctl with ssp := BitVec.ofNat 21 top } }) false (lanesMask x.info.grp))) s

/-- FILL (R92, R231); the TADDR of a frame below the reset SSP is its address modulo 2^32 (log 96). -/
def execFill (d b : Byte) (s : State) : Host.Outcome State Fault Refusal :=
  issue (.fill d b) (rulesSpill s.me.info.grp d b)
    (fun _ s =>
      let x := s.me
      let f := frameBytes x
      let top := x.ctl.ssp.toNat
      if top < b.toNat * f + x.ctl.sspBase.toNat then .fault 0x04 (BitVec.ofInt 32 ((top : Int) - b.toNat * f)) 0
      else
        let base := top - b.toNat * f
        match checkAccess s false .load 4 (frameAccesses x base b.toNat) with
        | some e => e
        | none =>
          let s := runPasses s false (lanesMask x.info.grp) (framePasses x.info.grp b.toNat fun i k =>
            { lane := k, addr := base + i * f + 4 * k, dst := some (regAt d i) })
          let x := s.me
          .done (startLoad (s.putMe { x with ctl := { x.ctl with ssp := BitVec.ofNat 21 base } }) false
            ((List.range b.toNat).map (regAt d)) (lanesMask x.info.grp))) s

/-! ## Atomics -/

/-- What an atomic does, lane by lane; `one`: the operand is 1 (R232, R233). -/
def atomActs (w : View) (op : AtomOp) (one : Bool) (d : Byte) (l : List Access) : List Act :=
  l.map fun a =>
    { lane := a.lane, addr := a.addr, op := some op, sgn := mrEtype w.mr == 0, d := if one then 1 else rd w d a.lane
      d1 := (rd64 w d a.lane).extractLsb' 32 32, dst := some d }

/-- An atomic that returns the old word (R232). -/
def atomBody (scratch : Bool) (op : AtomOp) (one : Bool) (d x y : Byte) (w : View) (s : State) : Eff :=
  let l := accesses w d x y
  match checkAccess s scratch .store 4 l with
  | some e => e
  | none =>
    .done (startAtom (countWaves (runPasses s scratch (accessLanes w d x y) (byGroup (atomActs w op one d l))) scratch 1 l) scratch [d] (accessLanes w d x y))

/-- What R98 needs of an atomic; MIN and MAX read the element type (R226). -/
def rulesAtom (sh minmax pair : Bool) (d x y : Byte) : Rules :=
  { rulesMem sh true (if pair then 2 else 1) d x y with mode := fun w => !minmax || etIn' w }
where
  etIn' (w : View) : Bool := mrEtype w.mr ≤ 1

def execAtomsAdd (d a b : Byte) (s : State) : Host.Outcome State Fault Refusal :=
  issue (.atomsAdd d a b) (rulesAtom false false false d a b) (atomBody false .add false d a b) s
def execAtomsMin (d a b : Byte) (s : State) : Host.Outcome State Fault Refusal :=
  issue (.atomsMin d a b) (rulesAtom false true false d a b) (atomBody false .min false d a b) s
def execAtomsMax (d a b : Byte) (s : State) : Host.Outcome State Fault Refusal :=
  issue (.atomsMax d a b) (rulesAtom false true false d a b) (atomBody false .max false d a b) s
def execAtomsAnd (d a b : Byte) (s : State) : Host.Outcome State Fault Refusal :=
  issue (.atomsAnd d a b) (rulesAtom false false false d a b) (atomBody false .and false d a b) s
def execAtomsOr (d a b : Byte) (s : State) : Host.Outcome State Fault Refusal :=
  issue (.atomsOr d a b) (rulesAtom false false false d a b) (atomBody false .or false d a b) s
def execAtomsXchg (d a b : Byte) (s : State) : Host.Outcome State Fault Refusal :=
  issue (.atomsXchg d a b) (rulesAtom false false false d a b) (atomBody false .xchg false d a b) s
def execAtomsCas (d a b : Byte) (s : State) : Host.Outcome State Fault Refusal :=
  issue (.atomsCas d a b) (rulesAtom false false true d a b) (atomBody false .cas false d a b) s
def execAtomxAdd (d a b : Byte) (s : State) : Host.Outcome State Fault Refusal :=
  issue (.atomxAdd d a b) (rulesAtom true false false d a b) (atomBody true .add false d a b) s
def execAtomxMin (d a b : Byte) (s : State) : Host.Outcome State Fault Refusal :=
  issue (.atomxMin d a b) (rulesAtom true true false d a b) (atomBody true .min false d a b) s
def execAtomxMax (d a b : Byte) (s : State) : Host.Outcome State Fault Refusal :=
  issue (.atomxMax d a b) (rulesAtom true true false d a b) (atomBody true .max false d a b) s
def execAtomxXchg (d a b : Byte) (s : State) : Host.Outcome State Fault Refusal :=
  issue (.atomxXchg d a b) (rulesAtom true false false d a b) (atomBody true .xchg false d a b) s
def execAtomxCas (d a b : Byte) (s : State) : Host.Outcome State Fault Refusal :=
  issue (.atomxCas d a b) (rulesAtom true false true d a b) (atomBody true .cas false d a b) s

/-- TICKET (R233): ATOMX.ADD with an operand of 1. -/
def execTicket (d a b : Byte) (s : State) : Host.Outcome State Fault Refusal :=
  issue (.ticket d a b) (rulesAtom true false false d a b) (atomBody true .add true d a b) s

/-! ## Ordered adds and fences -/

/-- The domain an ordered add enters (R234): the core's, or the launch's. -/
def getDom (s : State) (scratch : Bool) (h l : Nat) : OrdDomain := if scratch then (s.launch l).xdom else (s.harness h).dom
def putDom (s : State) (scratch : Bool) (h l : Nat) (d : OrdDomain) : State :=
  if scratch then s.putLaunch l { s.launch l with xdom := d } else s.putHarness h { s.harness h with dom := d }

/-- FATOMS.ADD and FATOMX.ADD (R234, R235, R238). -/
def ordAddBody (i : Instr) (scratch : Bool) (d x y : Byte) (w : View) (s : State) : Eff :=
  let t := s.me
  let h := t.info.harness
  let l := t.info.launch
  let dom := getDom s scratch h l
  let outside := match dom.mask with
    | some m => !m.getLsbD t.info.role
    | none => false
  let ls := accesses w d x y
  if outside then illegal i s
  else
    match checkAccess s scratch .store 4 ls with
    | some e => e
    | none =>
      let seq := if scratch then t.deps.scratchSeq else t.deps.sharedSeq
      let round := (if scratch then t.deps.scratchRound else t.deps.sharedRound) + 1
      let es := ls.map fun a =>
        { cid := t.info.cid, role := t.info.role, tid := t.info.tid, lane := a.lane, seq := seq, round := round
          die := a.addr / 2 ^ 27, addr := if scratch then a.addr % 2 ^ 27 else a.addr, value := rd w d a.lane : OrdEntry }
      let s := putDom s scratch h l { dom with entries := dom.entries ++ es }
      let t := s.me
      let s := s.putMe { t with
        deps := if scratch then { t.deps with scratchSeq := seq + 1 } else { t.deps with sharedSeq := seq + 1 } }
      .done (startOpIn s .store [] (some scratch) (accessLanes w d x y))

def execFatomsAdd (d a b : Byte) (s : State) : Host.Outcome State Fault Refusal :=
  issue (.fatomsAdd d a b) (rulesMem false false 1 d a b) (ordAddBody (.fatomsAdd d a b) false d a b) s
def execFatomxAdd (d a b : Byte) (s : State) : Host.Outcome State Fault Refusal :=
  issue (.fatomxAdd d a b) (rulesMem false false 1 d a b) (ordAddBody (.fatomxAdd d a b) true d a b) s

/-- The round fence (R235): M is fixed by the first, and the team's round ends. -/
def roundFence (s : State) (scratch : Bool) (m : BitVec 4) : State :=
  let t := s.me
  let h := t.info.harness
  let l := t.info.launch
  let s := putDom s scratch h l { getDom s scratch h l with mask := some m }
  let t := s.me
  let s := s.putMe { t with
    deps := if scratch then { t.deps with scratchRound := t.deps.scratchRound + 1, scratchSeq := 0 }
      else { t.deps with sharedRound := t.deps.sharedRound + 1, sharedSeq := 0 } }
  s.post .roundClose { ctl := scratch, id := h, launch := l }

/-- The operations that a FENCE of kind `k` at scope `sc` finds in flight and orders: loads and atomics, and for a release or
full fence every access, of the lanes of the path (R169); at scope 0 or 1 none of shared memory (R238). A Shuttle's XLD and
XST are among its loads and stores (R366). -/
def fenceIds (s : State) (mask : BitVec 1024) (k sc : Nat) : List Nat :=
  ((s.ops.filter fun o =>
    o.party == s.cur && o.space.isSome && (k != 0 || o.kind == .load) && (2 ≤ sc || o.space == some true) &&
      (match s.cur with | .team _ => (o.lanes &&& mask) != 0 | _ => true)).map (·.id)) ++
  match s.cur with
  | .shuttle h n =>
    (s.transfers.filter fun x =>
      x.h == h && x.shuttle == n && x.copy.isNone && (x.reg.isSome || (k != 0 && x.word.isSome))).map (·.id)
  | _ => []

/-- The next instruction of the party's path waits for operations (R238). -/
def setFence (s : State) (ids : List Nat) : State :=
  match s.cur with
  | .team t => s.putTeam t ((s.team t).putPath { (s.team t).path with fence := ids })
  | .shuttle h n => s.putShuttle h n { s.shuttle h n with fence := ids }
  | .none => s

/-- LDAQ (R239): a load; one that still has to act holds back the next instruction until its value has returned, and for any
other the model's one order of accesses is that of R239 (log 7). -/
def execLdaq (d a b : Byte) (s : State) : Host.Outcome State Fault Refusal :=
  issue (.ldaq d a b) (rulesMem true true 1 d a b)
    (fun w s => match loadBody true 1 d a b w s with
      | .done u => .done (if u.hasLate s.nextId then setFence u [s.nextId] else u)
      | e => e) s

/-- FENCE (R238): the next instruction of the path waits until the accesses that it orders have ended. -/
def execFence (d a b : Byte) (s : State) : Host.Outcome State Fault Refusal :=
  issue (.fence d a b) { shuttle := true }
    (fun w s =>
      let m := b.toNat
      if 4 < d.toNat || 3 < a.toNat then illegal (.fence d a b) s
      else if a != 3 then
        (if m = 0 then .done (setFence s (fenceIds s w.mask a.toNat d.toNat)) else illegal (.fence d a b) s)
      else if w.shuttle then illegal (.fence d a b) s
      else
        let t := s.me
        let scratch := d == 3
        let dom := getDom s scratch t.info.harness t.info.launch
        if (d != 1 && d != 3) || m = 0 || 2 ^ (s.launchOf s.curTeam).roles.length ≤ m || !m.testBit t.info.role ||
            (match dom.mask with | some k => k.toNat != m | none => false) then illegal (.fence d a b) s
        else .done (roundFence (setFence s (fenceIds s w.mask 3 d.toNat)) scratch (BitVec.ofNat 4 m))) s

/-- The contributor set of a domain (R235). -/
def contributors (s : State) (scratch : Bool) (h l : Nat) (m : BitVec 4) : List Nat :=
  (List.range s.teams.length).filter fun t =>
    let i := (s.team t).info
    (if scratch then i.launch == l else i.harness == h) && m.getLsbD i.role

/-- The rounds of a domain that a team has fenced. -/
def Team.rounds (x : Team) (scratch : Bool) : Nat := if scratch then x.deps.scratchRound else x.deps.sharedRound

/-- Whether the next round of a domain closes (R235): a halted team delays it (R433), and so does one whose round fence is still to
release its accesses (R238, R367); an ended one has fenced every later round, and once all have ended no round closes that holds nothing
(log 136). -/
def roundCloses (s : State) (scratch : Bool) (h l : Nat) : Bool :=
  let dom := getDom s scratch h l
  match dom.mask with
  | none => false
  | some m =>
    let ts := contributors s scratch h l m
    (ts.any (fun t => (s.team t).place != .ended || dom.rounds < (s.team t).rounds scratch) || dom.entries != []) &&
      ts.all fun t =>
        let x := s.team t
        x.place == .ended || (!x.isHalted && dom.rounds < x.rounds scratch && !x.flow.paths.any fun p => p.any (fenced s ·.fence))

/-- Ascending key order (R234). -/
def ordBefore (a b : OrdEntry) : Bool :=
  if a.cid != b.cid then a.cid < b.cid
  else if a.role != b.role then a.role < b.role
  else if a.tid != b.tid then a.tid < b.tid
  else if a.lane != b.lane then a.lane < b.lane
  else a.seq < b.seq

def ordInsert (e : OrdEntry) : List OrdEntry → List OrdEntry
  | [] => [e]
  | x :: r => if ordBefore e x then e :: x :: r else x :: ordInsert e r

def ordSort (l : List OrdEntry) : List OrdEntry := l.foldr ordInsert []

/-- One entry applied to its word (R236). -/
def applyOrd (scratch : Bool) (h : Nat) (s : State) (e : OrdEntry) : State :=
  let p : Loc := if scratch then .scratch e.die e.addr else .shared h e.addr
  let old := leNat (s.locBytes p 4)
  let new := Num.roundTo fmt32 .ne (Num.fadd .ne (Num.fval fmt32 old) (Num.fval fmt32 e.value.toNat))
  s.locStore p (leBytes 4 new)

/-- ROUND_CLOSE (R236): the closing round's entries in key order, and the count of closed rounds; nothing closes once a reset
has discarded the launch (R444). -/
def execRoundClose (s : State) : Host.Outcome State Fault Refusal :=
  .next <|
    let sc := s.ev.ctl
    let h := s.ev.id
    let l := s.ev.launch
    if (if sc then (s.launch l).live else (s.harness h).alive) && roundCloses s sc h l then
      let dom := getDom s sc h l
      let n := dom.rounds + 1
      let s := (ordSort (dom.entries.filter (·.round = n))).foldl (applyOrd sc h) s
      putDom s sc h l { dom with rounds := n, entries := dom.entries.filter (·.round != n) }
    else s

/-! ## WAITV -/

/-- The condition code of a WAITV (R50, R240). -/
def waitvDep (w : View) (d a b : Byte) : Dep := .value (rd w a 0).toNat (b.getLsbD 3) (b.toNat % 8) (rd w d 0)

/-- WAITV (R240): its address and value are those of its issue; a wait that has begun reads the word alone again. -/
def execWaitv (d a b : Byte) (s : State) : Host.Outcome State Fault Refusal :=
  issue (.waitv d a b)
    { legal := fun _ => isS d && isS a && b.toNat < 16, mode := fun _ => b.toNat % 8 != 4 && b.toNat % 8 != 5, regs := [d, a] }
    (fun w s =>
      match s.me.path.dep with
      | some .met => .done s
      | some (.value p sc c v) => if depMet s s.curTeam (.value p sc c v) then .done s else .wait s (.value p sc c v)
      | _ =>
        match checkAccess s (b.getLsbD 3) .load 4 [⟨0, (rd w a 0).toNat⟩] with
        | some e => e
        | none => if depMet s s.curTeam (waitvDep w d a b) then .done s else .wait s (waitvDep w d a b)) s

/-- WAITV_POLL (R240): the waiting word is read again; when the condition holds, the WAITV completes when it
issues again. -/
def execWaitvPoll (s : State) : Host.Outcome State Fault Refusal :=
  .next <|
    let x := s.team s.ev.team
    match x.flow.paths.getD s.ev.path none with
    | some p =>
      match p.dep with
      | some (.value a sc c v) =>
        if depMet s s.ev.team (.value a sc c v) then
          s.putTeam s.ev.team (x.putPathAt s.ev.path (some { p with dep := some .met }))
        else s
      | _ => s
    | none => s

end Sys2Proof.Machine
end

