-- ==== Sys2Proof/Machine/Fetch.lean ====
section
/-! DEFINITION. Fetching an instruction word (R105, R106, R115) and the passage of time (R93, log 6). -/

namespace Sys2Proof.Machine

/-- The cells of a memory from address `lo`, `n` bytes, moved to address `base`. -/
def sliceMem (m : Memory) (lo n base : Nat) : Memory :=
  (m.filter fun e => lo ≤ e.1 && e.1 < lo + n).map fun e => (e.1 - lo + base, e.2)

/-- The place of byte `off` among places in a row. -/
def placeIn : List (Loc × Nat) → Nat → Loc
  | [], _ => .zero
  | (l, n) :: r, off => if off < n then l.add off else placeIn r (off - n)

/-- The place of byte `off` of the code of a launch, through the held translations (R26). -/
def codePlace (l : Launch) (off : Nat) : Loc := placeIn l.codeMap off

/-- The cells of places in a row, the first of them at `base`. -/
def cellsIn (s : State) : List (Loc × Nat) → Nat → Memory
  | [], _ => []
  | (l, n) :: r, base => sliceMem (s.memAt l).1 (s.memAt l).2 n base ++ cellsIn s r (base + n)

/-- The code memory of a launch as it stands, by offset from CODEBASE (R106). -/
def codeImage (s : State) (l : Launch) : Memory := (cellsIn s l.codeMap 0).foldr (fun e m => sset 0 m e.1 e.2) []

/-- The word of code memory at word offset `pc` now. -/
def codeNow (s : State) (l : Launch) (pc : Nat) : Word := BitVec.ofNat 32 (leNat (s.locBytes (codePlace l (4 * pc)) 4))

/-- The word fetched at `pc` by a harness: the word at the last IFLUSH or at acceptance, or, when it has changed since,
either that or the present one (R106). -/
def fetchWord (s : State) (h pc : Nat) : Word :=
  let old := memWord (s.harness h).code (4 * pc)
  let new := codeNow s (s.launch (s.harness h).launch) pc
  if old = new then old else if Config.freeFetch s.freeIx then new else old

/-- The word a party issues next: of its macro buffer, else fetched at its PC. -/
def wordFor (s : State) : Party → Word
  | .team t =>
    let p := (s.team t).path
    match p.mac with
    | some (ws, j) => ws.getD j 0xF2000000
    | none => fetchWord s (s.team t).info.harness p.pc
  | .shuttle h n => fetchWord s h (s.shuttle h n).pc
  | .none => 0

/-- Whether a team's timers run (R93). -/
def timeRuns (s : State) (x : Team) : Bool :=
  (x.place == .active || x.place == .pending || x.place == .moving) &&
    (s.core x.info.core).resident == some x.info.harness

/-- The WM credit of a core's partitions after `n` cycles (R441). -/
def passCredit (s : State) (n : Nat) (c : Core) : List CPart :=
  match c.resident with
  | none => c.parts
  | some h =>
    let k := (s.func (s.launch (s.harness h).launch).f).wmw.toNat
    if k = 0 then c.parts else c.parts.map fun p => { p with credit := min 8192 (p.credit + k * n) }

/-- A team's timer and its counters of cycles after `n` cycles in which it stood as it stands (R93, R436). -/
def passTeam (s : State) (n : Nat) (x : Team) : Team :=
  if timeRuns s x then
    let more (k : BitVec 64) (b : Bool) := if b then k + BitVec.ofNat 64 n else k
    { x with
      ctl := { x.ctl with tmr := x.ctl.tmr + BitVec.ofNat 64 n }
      perf := { x.perf with
        idle := more x.perf.idle (x.standing == .eligible), stalls := more x.perf.stalls (x.standing == .stalled) } }
  else x

/-- A resident harness's counters of cycles with a WM occupied after `n` cycles (R436). -/
def passHarness (s : State) (n i : Nat) (x : Harness) : Harness :=
  if (s.core x.core).resident = some i then
    { x with
      wmBusy := x.wmBusy.mapIdx fun p k =>
        if (((s.core x.core).parts.getD p {}).busy.any (·.isSome)) then k + BitVec.ofNat 64 n else k }
  else x

/-- A path that waits on FETCHW, or on a SLEEP whose wake value `tmr` has not reached (R78). -/
def restsLong (tmr : Nat) (p : Path) : Bool :=
  match p.dep with
  | some .tile => true
  | some (.sleep n) => tmr < n
  | _ => false

/-- A team that waits on FETCHW or SLEEP, its other paths at a JOIN, now and for the next `n` cycles, or is parked, or has ended
(R78). -/
def idleTeam (n : Nat) (x : Team) : Bool :=
  let tmr := x.ctl.tmr.toNat + n
  x.place == .parked || x.place == .ended ||
    ((x.flow.paths.all fun p => match p with
      | some q => atJoin tmr q || restsLong tmr q
      | none => true) && x.flow.paths.any fun p => match p with
      | some q => restsLong tmr q
      | none => false)

/-- Every team of the resident harness of core `c` is idle, now and for the next `n` cycles, while another context of the core is
runnable (R78). -/
def idleCore (s : State) (n c : Nat) (k : Core) : Bool :=
  match k.resident with
  | none => false
  | some h => (s.teams.all fun x => x.info.harness != h || idleTeam n x) && otherRunnable s c

/-- No harness is resident, and no queue in state 1 has an unread notify (R445). -/
def idleModule (s : State) : Bool :=
  (s.cores.all fun c => c.resident.isNone) &&
    (s.pf :: s.funcs).all fun f => f.queues.all fun e => e.2.state != 1 || e.2.notified == e.2.rdidx

/-- A core after `n` cycles. -/
def passCore (s : State) (n c : Nat) (k : Core) : Core :=
  { k with
    cyc := k.cyc + BitVec.ofNat 64 n, slice := k.slice + n, idle := if idleCore s n c k then k.idle + n else 0
    parts := passCredit s n k }

/-- A timer trap that has become due; each arming fires once (R402). -/
def Team.ring (x : Team) : Team :=
  if x.ctl.tmrcmp != 0 && x.ctl.tmrcmp.toNat ≤ x.ctl.tmr.toNat then
    { x with ctl := { x.ctl with tmrcmp := 0 }, due := { x.due with timer := true } }
  else x

/-- A path whose JOIN timeout expired in an earlier cycle goes on alone; a held one does not expire (R163, R433). -/
def Path.expire (tmr : Nat) (p : Path) : Path :=
  match p.join with
  | some ⟨some d⟩ => if d < tmr && !p.held then { p with join := none, pc := p.pc + 1 } else p
  | _ => p

/-- How long ago the waits of a team ended that TMR alone ends: the SLEEP of its current path, or of a path that sent it to the
pending set, and there the JOIN timeouts too (R136, R148, R163). -/
def Team.restOver (x : Team) : Option Nat :=
  let tmr := x.ctl.tmr.toNat
  let rests (i : Nat) : Option Nat :=
    (x.flow.paths.getD i none).bind fun p =>
      match p.join, p.dep with
      | some ⟨some d⟩, _ => if d ≤ tmr && !p.held then some (tmr - d) else none
      | none, some (.sleep n) => if n ≤ tmr then some (tmr - n) else none
      | _, _ => none
  ((x.flow.path :: x.sent).filterMap rests).max?

/-- A pending team whose JOIN timeout expires is ready from that cycle on (R136, R163). -/
def Team.rested (now : Nat) (x : Team) : Team :=
  match x.place, x.standing, x.restOver with
  | .pending, .waiting, some k => { x with standing := .ready, since := now - k }
  | _, _, _ => x

/-- What the passage of time up to cycle `now` does to a team: its timer trap and its JOIN timeouts. -/
def Team.pass (now : Nat) (x : Team) : Team :=
  let x := x.ring.rested now
  { x with flow := { x.flow with paths := x.flow.paths.map fun p => p.map (Path.expire x.ctl.tmr.toNat) } }

/-- `n` cycles pass. -/
def passTime (n : Nat) (s : State) : State :=
  { s with
    time := s.time + n
    cores := s.cores.mapIdx (passCore s n)
    svc := { s.svc with idle := if idleModule s then s.svc.idle + n else 0 }
    teams := s.teams.map fun x => (passTeam s n x).pass (s.time + n)
    harnesses := s.harnesses.mapIdx (passHarness s n) }

end Sys2Proof.Machine
end

