-- ==== Sys2Proof/Machine/Schedule.lean ====
section
/-! DEFINITION. Which party issues next: when a party's next word may issue (R89, R90, R136, R242), the engines and the
engine-aware choice (R140 to R143), what an issue leaves of both, and the time of a step (log 2, log 6). -/

namespace Sys2Proof.Machine

/-- The engine of an opcode (R140): 0 vector ALU, 1 FP, 2 shared-memory port, 3 WM issue, 4 copy issue, 5 branch/system. -/
def engineOf (op : Nat) : Nat :=
  if (0x20 ≤ op && op < 0x60) || op = 0xF9 || op = 0xFA || op = 0xFC then 0
  else if (0x60 ≤ op && op < 0x80) || op = 0xFB then 1
  else if (0x80 ≤ op && op < 0xA0) || (0xE0 ≤ op && op < 0xE7) then 2
  else if 0xC0 ≤ op && op < 0xD8 then 3
  else if 0xA0 ≤ op && op < 0xB0 then 4
  else 5

/-- How many consecutive registers an instruction names by its D, A and B bytes (R90); 0 where the byte is no register.
`pair`: under ETYPE 9, where a typed operand is a pair (R173). -/
def regWidths (op : Nat) (pair : Bool) (b : Byte) : Nat × Nat × Nat :=
  let t := if pair then 2 else 1
  if [0x00, 0x01, 0x05, 0x06, 0x07, 0x08, 0x0B, 0x0D, 0x0F, 0x10, 0x11, 0x12, 0x13, 0x14, 0x15, 0x16, 0x17, 0x1D, 0x9D, 0xB5,
      0xB9, 0xBD, 0xBF, 0xD0, 0xD2, 0xD3, 0xF2, 0xF4, 0xF7, 0xFE, 0xFF].contains op then (0, 0, 0)
  else if [0x02, 0x03, 0x04, 0x09, 0x0A, 0x19, 0x1A, 0x1C, 0x1F, 0x39, 0x3A, 0x3B, 0x41, 0x42, 0x5A, 0xA5, 0xCE, 0xCF, 0xD4,
      0xEE].contains op then (1, 0, 0)
  else if [0x0E, 0x1E, 0xA1, 0xA2, 0xA3, 0xA8, 0xB4, 0xB8, 0xD1, 0xDA, 0xE1, 0xE5, 0xEB, 0xEF].contains op then (0, 1, 0)
  else if [0x34, 0x3C, 0x3D, 0x3E, 0x40, 0x4C, 0x53, 0x54, 0x55, 0x5B, 0x5D, 0x66, 0x67, 0x68, 0x69, 0x6A, 0x6B, 0x6D, 0x6E, 0x6F,
      0x70, 0x77, 0x78, 0x79, 0x7A, 0x7B, 0x7C, 0x7D, 0x7E, 0x9E, 0xA7, 0xBA, 0xC1, 0xC2, 0xCA, 0xD5, 0xD6, 0xD7, 0xDB, 0xDF, 0xEA,
      0xF8].contains op then (1, 1, 0)
  else if [0xC0, 0xE0, 0xE2, 0xE3, 0xFD].contains op then (0, 1, 1)
  else if [0xB0, 0xB1, 0xBC].contains op then (1, 0, 1)
  else if [0x20, 0x21, 0x22, 0x24, 0x25, 0x26, 0x2F].contains op then (t, t, t)
  else if [0x27, 0x28, 0x56, 0x57, 0x58, 0x59].contains op then (t, t, 0)
  else if op = 0x2D || op = 0x2E then (t, 0, 0)
  else if 0x44 ≤ op && op ≤ 0x49 then (1, t, t)
  else if op = 0x72 then (1, t, 0)
  else if op = 0x73 then (t, 1, 0)
  else if op = 0x1B then (2, 0, 0)
  else if op = 0x5E then (2, 2, 1)
  else if op = 0x86 then (0, b.toNat, 0)
  else if op = 0x87 then (b.toNat, 0, 0)
  else if [0x7F, 0x82, 0x83, 0x8E, 0x92, 0x93, 0x9A, 0xD9, 0xFC].contains op then (2, 1, 1)
  else if [0xE6, 0xF1, 0xF5].contains op then (2, 1, 0)
  else if [0x84, 0x85, 0x94, 0x95].contains op then (4, 1, 1)
  else if [0xA0, 0xA4, 0xA9, 0xAB, 0xAC, 0xEC, 0xED, 0xF3, 0xF6].contains op then (0, 4, 0)
  else if [0xAA, 0xAF, 0xE9].contains op then (0, 4, 1)
  else if op = 0xAD || op = 0xD8 then (1, 4, 0)
  else if op = 0xE7 || op = 0xE8 then (4, 0, 0)
  else if op = 0xB6 || op = 0xB7 then (1, 2, 1)
  else if op = 0xB2 || op = 0xB3 then (1, 0, 3)
  else if op = 0xBE then (8, 1, 0)
  else if op = 0xDD then (0, 8, 1)
  else if op = 0xDE then (8, 1, 1)
  else (1, 1, 1)

/-- The registers that a word reads or writes, as runs of operand bytes in the order D, A, B, then those it names by none:
s30 of CALL (R166), and v0 to v5 of an SVC on a bound ring (R406). -/
def wordRegs' (pair svc : Bool) (w : Word) : List (Byte × Nat) :=
  let (nd, na, nb) := regWidths (opOf w) pair (w.extractLsb' 0 8)
  [(w.extractLsb' 16 8, nd), (w.extractLsb' 8 8, na), (w.extractLsb' 0 8, nb),
    (0xDE, if opOf w = 0x0D then 1 else 0), (0, if opOf w = 0x14 && svc then 6 else 0)]

/-- Whether a mark lies among the `r.2` registers from byte `r.1`. -/
def Mark.inRun (m : Mark) (r : Byte × Nat) : Bool :=
  r.2 != 0 && (isV r.1 || isS r.1 || isAcc r.1) && r.1.toNat ≤ m.reg.toNat && m.reg.toNat < r.1.toNat + r.2

/-- The mark that stalls a word: one of its first marked operand (R90). -/
def stallMark (ms : List Mark) (pair svc : Bool) (w : Word) : Option Mark :=
  (wordRegs' pair svc w).findSome? fun r => ms.find? (·.inRun r)

/-- The mark that stalls a team's word. -/
def Team.stallMark (x : Team) (w : Word) : Option Mark :=
  Sys2Proof.Machine.stallMark x.deps.marks (mrEtype x.ctl.mr == 9) (x.ctl.svcring != 0) w

/-- Opcodes that raise L, S and M (R89). -/
def raisesL (op : Nat) : Bool :=
  [0x80, 0x82, 0x84, 0x87, 0x88, 0x89, 0x8A, 0x8B, 0x8C, 0x8D, 0x8E, 0x90, 0x92, 0x94, 0x96, 0x97, 0x98, 0x99, 0x9A, 0x9C, 0x9F,
   0xAD, 0xAE, 0xD8, 0xD9, 0xDB, 0xDC, 0xDE, 0xDF].contains op
def raisesS (op : Nat) : Bool :=
  [0x81, 0x83, 0x85, 0x86, 0x8F, 0x91, 0x93, 0x95, 0x9B, 0xAF, 0xDA, 0xDD, 0xE1, 0xE2].contains op
def raisesC (op : Nat) : Bool := [0xA0, 0xA1, 0xA2, 0xA3, 0xA4, 0xA5, 0xA9, 0xAA, 0xAB, 0xAC].contains op
def raisesM (op : Nat) : Bool :=
  [0xC6, 0xC7, 0xC8, 0xC9, 0xCB, 0xCC, 0xCD, 0xCE, 0xD6, 0xD7].contains op

/-- The open batch, which a further copy joins and a SEAL closes without raising C (R89, R91). -/
def Deps.joins (d : Deps) : Bool :=
  match d.batches.getLast? with
  | some b => !b.closed && d.c != 0
  | none => false

/-- Whether a counter at 63 stalls a word; `skips`: it is a multiply that the predictor has skipped (R89, R298). -/
def counterFull (d : Deps) (op : Nat) (skips : Bool) : Bool :=
  (raisesL op && 63 ≤ d.l) || (raisesS op && 63 ≤ d.s) || (raisesC op && 63 ≤ d.c && !d.joins) ||
    (raisesM op && 63 ≤ d.m && !skips)

/-- Whether harness `h` is resident on a core that works. -/
def coreUp (s : State) (h : Nat) : Bool :=
  let x := s.harness h
  let c := s.core x.core
  s.svc.power == .run && c.inService && c.resident == some h && x.alive && x.started

/-- Whether a core issues at all for harness `h`. -/
def coreRuns (s : State) (h : Nat) : Bool := coreUp s h && !(s.core (s.harness h).core).preempt

/-- Whether teams of harness `h` issue: while it waits for a host-served fault, only in the cycle of the first (R404). -/
def coreLets (s : State) (h : Nat) : Bool :=
  if (s.harness h).blocked then coreUp s h && (s.harness h).blockedAt == s.time else coreRuns s h

/-- Whether due traps of harness `h` are taken: in the cycle of a request that it leave its core, or of a first host-served fault,
they come before the swap (R412). -/
def coreTraps (s : State) (h : Nat) : Bool :=
  let k := s.core (s.harness h).core
  coreUp s h && (!k.preempt || k.preemptAt == s.time) && (!(s.harness h).blocked || (s.harness h).blockedAt == s.time)

/-- A due trap that is taken at the next boundary of the current path (R396, R412). -/
def trapDue (x : Team) : Bool := !x.ctl.inh && (x.pathTrap || x.due.shuttle != [] || x.due.timer)

/-- Whether the current path has used its quantum up (R160); one held at a gang rendezvous stays (R296). -/
def quantumOver (x : Team) : Bool :=
  !x.ctl.inh && x.due.one.isNone && x.path.dep != some .gang && 0 < x.flow.quantum && x.ctl.pquant.toNat ≤ x.flow.quantum

/-- Whether the current path gives way to the next one: it has ended or used its quantum up, waits at JOIN or on a
long-latency dependence, or is held (R160, R433). -/
def givesWay (s : State) (t : Nat) : Bool :=
  let x := s.team t
  match x.flow.paths.getD x.flow.path none with
  | none => true
  | some p => quantumOver x || p.held || p.join.isSome || waitsLong s t p

/-- A team with the path chosen whose word it issues next. -/
def settle (s : State) (t : Nat) : State := if givesWay s t then choosePath s t else s

/-! ## The wide multiplier as issue sees it -/

/-- The ports of an engine: the vector ALU has two, and the FP engine one (R140), although the peak of R17 needs two FP passes of a
partition in a cycle (log 119). -/
def enginePorts (e : Nat) : List Nat := if e = 0 then [0, 6] else [e]

/-- Whether a port takes a pass in this cycle (R141). -/
def portFree (s : State) (q : CPart) (k : Nat) : Bool :=
  match q.ports.getD k none with
  | some n => n ≤ s.time
  | none => true

/-- The partition of a team. -/
def partOf (s : State) (t : Nat) : CPart := (s.core (s.team t).info.core).parts.getD (s.team t).info.part {}

/-- Whether a word is one of the four multiplies. -/
def isMul (op : Nat) : Bool := 0xC6 ≤ op && op ≤ 0xC9

/-- The accumulator number of an operand byte (R79). -/
def accNo (d : Byte) : Nat := d.toNat - 0xF0

/-- The WM that a word acts on (R83, R289, R319). -/
def wmOf (w : Word) : Option Nat :=
  let op := opOf w
  let acc := if 0xCA ≤ op && op ≤ 0xCD then w.extractLsb' 8 8 else w.extractLsb' 16 8
  if ((0xC6 ≤ op && op ≤ 0xCF) || op = 0xD6 || op = 0xD7) && isAcc acc then some (accNo acc / 2) else none

/-- Whether the long operand of a team is marked as skipped: in its latch when that holds register `a`, else in the
register (R298, R307). -/
def longSkips (x : Team) (a : Byte) : Bool :=
  match x.wm.latch with
  | some l => if l.reg = a.toNat then l.skip else x.regs.skip.getLsbD a.toNat
  | none => x.regs.skip.getLsbD a.toNat

/-- Whether WM `n` of a team's partition is free and, for a multiply, its credit is not below 0 (R289, R441). -/
def wmFree (s : State) (t n : Nat) (mul : Bool) : Bool :=
  let i := (s.team t).info
  let p := (s.core i.core).parts.getD i.part {}
  (p.busy.getD n none).isNone && !(mul && (s.func (s.fnOf t)).wmw != 0 && p.credit < 0)

/-- The members that issue when team `t` arrives with the last word of its gang's round; none while others have still to
arrive (R297). -/
def roundMembers (s : State) (t : Nat) : List Nat :=
  let x := s.team t
  let ts := gangTeams s x.info.harness x.ctl.gang
  let here := ((roundOf s x.info.harness x.ctl.gang).map fun r => r.here.map (·.1)).getD []
  if ts.all fun m => m == t || here.contains m then ts else []

/-- The A byte with which the leader of a round stands at its rendezvous, or arrives. -/
def leaderByte (s : State) (t lead : Nat) (a : Byte) : Byte :=
  if lead = t then a
  else
    let x := s.team t
    (((roundOf s x.info.harness x.ctl.gang).bind fun r => r.here.find? (·.1 == lead)).map (·.2.1)).getD a

/-- A word that waits for its WM, or a multiply for WM credit, at each arrival of a gang's too; the last arrival waits for those of
every member as well, for its port, and for room in every M (R289, R297, R441). -/
def wmBlocked (s : State) (t : Nat) (w : Word) : Bool :=
  match wmOf w with
  | some n =>
    !wmFree s t n (isMul (opOf w)) ||
      ((opOf w == 0xC8 || opOf w == 0xC9) && (roundMembers s t).any fun m =>
        !wmFree s m n true || !(m == t || portFree s (partOf s m) 3) ||
          (63 ≤ (s.team m).deps.m &&
            let lead := (roundMembers s t).headD t
            !longSkips (s.team lead) (leaderByte s t lead (w.extractLsb' 8 8))))
  | none => false

/-- A multiply that waits for the row of its stream (R294). -/
def rowBlocked (x : Team) (s : State) (w : Word) : Bool :=
  isMul (opOf w) && isStrm (w.extractLsb' 0 8) && match x.wm.sub with
    | some (n, p) => !rowReady s x.info.harness n p
    | none => false

/-! ## Who can issue -/

/-- Whether a word acts on a dormant path (R155). -/
def isCounter (op : Nat) : Bool := 0x04 ≤ op && op ≤ 0x0A

/-- Whether an earlier instruction of a team still has passes to issue (R141). -/
def Team.busy (x : Team) (now : Nat) : Bool :=
  match x.busyTil with
  | some n => now < n
  | none => false

/-- Whether a team with its path chosen stands before an instruction that it may issue, but for the scoreboard (R136). -/
def teamStands (s : State) (t : Nat) : Bool :=
  let x := s.team t
  coreLets s x.info.harness && x.place == .active && !x.isHalted && !x.ctl.parked &&
    (x.path.isOver || (!trapDue x && (!x.due.halt || x.due.haltAt == s.time))) &&
    !x.busy s.time && !fenced s x.fetch &&
    (x.flow.paths.getD x.flow.path none).isSome && pathCan s t x.path

/-- Whether a team's word stalls on the scoreboard; a word on a dormant path reads and writes nothing (R90, R156). -/
def teamStalls (s : State) (t : Nat) (w : Word) : Bool :=
  let x := s.team t
  (!x.dormant || isCounter (opOf w)) && (x.stallMark w).isSome

/-- Whether an active team with its path chosen is eligible (R136, R294). -/
def teamEligible (s : State) (t : Nat) : Bool :=
  let x := s.team t
  teamStands s t &&
    (let w := wordFor s (.team t)
     !teamStalls s t w &&
       (x.dormant ||
         (!counterFull x.deps (opOf w) (isMul (opOf w) && (0xC8 ≤ opOf w || longSkips x (w.extractLsb' 8 8))) && !rowBlocked x s w)))

/-- The paths of a team that are scheduled: in a handler the current one alone (R160, R394). -/
def Team.scheduled (x : Team) : List Nat := if x.ctl.inh then [x.flow.path] else List.range 16

/-- Some scheduled path of a team can issue (R160). -/
def someCan (s : State) (t : Nat) : Bool :=
  (s.team t).scheduled.any fun i => ((s.team t).flow.paths.getD i none).any (pathCan s t)

/-- The scheduled paths of a team that wait on a long-latency dependence (R137). -/
def longPaths (s : State) (t : Nat) : List Nat :=
  (s.team t).scheduled.filter fun i => ((s.team t).flow.paths.getD i none).any (waitsLong s t)

/-- A pending team is ready: the dependence of a path that sent it there is satisfied, or it has none, or a trap is due, or a
debugger steps a path of it that does not wait (R136, R402, R255, R432; log 108). -/
def teamReady (s : State) (t : Nat) : Bool :=
  let x := s.team t
  x.place == .pending && (trapDue x || x.sent == [] ||
    (x.due.one.any fun i => (x.flow.paths.getD i none).any fun p => !waitsLong s t p) ||
    x.sent.any fun i => match x.flow.paths.getD i none with
      | some p => !p.held && !waitsLong s t p
      | none => true)

/-- An active team waits on a long-latency dependence: its current path does, or, where that has ended, some path, and no path
can issue (R137, R160). -/
def teamWaits (s : State) (t : Nat) : Bool :=
  let x := s.team t
  x.place == .active && (x.yields || (!trapDue x && !someCan s t && match x.flow.paths.getD x.flow.path none with
    | some p => waitsLong s t p
    | none => longPaths s t != []))

/-- A Shuttle's next word may issue, one in a cycle (R238, R244): it runs, or waits for what it tests again (R256). -/
def shuttleCan (s : State) (h n : Nat) : Bool :=
  let x := s.shuttle h n
  coreRuns s h && x.last ≤ s.time && (x.state == 1 || (x.state == 2 && !x.fault)) && !fenced s x.fence &&
    (stallMark x.marks false false (wordFor s (.shuttle h n))).isNone

/-! ## The engine-aware choice -/

/-- The engine that a team's word is charged to; MCALL's is that of its word 0 (R140). -/
def wordEngine (s : State) (t : Nat) (w : Word) : Nat :=
  engineOf (if opOf w = 0x0F then opOf ((macroEntry (s.harnessOf t) (32 * (w.extractLsb' 16 8).toNat)).setWidth 32) else opOf w)

/-- The engine that the next word of a team, its path chosen, is charged to. -/
def teamEngine (s : State) (t : Nat) : Nat := wordEngine s t (wordFor s (.team t))

/-- Whether a partition withholds this cycle: one in 8 while the module is throttled (R446, R447; log 85). -/
def withheld (s : State) : Bool :=
  (s.svc.throttle || s.svc.hot != []) && (s.time + Config.throttlePhase) % 8 == 0

/-- Whether a team still gives its place up to a ready team of the pending set (R147). -/
def yieldsNow (s : State) (t : Nat) : Bool := (s.team t).yields && (partOf s t).pending.any (teamReady s)

/-- Whether a team, its path chosen, is a candidate for issue (R142, R289). -/
def teamCan (s0 : State) (t : Nat) : Bool :=
  let s := settle s0 t
  teamEligible s t && !yieldsNow s t && !withheld s && ((s.team t).dormant || !wmBlocked s t (wordFor s (.team t))) &&
    (enginePorts (teamEngine s t)).any (portFree s (partOf s t))

/-- A team is starved: eligible in 56 consecutive cycles and not chosen (R143). -/
def starved (s : State) (t : Nat) : Bool := (s.team t).standing == .eligible && 56 ≤ s.time - (s.team t).since

/-- Whether the current path of a team executes a macro: its words are no choice of their own (R122). -/
def inMacro (s : State) (t : Nat) : Bool := (s.team t).path.mac.isSome

/-- The slot that alone serves a team while some path of it has a macro to end: the one that chose its MCALL (R122). -/
def Team.boundTo (x : Team) : Option Nat := x.flow.paths.findSome? fun p => match p with
  | some p => if p.mac.isSome then some p.slot else none
  | none => none

/-- Whether the next word of a macro that slot `k` serves can issue now. -/
def macroCan (s : State) (k u : Nat) : Bool := inMacro (settle s u) u && ((settle s u).team u).path.slot == k && teamCan s u

/-- The slots of a partition that have issued in this cycle, with their teams (R142). -/
def chosenNow (s : State) (q : CPart) : List (Nat × Nat) := if q.chosen = [] then [] else if q.chosenAt = s.time then q.chosen else []

/-- Whether a partition has chosen a team in this cycle. -/
def wasChosen (s : State) (q : CPart) (t : Nat) : Bool := (chosenNow s q).any (·.2 == t)

/-- A Shuttle whose wait is over runs again; the word that it issues may find another wait (R256). -/
def wakeShuttle (s : State) (h n : Nat) : State :=
  if (s.shuttle h n).state = 2 then s.putShuttle h n { s.shuttle h n with state := 1 } else s

/-- Whether a slot of a partition is left to choose a team: it has not issued in this cycle, and no word of a macro that it serves can
issue now; in the cycles in which such a word stalls or waits, the slot chooses as any other (R122, R142, R143; log 121). -/
def slotFree (s : State) (q : CPart) (k : Nat) : Bool := !(chosenNow s q).any (·.1 == k) && !q.active.any (macroCan s k)

/-- Whether starved team `u` takes a port of its engine before team `t` (R143). -/
def firstStarved (s : State) (u t : Nat) : Bool :=
  let x := s.team t
  let y := s.team u
  starved s u && teamEngine (settle s u) u == teamEngine (settle s t) t &&
    (!starved s t || y.since < x.since || (y.since == x.since && y.info.index < x.info.index))

/-- Whether team `a` goes before team `b` in the order of R142, on a partition with engine records `es`. -/
def before (s : State) (es : List Nat) (a b : Nat) : Bool :=
  let x := s.team a
  let y := s.team b
  let ka := es.getD (teamEngine (settle s a) a) 0
  let kb := es.getD (teamEngine (settle s b) b) 0
  if starved s a != starved s b then starved s a
  else if ka != kb then ka < kb
  else if x.ctl.prio != y.ctl.prio then y.ctl.prio.toNat < x.ctl.prio.toNat
  else if x.since != y.since then x.since < y.since
  else x.info.index < y.info.index

/-- The teams from which slot `k` of a partition chooses: none that another slot serves; an engine that a starved team waits for is
reserved for it, also while its WM is occupied (R122, R142, R143). -/
def candidates (s : State) (q : CPart) (k : Nat) : List Nat :=
  let waits := fun u => !inMacro (settle s u) u && !wasChosen s q u
  (q.active.filter fun u => waits u && teamCan s u && (s.team u).boundTo.all (· == k)).filter fun t =>
    q.active.all fun u => u == t || !waits u || !firstStarved s u t

/-- The team that slot `k` chooses (R142). -/
def slotChoice (s : State) (q : CPart) (k : Nat) : Option Nat :=
  let cs := candidates s q k
  cs.find? fun t => cs.all fun u => u == t || before s q.engines t u

/-- The next choice on a partition: the first slot that is left and has a candidate, with its team (R142). -/
def nextChoice (s : State) (q : CPart) : Option (Nat × Nat) :=
  (List.range 2).findSome? fun k => if slotFree s q k then (slotChoice s q k).map fun t => (k, t) else none

/-- The port and engine records of a partition after `n` passes of team `t` from a slot on engine `e` (R141, R142); the words of
a macro are no choice of their own (R122). A pass that the port goes on accepting counts from the issue on (log 130). -/
def CPart.charge (q : CPart) (s : State) (slot t e n : Nat) (macroWord : Bool) : CPart :=
  let k := ((enginePorts e).find? (portFree s q)).getD e
  { q with
    ports := q.ports.set k (some (s.time + n))
    engines := if macroWord then q.engines else q.engines.set e (max (q.engines.getD e 0) (s.time + n - 1))
    chosen := chosenNow s q ++ [(slot, t)], chosenAt := s.time }

/-- The state in which slot 1 chooses, once slot `k` has chosen team `t` (R142). -/
def afterChoice (s : State) (k t : Nat) : State :=
  let i := (s.team t).info
  let c := s.core i.core
  let e := teamEngine (settle s t) t
  s.putCore i.core { c with parts := c.parts.set i.part ((partOf s t).charge s k t e 1 false) }

/-- Whether a word registers range locks at its issue, which come before accesses of the same cycle (R251, R454). -/
def registers (op : Nat) : Bool := engineOf op == 4 || [0xB0, 0xB1, 0xB2, 0xB3, 0xBB, 0xBC].contains op

/-- The place of a word in the order of one cycle (R454): first the words that register locks, last CSWR (R120). -/
def wordPhase (op : Nat) : Nat := if registers op then 0 else if op = 0xF0 then 2 else 1

/-- The place of a team's next word in that order. -/
def teamPhase (s : State) (t : Nat) : Nat := wordPhase (opOf (wordFor (settle s t) (.team t)))

/-- The slot that chooses a team now: the next one, or the one after it, whose word acts first when R454 puts it before that of the
team which the next slot chooses in the same cycle. -/
def choosingSlot (s : State) (t : Nat) : Option Nat :=
  match nextChoice s (partOf s t) with
  | none => none
  | some (k, u) =>
    if u = t then some k
    else if teamPhase s u ≤ teamPhase s t then none
    else
      let s' := afterChoice s k u
      ((nextChoice s' (partOf s' t)).filter (·.2 == t)).map (·.1)

/-- Whether a slot of a team's partition chooses it now (R142). -/
def isChosen (s : State) (t : Nat) : Bool := (choosingSlot s t).isSome

/-- The slot from which a team, its path chosen, issues: of its macro the one that chose its MCALL (R122, R142). -/
def issueSlot (s : State) (t : Nat) : Nat := if inMacro s t then (s.team t).path.slot else (choosingSlot s t).getD 2

/-- A party's next word may issue: a team's when a slot chooses it, or serves its macro and has not issued in this cycle
(R122, R142); the word of a macro, which is no choice, takes a free port of a reserved engine too (log 121). -/
def partyCan (s : State) : Party → Bool
  | .team t =>
    let s' := settle s t
    teamCan s t && (if inMacro s' t then !(chosenNow s (partOf s t)).any (·.1 == issueSlot s' t) else isChosen s t)
  | .shuttle h n => shuttleCan s h n
  | .none => false

/-! ## What an issue leaves -/

/-- Whether a team has issued between two states: an instruction counted, an MCALL that has begun (R122), or the part of a held
gang member whose round has issued, which may have ended in its fault (R297). -/
def hasIssued (x y : Team) : Bool :=
  x.perf.issued != y.perf.issued || (x.path.mac.isNone && y.path.mac.isSome) || (x.path.dep == some .gang && y.path.dep != some .gang)

/-- The team after an issue: its macro belongs to the slot that chose its MCALL (R122). -/
def Team.macroFrom (y x : Team) (slot : Nat) : Team :=
  if x.path.mac.isNone && y.path.mac.isSome then y.putPath { y.path with slot := slot } else y

/-- What an issue of team `t` between `s0` and `s` leaves: the records of its partition, and when its next word may issue. A
word that was tried and waits, or faulted, has been chosen too (log 99); a member of a gang issues with its round, from no
slot (R297). -/
def noteTeam (s0 s : State) (t : Nat) : State :=
  let x := s0.team t
  let y := s.team t
  if s0.cur == .team t || hasIssued x y then
    let n := max 1 (y.perf.passes - x.perf.passes).toNat
    let slot := if s0.cur == .team t then issueSlot s0 t else 2
    let c := s.core y.info.core
    let q := (c.parts.getD y.info.part {}).charge s slot t (wordEngine s0 t (wordFor s0 (.team t))) n x.path.mac.isSome
    let y := y.macroFrom x slot
    (s.putTeam t { y with standing := .issuing, since := s.time, busyTil := some (s.time + n), yields := y.yields && !x.yields }).putCore y.info.core
       { c with parts := c.parts.set y.info.part q }
  else s

/-- A Shuttle has issued in this cycle (R244). -/
def noteShuttle (s0 s : State) : State :=
  match s0.cur with
  | .shuttle h n => s.putShuttle h n { s.shuttle h n with last := s.time + 1 }
  | _ => s

/-- The records of the parties that issued in a step: one, or the members of a gang (R142, R244, R297). -/
def noteIssue (s0 s : State) : State := noteShuttle s0 ((List.range s.teams.length).foldl (noteTeam s0) s)

/-- The outcome of an instruction with what its issue leaves. -/
def noted (s0 : State) (o : Host.Outcome State Fault Refusal) : Host.Outcome State Fault Refusal :=
  match o with
  | .next s => .next (noteIssue s0 s)
  | o => o

/-! ## How teams stand -/

/-- How a team stands now. -/
def standingOf (s0 : State) (t : Nat) : Standing :=
  let s := settle s0 t
  let x := s.team t
  match x.place with
  | .active =>
    if x.busy s.time then .issuing
    else if yieldsNow s t then .waiting
    else if teamEligible s t then .eligible
    else if teamWaits s t then .waiting
    else if teamStands s t && teamStalls s t (wordFor s (.team t)) then .stalled
    else .none
  | .pending => if teamReady s t then .ready else .waiting
  | _ => .none

/-- A WAIT that a team reaches with a limit not met holds it back before it issues (R136, R146). -/
def noteWait (s0 : State) (t : Nat) : State :=
  let s := settle s0 t
  let x := s.team t
  let w := wordFor s (.team t)
  let d := waitLimits (w.extractLsb' 0 24)
  match x.flow.paths.getD x.flow.path none with
  | some p =>
    if teamStands s t && p.dep.isNone && !x.dormant && opOf w == 0x10 && !depMet s t d then
      s0.putTeam t ((s0.team t).putPathAt x.flow.path (some { p with dep := some d }))
    else s0
  | none => s0

/-- The standing of a team noted: a new one counts from now, or from the cycle in which its SLEEP ended, or, after an
instruction, from its last pass on (R136, R138, R436). -/
def noteStanding (s0 : State) (t : Nat) : State :=
  let s := noteWait s0 t
  let x := s.team t
  let st := standingOf s t
  if st = x.standing then s
  else
    let from' := match x.standing, x.busyTil with
      | .issuing, some n => min s.time n
      | _, _ => s.time - (if st = .ready ∨ st = .eligible then x.restOver.getD 0 else 0)
    let more (k : BitVec 64) (b : Bool) := if b then k + BitVec.ofNat 64 (s.time - from') else k
    s.putTeam t { x with
      standing := st, since := from'
      perf := { x.perf with idle := more x.perf.idle (st == .eligible), stalls := more x.perf.stalls (st == .stalled) } }

def noteStandings (s : State) : State := (List.range s.teams.length).foldl noteStanding s

/-! ## Turns and time -/

/-- The place of a party in the order of one cycle: physical core, partition and slot; then the core's Shuttles (R74,
R391). -/
def partyPlace (s : State) : Party → Nat
  | .team t =>
    let i := (s.team t).info
    teamPhase s t * 5120 + i.core * 20 + i.part * 2 + min 1 (issueSlot (settle s t) t)
  | .shuttle h n => wordPhase (opOf (wordFor s (.shuttle h n))) * 5120 + (s.harness h).core * 20 + 16 + n
  | .none => 15360

/-- The place of a step without a word in its cycle: a debugger's halt before the issues (R412), as the deal of a tile,
which reads the order at the start of the cycle (R73), the others after them, the removal of a task after every hand-out of
the cycle (R75, R454), and the begin of a set change last (R139). -/
def eventPlace (i : Instr) : Nat :=
  if i = .debugHalt ∨ i = .tileDeal then 0
  else if i = .graphopRemoveTask then 15361
  else if i = .setChange then 15362 else 15360

/-- The place of a turn. -/
def turnPlace (s : State) : Turn → Nat
  | .issue p => partyPlace s p
  | .event i _ => eventPlace i
  | .outside _ _ _ => 15360

/-- The place that a turn leaves reached: each issue has its own. -/
def turnEnd (s : State) (turn : Turn) : Nat :=
  match turn with
  | .issue p => partyPlace s p + 1
  | turn => turnPlace s turn

/-- The cycles that pass before a turn (log 6): one whose place in the cycle has been passed waits for the next cycle, as does
the step of a machine in which nothing can issue. -/
def turnCycles (turn : Turn) (s : State) : Nat :=
  Config.freeCycles s.ticks + if turn = .issue .none ∨ turnPlace s turn < s.sweep then 1 else 0

/-- Every team and Shuttle, teams first. -/
def parties (s : State) : List Party :=
  (List.range s.teams.length).map Party.team ++
    (List.range s.harnesses.length).flatMap fun h => (List.range 4).map fun n => Party.shuttle h n

/-- The earlier of two parties from the present place of the cycle on, wrapping round to the next cycle. -/
def sooner (s : State) (p q : Party) : Party :=
  let key r := let k := partyPlace s r; if s.sweep ≤ k then k else k + 20000
  if key q < key p then q else p

/-- The party that issues when the schedule names none: the next in the order of the cycle that can. -/
def pickParty (s : State) : Party :=
  match (parties s).filter (partyCan s) with
  | [] => .none
  | p :: r => r.foldl (sooner s) p

end Sys2Proof.Machine
end

