-- ==== Sys2Proof/Machine/Sets.lean ====
section
/-! DEFINITION. The active and pending sets of a partition and their changes (R135 to R139). -/

namespace Sys2Proof.Machine

def State.part (s : State) (c p : Nat) : CPart := (s.core c).parts.getD p {}
def State.putPart (s : State) (c p : Nat) (x : CPart) : State :=
  s.putCore c { s.core c with parts := (s.core c).parts.set p x }

/-- The team of a list that has waited or been ready longest (R138). -/
def oldest (s : State) : List Nat → Option Nat
  | [] => none
  | t :: r =>
    match oldest s r with
    | none => some t
    | some u =>
      let x := s.team t
      let y := s.team u
      if x.since < y.since || (x.since == y.since && x.info.index ≤ y.info.index) then some t else some u

/-- The ready team of the pending set that a set change takes in (R138). -/
def readyTeam (s : State) (c p : Nat) : Option Nat := oldest s ((s.part c p).pending.filter (teamReady s))

/-- The set change that a partition begins: at most one in a cycle (R138). A change on its way fills a place of the
active set. -/
def wantedChange (s : State) (c p : Nat) : Option SetChange :=
  let q := s.part c p
  if q.begun = s.time + 1 then none
  else
    match readyTeam s c p with
    | some t =>
      if q.active.length + (q.changes.filter (·.outTeam.isNone)).length < 8 then some ⟨t, none⟩
      else (oldest s (q.active.filter (teamWaits s))).map fun u => ⟨t, some u⟩
    | none => none

/-- Teams of a set change stop issuing until it completes (R138); the one that leaves is sent by the waits of its paths, or by
none when a path of it can issue (R136, R147). -/
def startChange (s : State) (c p : Nat) (ch : SetChange) : State :=
  let s := s.putTeam ch.inTeam { s.team ch.inTeam with place := .moving }
  let s := match ch.outTeam with
    | some u =>
      s.putTeam u { s.team u with place := .moving, yields := false, sent := if someCan s u then [] else longPaths s u }
    | none => s
  let q := s.part c p
  (s.putPart c p { q with changes := q.changes ++ [ch], begun := s.time + 1 }).post .setChangeComplete
    { core := c, part := p, team := ch.inTeam }

/-- SET_CHANGE (R138). -/
def execSetChange (s : State) : Host.Outcome State Fault Refusal :=
  .next <|
    match wantedChange s s.ev.core s.ev.part with
    | some ch => startChange s s.ev.core s.ev.part ch
    | none => s

/-- SET_CHANGE_COMPLETE (R138): the teams stand in their new sets. -/
def execSetChangeComplete (s : State) : Host.Outcome State Fault Refusal :=
  .next <|
    let c := s.ev.core
    let p := s.ev.part
    let q := s.part c p
    match q.changes.find? (·.inTeam == s.ev.team) with
    | none => s
    | some ch =>
      let s := s.putTeam ch.inTeam { s.team ch.inTeam with place := .active, sent := [] }
      let s := match ch.outTeam with
        | some u => s.putTeam u { s.team u with place := .pending }
        | none => s
      let out := ch.outTeam.toList
      s.putPart c p
        { q with
          changes := q.changes.filter (·.inTeam != ch.inTeam)
          active := (q.active.filter fun t => !out.contains t) ++ [ch.inTeam]
          pending := (q.pending.filter (· != ch.inTeam)) ++ out }

/-- A team leaves both sets of its partition (R135, R167). -/
def leaveSets (s : State) (t : Nat) (pl : Place) : State :=
  let x := s.team t
  let q := s.part x.info.core x.info.part
  let s := s.putTeam t { x with place := pl }
  s.putPart x.info.core x.info.part
    { q with active := q.active.filter (· != t), pending := q.pending.filter (· != t) }

/-- A team enters the pending set, ready (R135, R408). -/
def enterPending (s : State) (t : Nat) : State :=
  let x := s.team t
  let q := s.part x.info.core x.info.part
  let s := s.putTeam t { x with place := .pending, sent := [] }
  s.putPart x.info.core x.info.part { q with pending := q.pending ++ [t] }

/-- YIELD offers the team's place to a ready pending team: the set changes of the partition take it as that of a team that waits
(R138, R147). -/
def yieldPlace (s : State) (t : Nat) : State :=
  let i := (s.team t).info
  if (s.part i.core i.part).active.contains t && (readyTeam s i.core i.part).isSome then
    s.putTeam t { s.team t with yields := true }
  else s

/-- PATH_QUANTUM_EXPIRY (R160). -/
def execPathQuantumExpiry (s : State) : Host.Outcome State Fault Refusal :=
  .next <| if quantumOver (s.team s.ev.team) then choosePath s s.ev.team else s

/-- JOIN_TIMEOUT (R163): a waiting path whose deadline has come goes on alone; a held one does not expire (R433). -/
def execJoinTimeout (s : State) : Host.Outcome State Fault Refusal :=
  .next <|
    let x := s.team s.ev.team
    match x.flow.paths.getD s.ev.path none with
    | some p =>
      match p.join with
      | some ⟨some d⟩ =>
        if d ≤ x.ctl.tmr.toNat && !p.held then
          s.putTeam s.ev.team (x.putPathAt s.ev.path (some { p with join := none, pc := p.pc + 1 }))
        else s
      | _ => s
    | none => s

/-- The wait of a path is over: its instruction completes when it issues again. -/
def wake (s : State) (t path : Nat) (d : Dep) : State :=
  let x := s.team t
  match x.flow.paths.getD path none with
  | some p => s.putTeam t (x.putPathAt path (some { p with dep := some d }))
  | none => s

/-- SLEEP_EXPIRY (R148): TMR has reached the wake value, and the SLEEP completes. -/
def execSleepExpiry (s : State) : Host.Outcome State Fault Refusal :=
  .next <|
    match ((s.team s.ev.team).flow.paths.getD s.ev.path none).bind (·.dep) with
    | some (.sleep n) => if n ≤ (s.team s.ev.team).ctl.tmr.toNat then wake s s.ev.team s.ev.path .met else s
    | _ => s

/-- TEAM_END (R167): a team of the resident harness with no live path and no work in flight ends. -/
def teamOver (x : Team) : Bool :=
  x.live == 0 && x.deps.l == 0 && x.deps.s == 0 && x.deps.m == 0 && x.deps.c == 0 &&
    (x.place == .active || x.place == .pending)

def execTeamEnd (s : State) : Host.Outcome State Fault Refusal :=
  .next <|
    let i := (s.team s.ev.team).info
    if teamOver (s.team s.ev.team) && (s.core i.core).resident == some i.harness then leaveSets s s.ev.team .ended else s

end Sys2Proof.Machine
end

