-- ==== Sys2Proof/Machine/System.lean ====
section
/-! DEFINITION. Instructions that steer issue, the mode and control registers (R145 to R153, R86, R88), trap instructions,
service calls and the return from a handler (R399 to R408). -/

namespace Sys2Proof.Machine

/-- WAIT (R146). -/
def execWait (i : BitVec 24) (s : State) : Host.Outcome State Fault Refusal :=
  issue (.wait i) {} (fun _ s => if depMet s s.curTeam (waitLimits i) then .done s else .wait s (waitLimits i)) s

/-- YIELD (R147): the quantum is used up, and the place goes to a ready pending team. -/
def execYield (s : State) : Host.Outcome State Fault Refusal :=
  issue .yield {}
    (fun _ s =>
      let x := s.me
      .done (yieldPlace (s.putMe { x with flow := { x.flow with quantum := x.ctl.pquant.toNat } }) s.curTeam)) s

/-- SLEEP (R148): it completes once TMR has reached the value that it fixed when it first issued. -/
def execSleep (i : BitVec 16) (s : State) : Host.Outcome State Fault Refusal :=
  issue (.sleep i) {}
    (fun _ s =>
      let wake := match s.me.path.dep with
        | some (.sleep n) => n
        | _ => s.me.ctl.tmr.toNat + 16 * i.toNat
      if i = 0 || s.me.path.dep == some .met || wake ≤ s.me.ctl.tmr.toNat then .done s else .wait s (.sleep wake)) s

/-- MODE (R149). -/
def execMode (i : BitVec 24) (s : State) : Host.Outcome State Fault Refusal :=
  issue (.mode i) {}
    (fun _ s => if mrOk i then .done (s.putMe { s.me with ctl := { s.me.ctl with mr := i } }) else illegal (.mode i) s) s

/-- MODEX (R149). -/
def execModex (d a b : Byte) (s : State) : Host.Outcome State Fault Refusal :=
  issue (.modex d a b) { legal := fun _ => isSZ d && isS a && isS b, regs := [d, a, b] }
    (fun w s =>
      let x := s.me
      let va := rd w a 0
      let vb := rd w b 0
      let new := (x.ctl.mr &&& ~~~(vb.setWidth 24)) ||| (va.setWidth 24 &&& vb.setWidth 24)
      if va.extractLsb' 24 8 != 0 || vb.extractLsb' 24 8 != 0 || !mrOk new then illegal (.modex d a b) s
      else .done (s.putMe { x with regs := wrS x.regs d (x.ctl.mr.setWidth 32), ctl := { x.ctl with mr := new } })) s

/-- PRIO (R150): the hint stands in the D byte of the word (log 11); its range is the instruction's own check (R145, R156). -/
def execPrio (s : State) : Host.Outcome State Fault Refusal :=
  issue .prio { legal := fun _ => s.ir.extractLsb' 0 16 == 0, mode := fun _ => s.ir.extractLsb' 18 6 == 0 }
    (fun _ s => .done (s.putMe { s.me with ctl := { s.me.ctl with prio := s.ir.extractLsb' 16 2 } })) s

/-- No value stands twice in a list. -/
def distinct : List Nat → Bool
  | [] => true
  | x :: r => !r.contains x && distinct r

/-- GANG (R151). -/
def execGang (a : Byte) (s : State) : Host.Outcome State Fault Refusal :=
  issue (.gang a) { legal := fun _ => isS a, regs := [a] }
    (fun w s =>
      let v := rd w a 0
      let g := v.setWidth 13
      let x := s.me
      let l := s.launchOf s.curTeam
      let n := gangN g
      let ts := gangTeams s x.info.harness g
      if v.extractLsb' 13 19 != 0 || n = 1 || n = 7 || (n = 0 && g != 0) then illegal (.gang a) s
      else if n = 0 then .done (s.putMe { x with ctl := { x.ctl with gang := 0 } })
      else if l.roles.length ≤ gangRole g || (l.roles.getD (gangRole g) {}).teams ≤ gangT0 g + n - 1 ||
          !distinct (ts.map fun t => (s.team t).info.part) then illegal (.gang a) s
      else if !ts.contains s.curTeam then .fault 0x1B 0 0
      else .done (s.putMe { x with ctl := { x.ctl with gang := g } })) s

/-! ## Control registers -/

/-- TSTAT (R86). -/
def tstat (x : Team) : Word :=
  w32 (x.flow.path * 16 + x.ctl.parked.toNat * 8 + x.isHalted.toNat * 4 + x.ctl.inh.toNat * 2 + x.ctl.step.toNat)

/-- A control register, high halves of counters live; none where R86, R237 and R403 list no register. -/
def readCr (s : State) (t n : Nat) : Option Word :=
  let x := s.team t
  let c := x.ctl
  let cyc := (s.core x.info.core).cyc
  match n with
  | 0x00 => some (tstat x)
  | 0x01 => some (c.tvec.setWidth 32)
  | 0x02 => some ((c.tpcMwi ++ c.tpcPc).setWidth 32)
  | 0x03 => some (c.tcause.setWidth 32)
  | 0x04 => some c.taddrLo
  | 0x05 => some c.taddrHi
  | 0x06 => some (c.pquant.setWidth 32)
  | 0x07 => some c.cmpHeld
  | 0x08 => some (c.tmrcmp.extractLsb' 32 32)
  | 0x09 => some (cyc.setWidth 32)
  | 0x0A => some (cyc.extractLsb' 32 32)
  | 0x0B => some (c.tmr.setWidth 32)
  | 0x0C => some (c.tmr.extractLsb' 32 32)
  | 0x0D => some (c.svcring.setWidth 32)
  | 0x0E => some c.bfwin
  | 0x0F => some (c.ssp.setWidth 32)
  | 0x10 => some (c.tmode.setWidth 32)
  | 0x11 => some (c.ssplim.setWidth 32)
  | 0x12 => some (w32 (s.harnessOf t).dom.rounds)
  | 0x13 => some (w32 (s.launchOf t).xdom.rounds)
  | 0x14 => some (c.pflt.setWidth 32)
  | _ => none

/-- The snapshot that an RDCR of register `n` leaves (R88). -/
def snapAfter (s : State) (t n : Nat) : Option (Bool × Word) :=
  let x := s.team t
  if n = 0x09 then some (true, (s.core x.info.core).cyc.extractLsb' 32 32)
  else if n = 0x0B then some (false, x.ctl.tmr.extractLsb' 32 32)
  else none

/-- What an RDCR of register `n` returns: a high half read right after its low half is the snapshot (R88). -/
def rdcrValue (s : State) (t n : Nat) : Option Word :=
  match (s.team t).ctl.snap, n with
  | some (true, v), 0x0A => some v
  | some (false, v), 0x0C => some v
  | _, _ => readCr s t n

/-- RDCR (R152). -/
def execRdcr (d : Byte) (i : BitVec 16) (s : State) : Host.Outcome State Fault Refusal :=
  issue (.rdcr d i) { legal := fun _ => isSZ d, mode := fun _ => i.toNat ≤ 0x14, regs := [d] }
    (fun _ s =>
      match rdcrValue s s.curTeam i.toNat with
      | none => illegal (.rdcr d i) s
      | some v =>
        let x := s.me
        .done (s.putMe { x with
          regs := wrS x.regs d v, ctl := { x.ctl with snap := snapAfter s s.curTeam i.toNat } })) s

/-- The bits of a control register that WRCR may write; none where it may not (R86, R152). -/
def crWidth (n : Nat) : Option Nat :=
  match n with
  | 0x00 => some 1
  | 0x01 => some 22
  | 0x02 => some 27
  | 0x06 => some 16
  | 0x07 => some 32
  | 0x08 => some 32
  | 0x0D => some 8
  | 0x0E => some 32
  | 0x0F => some 21
  | 0x10 => some 24
  | _ => none

/-- A write of a control register, its value checked before (R86, R88). -/
def writeCr (c : Ctl) (n : Nat) (v : Word) : Ctl :=
  match n with
  | 0x00 => { c with step := v.getLsbD 0 }
  | 0x01 => { c with tvec := v.setWidth 22 }
  | 0x02 => { c with tpcPc := v.setWidth 22, tpcMwi := v.extractLsb' 22 5 }
  | 0x06 => { c with pquant := if v = 0 then 32 else v.setWidth 16 }
  | 0x07 => { c with cmpHeld := v }
  | 0x08 => { c with tmrcmp := v ++ c.cmpHeld }
  | 0x0D => { c with svcring := v.setWidth 8 }
  | 0x0E => { c with bfwin := if v = 0 then 2000 else v }
  | 0x0F => { c with ssp := v.setWidth 21 }
  | 0x10 => { c with tmode := v.setWidth 24 }
  | _ => c

/-- Whether WRCR, or a debugger, may write `v` to register `n` (R152, R431). -/
def crAllows (n : Nat) (v : Word) : Bool :=
  match crWidth n with
  | some k => v.toNat < 2 ^ k
  | none => false

/-- WRCR (R152); a reserved bit that is 1 makes it illegal, which R2 would have ignored (log 118). -/
def execWrcr (d : Byte) (i : BitVec 16) (s : State) : Host.Outcome State Fault Refusal :=
  issue (.wrcr d i) { legal := fun _ => isS d, mode := fun _ => (crWidth i.toNat).isSome, regs := [d] }
    (fun w s =>
      let v := rd w d 0
      let x := s.me
      if !crAllows i.toNat v then illegal (.wrcr d i) s
      else if i = 1 && codeWords (s.launchOf s.curTeam) ≤ v.toNat then .fault 0x04 v 0
      else .done (s.putMe { x with ctl := writeCr x.ctl i.toNat v })) s

/-- RDTM (R153). -/
def execRdtm (d a : Byte) (s : State) : Host.Outcome State Fault Refusal :=
  issue (.rdtm d a) { legal := fun _ => isS d && evenReg d, mode := fun _ => a.toNat ≤ 1, regs := [d] }
    (fun w s =>
      let v := if a = 0 then s.me.ctl.tmr else (s.core s.me.info.core).cyc
      .done (s.putRegs (wrSs w.regs d [v.setWidth 32, v.extractLsb' 32 32]))) s

/-! ## Traps -/

/-- A trap instruction: counted as issued, resuming after it (R395, R400). -/
def trapAfter (w : View) (s : State) (cause : Byte) (lo hi : Word) : State :=
  let t := s.curTeam
  let x := s.me
  if x.ctl.inh then doubleFault s t cause
  else
    takeTrap (countIssue { x with ctl := { x.ctl with step := false } } (passesOf {} w) true s t) t cause (x.path.pc + 1) 0 lo hi

def execTrap (i : BitVec 16) (s : State) : Host.Outcome State Fault Refusal :=
  issue (.trap i) {} (fun w s => .stop (trapAfter w s 0x28 (i.setWidth 32) 0)) s

def execBkpt (i : BitVec 16) (s : State) : Host.Outcome State Fault Refusal :=
  issue (.bkpt i) {} (fun w s => .stop (trapAfter w s 0x2A (i.setWidth 32) 0)) s

/-- RTT (R401). -/
def execRtt (s : State) : Host.Outcome State Fault Refusal :=
  issue .rtt {}
    (fun w s =>
      let x := s.me
      if !x.ctl.inh || !mrOk x.ctl.tmode then illegal .rtt s
      else if codeWords (s.launchOf s.curTeam) ≤ x.ctl.tpcPc.toNat then .fault 0x04 (x.ctl.tpcPc.setWidth 32) 0
      else .stop (countIssue x (passesOf {} w) true (s.putMe x.leave) s.curTeam)) s

/-- TMRSET (R402). -/
def execTmrset (a : Byte) (s : State) : Host.Outcome State Fault Refusal :=
  issue (.tmrset a) { legal := fun _ => isS a, regs := [a] }
    (fun w s =>
      let v := rd w a 0
      let x := s.me
      .done (s.putMe { x with ctl := { x.ctl with tmrcmp := if v = 0 then 0 else x.ctl.tmr + v.setWidth 64 } })) s

/-! ## Service calls -/

/-- The bound service ring of a number (R405). -/
def ringOf (l : Launch) (n : Nat) : Option SvcRing := l.rings.find? (·.ring == n)

def Launch.putRing (l : Launch) (r : SvcRing) : Launch := { l with rings := l.rings.map fun q => if q.ring == r.ring then r else q }

/-- The bytes the device writes of one service entry (R406). -/
def svcEntry (x : Team) (n : Word) (k : Nat) : List Byte :=
  let id := w32 (x.info.cid * 2 ^ 20 + x.info.role * 2 ^ 18 + x.info.tid * 2 ^ 10 + k)
  ([0, n, id, 0] ++ (List.range 6).map fun j => getV x.regs j k).flatMap fun w => leBytes 4 w.toNat

/-- Bytes stored in the queue memory of a function. -/
def putQmem (s : State) (f a : Nat) (bs : List Byte) : State :=
  s.putFunc f { s.func f with qmem := memStore (s.func f).qmem a bs }

def entryAddr (r : SvcRing) (i : Word) : Nat := r.base + 64 + 64 * (i.toNat % 2 ^ r.logn)

/-- The entries of lanes `ks` written from the ring's TAIL on, and TAIL after them (R407). -/
def writeEntries (s : State) (f : Nat) (x : Team) (n : Word) (r : SvcRing) : Word → List Nat → State
  | _, [] => s
  | i, k :: ks => writeEntries (putQmem s f (entryAddr r i) (svcEntry x n k)) f x n r (i + 1) ks

/-- The cycles from the end of an SVC's wait to the advance of TAIL over its `n` entries (R413). -/
def callCycles (n : Nat) : Nat := 240 + (n + 31) / 32

/-- SVC with a bound ring and room for its entries, its wait over: the entries and TAIL come when R413 says, the parking in the cycle
after, and the team fetches nothing before that (R407). -/
def serviceCall (s : State) (t : Nat) (n : Word) (r : SvcRing) (ks : List Nat) : State :=
  let id := s.nextId
  let c := callCycles ks.length
  let s := startOp (askIn (askIn s c (.call n r.ring ks)) (c + 1) .park) .hold []
  s.putTeam t { s.team t with fetch := [id] }

/-- Entries of a ring that are still to be written, of SVCs whose wait is over (R407, R413). -/
def callsUnder (s : State) (l ring : Nat) : Nat :=
  s.late.foldl (fun n x => match x.party, x.ask with
    | .team t, some (.call _ r ks) => if r = ring ∧ (s.team t).info.launch = l then n + ks.length else n
    | _, _ => n) 0

/-- The entries of an SVC of team `t` written, TAIL advanced over them, the event message (R407). -/
def writeCall (s : State) (t : Nat) (n : Word) (ring : Nat) (ks : List Nat) : State :=
  let x := s.team t
  let f := s.fnOf t
  match ringOf (s.launchOf t) ring with
  | none => s
  | some r =>
    let s := writeEntries s f x n r r.tail ks
    let tail := r.tail + w32 ks.length
    let s := putQmem s f r.base (leBytes 4 tail.toNat)
    let s := s.putLaunch x.info.launch ((s.launch x.info.launch).putRing { r with tail := tail })
    let s := if r.evt then sendEvent s f 5 [w32 r.ring, tail] else s
    s.putTeam t { s.team t with svc := (List.range ks.length).map fun j => ((r.tail + w32 j).toNat, ks.getD j 0), svcOn := r.ring }

/-- A team parked (R407). -/
def parkTeam (s : State) (t : Nat) : State :=
  leaveSets (s.putTeam t { s.team t with ctl := { (s.team t).ctl with parked := true } }) t .parked

/-- SVC (R407); entries that earlier SVCs have still to write count as written in its wait for room (R413). -/
def execSvc (i : BitVec 16) (s : State) : Host.Outcome State Fault Refusal :=
  issue (.svc i) {}
    (fun w s =>
      let x := s.me
      let ks := runLanes w
      match (if x.ctl.svcring = 0 then none else ringOf (s.launchOf s.curTeam) x.ctl.svcring.toNat) with
      | none => .stop (trapAfter w s 0x29 (i.setWidth 32) (x.ctl.svcring.setWidth 32))
      | some r =>
        if ks = [] then .done s
        else if x.deps.l != 0 || x.deps.s != 0 || 2 ^ r.logn < (r.tail - r.head).toNat + callsUnder s x.info.launch r.ring + ks.length then .wait s .retry
        else .done (serviceCall s s.curTeam (i.setWidth 32) r ks)) s

end Sys2Proof.Machine
end

