-- ==== Sys2Proof/Machine/Barriers.lean ====
section
/-! DEFINITION. Barrier slots: updates (R323 to R325), the barrier instructions of teams (R326 to R334). -/

namespace Sys2Proof.Machine

/-- A graded record: grade, generation, input index (R323). -/
structure Rec where
  grade : Nat
  gen   : Nat
  input : Nat
  deriving DecidableEq, Repr

/-- The fields of words 0 to 3 of a slot (R322). -/
structure SlotFields where
  exp   : Nat
  pend  : Nat
  bytes : Nat
  done  : Nat
  snew  : Bool
  hgen  : Nat
  lgrd  : Nat
  mask  : Word
  deriving DecidableEq, Repr

def SlotFields.read (w0 w1 w2 w3 : Word) : SlotFields where
  exp := (w0.extractLsb' 16 16).toNat
  pend := (w0.extractLsb' 0 16).toNat
  bytes := w1.toNat
  done := (w2.extractLsb' 16 16).toNat
  snew := w2.getLsbD 8
  hgen := (w2.extractLsb' 3 5).toNat
  lgrd := (w2.extractLsb' 1 2).toNat
  mask := w3

/-- PHASE always equals bit 0 of DONE (R322). -/
def SlotFields.words (x : SlotFields) : List Word :=
  [w32 (x.exp * 65536 + x.pend), w32 x.bytes,
    w32 (x.done * 65536 + x.snew.toNat * 256 + x.hgen * 8 + x.lgrd * 2 + x.done % 2), x.mask]

/-- The summary after a graded record (R323). -/
def SlotFields.record (x : SlotFields) (r : Rec) : SlotFields :=
  let y : SlotFields := if x.snew then { x with lgrd := 3, hgen := 0, mask := 0, snew := false } else x
  { y with lgrd := min y.lgrd r.grade, hgen := max y.hgen r.gen, mask := y.mask ||| BitVec.twoPow 32 r.input }

/-- Update of R323 with `a` arrivals, a byte change and a record. -/
def SlotFields.update (x : SlotFields) (a : Bool) (b : Int) (r : Option Rec) : SlotFields :=
  let y := match r with
    | some r => x.record r
    | none => x
  let y := { y with
    pend := if a then y.pend - 1 else y.pend
    bytes := ((y.bytes + b) % 2 ^ 32).toNat }
  if y.pend = 0 ∧ y.bytes = 0 then { y with done := (y.done + 1) % 65536, pend := y.exp, snew := true } else y

def Harness.slotAt (h : Harness) (slot : Nat) : SlotFields :=
  .read (slotWord h slot 0) (slotWord h slot 1) (slotWord h slot 2) (slotWord h slot 3)

def Harness.putSlot (h : Harness) (slot : Nat) (x : SlotFields) : Harness :=
  { h with shared := memStore h.shared slot (x.words.flatMap fun w => leBytes 4 w.toNat) }

/-- Whether an entry of the path table waits on a slot for an epoch that `ok` accepts. -/
def waitsBarrier (slot : Nat) (ok : Nat → Bool) : Option Path → Bool
  | some p => match p.dep with
    | some (.barrier k e) => k == slot && ok e
    | _ => false
  | none => false

/-- The waits of a team on a slot ended with `d` where `ok` accepts the epoch. -/
def Team.endWaits (t : Team) (slot : Nat) (ok : Nat → Bool) (d : Dep) : Team :=
  if t.flow.paths.any (waitsBarrier slot ok) then
    { t with
      flow := { t.flow with
        paths := t.flow.paths.map fun p => if waitsBarrier slot ok p then p.map fun q => { q with dep := some d } else p } }
  else t

/-- The same for every team of a harness. -/
def endBarrierWaits (s : State) (h slot : Nat) (ok : Nat → Bool) (d : Dep) : State :=
  { s with teams := s.teams.map fun t => if t.info.harness = h then t.endWaits slot ok d else t }

/-- A completed phase of a fill slot marks the next row of its streams filled (R293). -/
def Harness.fillRows (h : Harness) (slot : Nat) : Harness :=
  { h with streams := h.streams.map fun x => x.map fun y => if y.fill = slot then { y with filled := y.filled + 1 } else y }

/-- One update of a slot (R323), none when it is not live (R325); a flip fills a stream row, and completes the BWAITs
whose test then holds (R331). -/
def slotUpdate (s : State) (h slot : Nat) (a : Bool) (b : Int) (r : Option Rec) : State :=
  let x := s.harness h
  if x.isLive slot then
    let old := x.slotAt slot
    let new := old.update a b r
    let y := x.putSlot slot new
    let y := if new.done = old.done then y else y.fillRows slot
    endBarrierWaits (s.putHarness h y) h slot (epochTest y slot) .met
  else s

/-- The checks 2 to 5 of R327. -/
def slotFault (s : State) (init : Bool) (slot : Nat) : Option Eff :=
  let h := s.harness s.curHarness
  if slot % 16 != 0 then some (.fault 0x03 (w32 slot) 0)
  else if Config.sharedBytes ≤ slot then some (.fault 0x04 (w32 slot) 0)
  else if init && h.locks.any fun l => slot < l.hi && l.lo < slot + 16 then some (.fault 0x05 (w32 slot) 0)
  else if init && h.isLive slot then some (.fault 0x06 (w32 slot) 0)
  else if !init && !h.isLive slot then some (.fault 0x04 (w32 slot) 0)
  else none

/-- The body of a barrier instruction: its checks, then `f` on the slot address. -/
def barrierBody (init : Bool) (a : Byte) (f : View → State → Nat → Eff) (w : View) (s : State) : Eff :=
  let slot := (rd w a 0).toNat
  match slotFault s init slot with
  | some e => e
  | none => f w s slot

/-- What R98 needs of a barrier instruction (R326). -/
def rulesBarrier (regs : List Byte) (ok : Bool) : Rules where
  legal := fun _ => ok
  regs := regs

/-- The effect of a barrier instruction that writes its slot at once: it waits for the reads of its path that have still to be fixed
before its write is seen (R366; log 102). -/
def writesSlot (s s' : State) : Eff := if readsLate s s.curMask then .wait s .retry else .done s'

/-- BINIT (R328). -/
def execBinit (a b : Byte) (s : State) : Host.Outcome State Fault Refusal :=
  issue (.binit a b) (rulesBarrier [a, b] (isS a && isS b))
    (fun w s =>
      let e := rd w b 0
      if e = 0 || e.extractLsb' 16 16 != 0 then .fault 0x01 (rd w a 0) 0
      else
        barrierBody true a (fun _ s slot =>
          let h := s.harness s.curHarness
          let h := h.putSlot slot
            { exp := e.toNat, pend := e.toNat, bytes := 0, done := 0, snew := false, hgen := 0, lgrd := 3, mask := 0 }
          writesSlot s (s.putHarness s.curHarness { h with live := sset 0 h.live slot 1 })) w s) s

/-- STORE_PERFORMED: S falls (R89, R228), with a BARR's update (R329). -/
def execStorePerformed (s : State) : Host.Outcome State Fault Refusal :=
  .next <|
    match s.ops.find? fun o => o.id == s.ev.id && o.kind == .store && !s.hasLate o.id && !fenced s o.after with
    | some o => endOp (match o.slot with | some (h, k) => slotUpdate s h k true 0 none | none => s) o
    | none => s

/-- A BARR's arrival: at once when a FENCE #3, #1 would find nothing to wait for, else once that has been performed; meanwhile it
counts in S (R329). -/
def arrive (w : View) (s : State) (slot : Nat) : State :=
  let ids := fenceIds s w.mask 1 3
  if ids = [] then slotUpdate s s.curHarness slot true 0 none
  else
    startPend s { id := s.nextId, party := s.cur, kind := .store, pc := issuePc s, after := ids, slot := some (s.curHarness, slot) } []

/-- BARR (R329). -/
def execBarr (a : Byte) (s : State) : Host.Outcome State Fault Refusal :=
  issue (.barr a) (rulesBarrier [a] (isS a)) (barrierBody false a fun w s slot => .done (arrive w s slot)) s

/-- BEXP (R330): its update is performed in its wave, and S counts it no longer. -/
def execBexp (a b : Byte) (s : State) : Host.Outcome State Fault Refusal :=
  issue (.bexp a b) (rulesBarrier [a, b] (isS a && isS b))
    (barrierBody false a fun w s slot => writesSlot s (slotUpdate s s.curHarness slot false (rd w b 0).toNat none)) s

/-- The epoch of BWAIT and BTRY (R331). -/
def epochOf (w : View) (b : Byte) : Nat := ((rd w b 0).extractLsb' 0 16).toNat

/-- BWAIT (R331). -/
def execBwait (a b : Byte) (s : State) : Host.Outcome State Fault Refusal :=
  issue (.bwait a b) (rulesBarrier [a, b] (isS a && isSZ b))
    (fun w s =>
      match s.me.path.dep with
      | some .met => .done s
      | some (.lost slot) => .fault 0x04 (w32 slot) 0
      | _ =>
        barrierBody false a (fun w s slot =>
          if epochTest (s.harness s.curHarness) slot (epochOf w b) then .done s else .wait s (.barrier slot (epochOf w b))) w s) s

/-- BTRY (R332). -/
def execBtry (d a b : Byte) (s : State) : Host.Outcome State Fault Refusal :=
  issue (.btry d a b) (rulesBarrier [d, a, b] (isS d && isS a && isSZ b))
    (barrierBody false a fun w s slot =>
      .done (s.putRegs (wrS w.regs d (if epochTest (s.harness s.curHarness) slot (epochOf w b) then 1 else 0)))) s

/-- BRET (R328): teams that still wait on the slot take cause 0x04 at their BWAIT (R331). -/
def execBret (a : Byte) (s : State) : Host.Outcome State Fault Refusal :=
  issue (.bret a) (rulesBarrier [a] (isS a))
    (barrierBody false a fun _ s slot =>
      let h := s.harness s.curHarness
      let s := s.putHarness s.curHarness { h with live := sset 0 h.live slot 0 }
      .done (endBarrierWaits s s.curHarness slot (fun _ => true) (.lost slot))) s

/-- BGRD (R333). -/
def execBgrd (d a : Byte) (s : State) : Host.Outcome State Fault Refusal :=
  issue (.bgrd d a) (rulesBarrier [d, a] (isS d && evenReg d && isS a))
    (barrierBody false a fun w s slot =>
      let h := s.harness s.curHarness
      .done (s.putRegs (wrSs w.regs d [((slotWord h slot 2).extractLsb' 1 8).setWidth 32, slotWord h slot 3]))) s

end Sys2Proof.Machine
end

