-- ==== Sys2Proof/Machine/Transfers.lean ====
section
/-! DEFINITION. Transfers and copies: the checks at issue (R246, R249, R259), range locks (R250), what a transfer does
when it reads its source and when it completes (R247, R248, R253, R264), and copy batches (R91). -/

namespace Sys2Proof.Machine

/-- The spaces of a tensor descriptor (R257). -/
inductive Space where
  | shared | scratch | far
  deriving DecidableEq, Repr

/-- One contiguous run: its source, its destination, its length. -/
structure Run where
  sp  : Space
  sa  : Int
  dp  : Space
  da  : Int
  len : Nat
  deriving DecidableEq, Repr

/-- Bytes `a` to `a + n - 1` of die scratch lie in the share of a function (R221, R439). -/
def scratchOk (s : State) (f a n : Nat) : Bool :=
  a + n ≤ 2 ^ 29 && inShare s f (a % 2 ^ 27) && inShare s f ((a + n - 1) % 2 ^ 27) &&
    (a / 2 ^ 27 == (a + n - 1) / 2 ^ 27 || ((s.func f).sbase == 0 && (s.func f).slen.toNat * 65536 == 2 ^ 27))

/-- One side of a run lies in its space. -/
def sideOk (s : State) (f : Nat) (sp : Space) (a : Int) (n : Nat) : Bool :=
  match sp with
  | .shared => 0 ≤ a && a + n ≤ Config.sharedBytes
  | .scratch => 0 ≤ a && scratchOk s f a.toNat n
  | .far => 0 ≤ a && a + n ≤ 2 ^ 57

/-- The out-of-range fault of the first side of a run that does not lie in its space. -/
def rangeFault (s : State) (f : Nat) : List Run → Option Eff
  | [] => none
  | r :: rs =>
    if !sideOk s f r.sp r.sa r.len then some (.fault 0x04 (BitVec.ofInt 32 r.sa) 0)
    else if !sideOk s f r.dp r.da r.len then some (.fault 0x04 (BitVec.ofInt 32 r.da) 0)
    else rangeFault s f rs

/-- Whether bytes `a` to `a + n - 1` of shared memory meet a live barrier slot. -/
def liveHit (h : Harness) (a n : Nat) : Bool := h.live.any fun e => e.2 == 1 && e.1 < a + n && a < e.1 + 16

/-- The fault of a shared destination over a live barrier slot (R270, R340). -/
def liveFault (h : Harness) : List Run → Option Eff
  | [] => none
  | r :: rs => if r.dp == .shared && liveHit h r.da.toNat r.len then some (.fault 0x06 (BitVec.ofInt 32 r.da) 0) else liveFault h rs

/-- The result of a failed check of a page. -/
def Chk.eff (s : State) : Chk → Option Eff
  | .ok => none
  | .trap c a => some (.fault c (w32 a) (if c = 0x04 then 0 else w32 (a / 2 ^ 32)))
  | .host c va wr => some (.host s c va wr)
  | .refused c va => some (.refused c va)

/-- The places of one side of a run in its order; die scratch is split where a die ends. -/
def sidePlaces (s : State) (u : Unit') (f : Nat) (acc : Acc) (h : Nat) (sp : Space) (a n : Nat) : State × Resolved :=
  match sp with
  | .shared => (s, ⟨.ok, [(.shared h a, n)], []⟩)
  | .scratch =>
    let m := min n (2 ^ 27 - a % 2 ^ 27)
    (s, ⟨.ok, (Loc.scratch (a / 2 ^ 27) (a % 2 ^ 27), m) ::
      (if m < n then [(Loc.scratch (a / 2 ^ 27 + 1) 0, n - m)] else []), []⟩)
  | .far => resolve s u f acc a n

/-- Two lists of places of equal length in bytes cut into moves. -/
def zipSegs : Nat → List (Loc × Nat) → List (Loc × Nat) → List Seg
  | 0, _, _ => []
  | _, [], _ => []
  | _, _, [] => []
  | k + 1, (a, n) :: r, (b, m) :: q =>
    let l := min n m
    ⟨a, b, l⟩ :: zipSegs k (if l < n then (a.add l, n - l) :: r else r) (if l < m then (b.add l, m - l) :: q else q)

/-- What the runs resolve to: the failed check, or the moves and the pages used. -/
structure Moves where
  chk   : Chk
  segs  : List Seg
  pages : List (Nat × Nat × Nat)
  deriving DecidableEq, Repr

/-- The translations and page checks of all runs, source before destination (R246, R259). -/
def resolveRuns (u : Unit') (f h : Nat) (add : Bool) : State → List Run → State × Moves
  | s, [] => (s, ⟨.ok, [], []⟩)
  | s, r :: rs =>
    let (s, a) := sidePlaces s u f .read h r.sp r.sa.toNat r.len
    match a.chk with
    | .ok =>
      let (s, b) := sidePlaces s u f (if add then .add else .write) h r.dp r.da.toNat r.len
      match b.chk with
      | .ok =>
        let (s, m) := resolveRuns u f h add s rs
        (s, { m with
          segs := zipSegs (a.locs.length + b.locs.length + 1) a.locs b.locs ++ m.segs
          pages := a.pages ++ b.pages ++ m.pages })
      | c => (s, ⟨c, [], []⟩)
    | c => (s, ⟨c, [], []⟩)

def segBytes (l : List Seg) : Nat := l.foldl (fun n g => n + g.len) 0

/-! ## Range locks -/

/-- The smallest range that holds the shared bytes of a side, none when the side has none (R250). -/
def hull (l : List (Nat × Nat)) : Option (Nat × Nat) :=
  l.foldl (fun b x => match b with
    | none => some (x.1, x.1 + x.2)
    | some (lo, hi) => some (min lo x.1, max hi (x.1 + x.2))) none

def locShared : Loc → Option Nat
  | .shared _ a => some a
  | _ => none

/-- The entry of one side of a transfer or copy (R250). -/
def lockSide (id : Nat) (shuttle : Option Nat) (dest : Bool) (segs : List Seg) : List Lock :=
  match hull (segs.filterMap fun g => (locShared (if dest then g.dst else g.src)).map fun a => (a, g.len)) with
  | some (lo, hi) => [{ id := id, lo := lo, hi := hi, dest := dest, shuttle := shuttle }]
  | none => []

/-- The lock entries of a transfer or copy (R250). -/
def lockEntries (id : Nat) (shuttle : Option Nat) (segs : List Seg) : List Lock :=
  lockSide id shuttle false segs ++ lockSide id shuttle true segs

def freeLocks (s : State) (h id : Nat) (dest : Bool) : State :=
  let x := s.harness h
  s.putHarness h { x with locks := x.locks.filter fun l => !(l.id == id && l.dest == dest) }

/-! ## Batches -/

/-- Completed batches leave in number order (R91). -/
def settleBatches : List Batch → List Batch
  | [] => []
  | b :: r => if b.left = 0 && b.closed then settleBatches r else b :: r

/-- The team's open batch gets `n` more copies; its number (R89, R91). -/
def Deps.joinBatch (d : Deps) (n : Nat) : Deps :=
  match d.batches.getLast? with
  | some b =>
    if b.closed then { d with batches := d.batches ++ [{ no := d.next, left := n, closed := false }] }
    else { d with batches := d.batches.dropLast ++ [{ b with left := b.left + n }] }
  | none => { d with batches := [{ no := d.next, left := n, closed := false }] }

/-- One copy or graded write of batch `no` completes. -/
def Deps.leaveBatch (d : Deps) (no : Word) : Deps :=
  { d with batches := settleBatches (d.batches.map fun b => if b.no = no then { b with left := b.left - 1 } else b) }

/-- SEAL: the open batch is closed, or an empty one (R91). -/
def Deps.seal (d : Deps) : Deps :=
  let d := d.joinBatch 0
  let bs := match d.batches.getLast? with
    | some b => d.batches.dropLast ++ [{ b with closed := true }]
    | none => []
  { d with batches := settleBatches bs, next := if d.next = 0xFFFFFFFF then 1 else d.next + 1 }

/-! ## Adding, and the order of adds -/

/-- Binary32 words added under NE (R264). -/
def addWords : Nat → List Byte → List Byte → List Byte
  | 0, _, _ => []
  | k + 1, a, b =>
    let x := Num.roundTo fmt32 .ne (Num.fadd .ne (Num.fval fmt32 (leNat (a.take 4))) (Num.fval fmt32 (leNat (b.take 4))))
    leBytes 4 x ++ addWords k (a.drop 4) (b.drop 4)

/-- The team of a copy's piece. -/
def State.copyTeam (s : State) (c : Option Nat) : Option Nat := (c.bind fun i => s.copies.find? (·.id == i)).map (·.team)

/-- Whether two transfers are accesses of one Shuttle's own. -/
def sameShuttle (x y : Transfer) : Bool := x.h == y.h && x.shuttle == y.shuttle && x.copy.isNone && y.copy.isNone

/-- Whether two transfers are pieces whose writes to one word keep the order of issue: of one ordered copy, or of adding
copies of one team (R263, R264). -/
def samePieces (s : State) (x y : Transfer) : Bool :=
  x.ordered && y.ordered && x.h == y.h && x.copy.isSome && y.copy.isSome &&
    (x.copy == y.copy || (x.add && y.add && s.copyTeam x.copy == s.copyTeam y.copy))

/-- Whether a place is a word of host memory, where the order of one party holds at the ports alone (R277, R365). -/
def Loc.isHost : Loc → Bool
  | .host _ => true
  | _ => false

/-- Whether the writes of `y` are still to come where they meet the places `l`: a host word's until a port has sent it. -/
def owes (y : Transfer) (l : List (Loc × Nat)) : Bool :=
  y.segs.any fun g => (y.sent.isNone || !g.dst.isHost) && l.any fun a => meets a.1 a.2 g.dst g.len

/-- The graded instructions in flight that the Shuttle of a transfer of its own issued before it. -/
def earlierGraded (s : State) (x : Transfer) : List GradedFlight :=
  if x.copy.isSome then [] else s.graded.filter fun g => g.id < x.id && g.party == .shuttle x.h x.shuttle

/-- Whether a GGET's cells, still to land, meet the places `l`. -/
def landsOn (g : GradedFlight) (l : List (Loc × Nat)) : Bool :=
  g.kind.isNone && l.any fun a => meets a.1 a.2 (.shared g.h g.sh) (256 * g.count)

/-- Whether two transfers are pieces of copies of one team. -/
def sameCopier (s : State) (x y : Transfer) : Bool := x.copy.isSome && y.copy.isSome && s.copyTeam x.copy == s.copyTeam y.copy

/-- Whether the reads of `y` are still to come where they meet the places `l`; reads of a host word are not ordered (R365). -/
def unread (y : Transfer) (l : List (Loc × Nat)) : Bool :=
  y.data.isNone && y.segs.any fun g => !g.src.isHost && l.any fun a => meets a.1 a.2 g.src g.len

/-- Whether accesses that come before a transfer still have to act: of its team for a copy's piece (R266), of its Shuttle for another
(R366). -/
def accessesLeft (s : State) (x : Transfer) : Bool :=
  match x.copy, s.copyTeam x.copy with
  | some c, some t => lateBefore s (.team t) c
  | some _, none => false
  | none, _ => lateBefore s (.shuttle x.h x.shuttle) x.id

/-- Whether the reads of a transfer wait: accesses come before it, an earlier access of its Shuttle still owes a word that it reads
(R277, R366), or has still to read it, as an earlier copy of its team may have (R364, R372). -/
def readWaits (s : State) (x : Transfer) : Bool :=
  let mine := x.segs.map fun g => (g.src, g.len)
  accessesLeft s x ||
    (s.transfers.any fun y =>
      y.id < x.id && ((sameShuttle x y && (owes y mine || unread y mine)) || (sameCopier s x y && unread y mine))) ||
    (earlierGraded s x).any (landsOn · mine)

/-- Whether an earlier copy of the same team still has bytes to read (R366). -/
def copyUnread (s : State) (team id : Nat) : Bool := s.copies.any fun c => c.team == team && c.id < id && c.unread != 0

/-- Whether the writes of a transfer wait: accesses come before it, an earlier access of its Shuttle, or an earlier copy of its team,
has a read to fix (R366), an earlier access of its Shuttle owes a word that it writes too (R364), or an earlier piece of its order
owes one (R263, R264). -/
def heldBack (s : State) (x : Transfer) : Bool :=
  let mine := x.segs.map fun g => (g.dst, g.len)
  x.reg.isNone &&
    (accessesLeft s x ||
      (s.transfers.any fun y =>
        y.id < x.id && ((sameShuttle x y && (y.data.isNone || owes y mine)) || (samePieces s x y && owes y mine))) ||
      (earlierGraded s x).any (fun g => g.kind.isSome || landsOn g mine) ||
      match s.copyTeam x.copy, x.copy with
      | some t, some c => copyUnread s t c
      | _, _ => false)

/-! ## The two events of a transfer -/

/-- The bytes of one source. -/
def readSeg (s : State) (x : Transfer) (g : Seg) : List Byte := portRead s (x.die s) x.port g.src g.len

/-- The bytes of the sources, in order. -/
def readSegs (s : State) (x : Transfer) : List Byte := x.segs.flatMap (readSeg s x)

/-- Bytes written, or added, to the destinations in order. -/
def writeSegs (add : Bool) : State → List Seg → List Byte → State
  | s, [], _ => s
  | s, g :: r, bs =>
    let new := bs.take g.len
    let out := if add then addWords (g.len / 4) (s.locBytes g.dst g.len) new else new
    writeSegs add (s.locStore g.dst out) r (bs.drop g.len)

/-- A transfer under way, with its program, its port and the events that end it. -/
def startTransfer (s : State) (x : Transfer) : State :=
  let x := { x with run := (s.shuttle x.h x.shuttle).run, port := freestPort s }
  let s : State := { s with transfers := s.transfers ++ [x] }
  let s := if x.data.isNone then s.post .lastSourceByteRead { id := x.id } else s
  s.post .transferComplete { id := x.id }

/-- LAST_SOURCE_BYTE_READ (R250): the source bytes are fixed and the source entry is freed. -/
def execLastSourceByteRead (s : State) : Host.Outcome State Fault Refusal :=
  .next <|
    match s.transfers.find? fun x => x.id == s.ev.id && x.data.isNone && !readWaits s x with
    | none => s
    | some x =>
      let s : State := { s with
        transfers := s.transfers.map fun y => if y.id = x.id then { y with data := some (readSegs s x) } else y }
      match x.copy with
      | none => freeLocks s x.h x.id false
      | some c =>
        let s : State := { s with copies := s.copies.map fun y => if y.id = c then { y with unread := y.unread - 1 } else y }
        if s.copies.any fun y => y.id == c && y.unread == 0 then freeLocks s x.h c false else s

/-- What a completed piece does to its copy: the last one frees the locks and counts in the batch (R258, R91). -/
def pieceDone (s : State) (c : Nat) : State :=
  match s.copies.find? fun y => y.id == c with
  | none => s
  | some y =>
    if y.pieces = [] ∧ y.flying ≤ 1 then
      let s : State := { s with copies := s.copies.filter fun z => z.id != c }
      let s := freeLocks (freeLocks s y.h c true) y.h c false
      let t := s.team y.team
      s.putTeam y.team { t with deps := t.deps.leaveBatch y.batch }
    else { s with copies := s.copies.map fun z => if z.id = c then { z with flying := z.flying - 1 } else z }

/-- Transfers of a Shuttle's own program in flight (R242, R246). -/
def inFlight (s : State) (h n : Nat) : List Transfer :=
  s.transfers.filter fun x => x.h == h && x.shuttle == n && x.copy.isNone && x.run == (s.shuttle h n).run

/-- Graded instructions of a Shuttle's program in flight; they count as its transfers (R242, R341). -/
def gradedFlights (s : State) (h n : Nat) : List GradedFlight :=
  s.graded.filter fun x => x.party == .shuttle h n && x.run == (s.shuttle h n).run

/-- How many transfers and graded instructions of a Shuttle are in flight. -/
def flights (s : State) (h n : Nat) : Nat := (inFlight s h n).length + (gradedFlights s h n).length

/-- Bytes of a Shuttle's transfers in flight (R246). -/
def flightBytes (s : State) (h n : Nat) : Nat :=
  (gradedFlights s h n).foldl (fun k x => k + 256 * x.count) ((inFlight s h n).foldl (fun k x => k + segBytes x.segs) 0)

/-- Room for `k` more bytes among the transfers in flight (R246). -/
def flightRoom (s : State) (h n k : Nat) : Bool := flights s h n < 16 && flightBytes s h n + k ≤ 65536

/-- A stop ends with the last of them (R269). -/
def endStop (s : State) (h n : Nat) : State :=
  let u := s.shuttle h n
  if u.state = 4 ∧ flights s h n = 0 then s.putShuttle h n { u with state := 0 } else s

/-- What a completed transfer of a Shuttle's own does there: XLD's word arrives and a stop ends (R277, R269). -/
def shuttleDone (s : State) (x : Transfer) (bs : List Byte) : State :=
  let u := s.shuttle x.h x.shuttle
  let u := match x.reg with
    | some (r, _) =>
      if u.marks.any (·.id == x.id) then
        { u with regs := wrS u.regs r (BitVec.ofNat 32 (leNat bs)), marks := u.marks.filter (·.id != x.id) }
      else u
    | none => u
  endStop (s.putShuttle x.h x.shuttle u) x.h x.shuttle

/-- The completed transfer or copy holds no translation any more (R422). -/
def dropHolder (s : State) (id : Nat) : State :=
  { s with funcs := s.funcs.map fun f => if f.invals = [] then f else { f with invals := f.invals.map fun l => l.filter (· != id) } }

/-- Whether a transfer writes to a peer or to host memory, through a port (R365). -/
def Transfer.leaves (s : State) (x : Transfer) : Bool := x.segs.any fun g => (x.portOf s g.dst).isSome

/-- The end of a transfer whose bytes `bs` have been written: its entry is freed, its barrier gets its bytes (R247, R248). -/
def finishTransfer (s : State) (x : Transfer) (bs : List Byte) : State :=
  let s : State := { s with transfers := s.transfers.filter fun y => y.id != x.id }
  let hh := s.harness x.h
  let s := s.putHarness x.h { hh with moved := hh.moved + BitVec.ofNat 64 (segBytes x.segs) }
  let s := match x.barrier with
    | some b => slotUpdate s x.h b false (-(segBytes x.segs : Int)) none
    | none => s
  match x.copy with
  | some c =>
    let s := pieceDone s c
    if s.copies.any (·.id == c) then s else dropHolder s c
  | none => dropHolder (shuttleDone (freeLocks (freeLocks s x.h x.id true) x.h x.id false) x bs) x.id

/-- The ports send the writes of a transfer and hold them from now on (R365). -/
def sendTransfer (s : State) (x : Transfer) : State :=
  let ts := s.transfers.map fun y => if y.id = x.id then { y with sent := some s.nextId } else y
  let s : State := { s.fresh with transfers := ts }
  s.post .transferComplete { id := x.id }

/-- The acknowledgement of a write of the IO die (R365): the home has applied it, and the port holds it no more; a remote add is
answered with the word that the home found (R43), and after an event message the next one of its function is sent (R442). -/
def ackPortWrite (s : State) (w : PortWrite) : State :=
  let found := if w.applied then w.found else s.locBytes w.loc 8
  let s : State := { s with portWrites := s.portWrites.filter (·.id != w.id) }
  let s := if w.applied then s else w.apply s
  match w.reply, w.event with
  | some (f, off), _ => { s with outbox := s.outbox ++ [.data f off found] }
  | none, some f => nextMessage s f
  | none, none => s

/-- TRANSFER_COMPLETE (R247, R248, R365): the bytes are written and the transfer ends; where they leave the module, the ports
first send them, and the home's acknowledgement is a second such step, before which the home may have applied them. The
acknowledgement of a write of the IO die is such a step too. -/
def execTransferComplete (s : State) : Host.Outcome State Fault Refusal :=
  .next <|
    match s.transfers.find? fun x => x.id == s.ev.id with
    | none =>
      match s.portWrites.find? fun x => x.id == s.ev.id && !sentBefore s x.held with
      | some w => ackPortWrite s w
      | none => s
    | some x =>
      match x.data with
      | none => s
      | some bs =>
        match x.held s with
        | none =>
          if heldBack s x then s
          else if x.leaves s then sendTransfer s x
          else finishTransfer (writeSegs x.add s x.segs bs) x bs
        | some y => if sentBefore s y then s else finishTransfer (if x.applied then s else writeSegs x.add s x.segs bs) x bs

end Sys2Proof.Machine
end

