-- ==== Sys2Proof/Machine/Traps.lean ====
section
/-! DEFINITION. The traps that become due and are taken at a boundary: step, watchpoint, Shuttle fault, timer, in this
order (R255, R394 to R396, R402, R412). -/

namespace Sys2Proof.Machine

/-- Whether a team stands at a boundary at which a due trap is taken: outside a handler, running, not halted, its current
path not held, but for a debugger's step of it, and not at a gang rendezvous, with no instruction whose wait is over still to complete, and its fetch not held
(R393, R396, R410, R412, R432, R433). -/
def atBoundary (s : State) (t : Nat) : Bool :=
  let x := s.team t
  coreTraps s x.info.harness && x.place == .active && !x.isHalted && !x.ctl.parked &&
    !x.ctl.inh && !x.due.halt && !fenced s x.fetch && (x.flow.paths.getD x.flow.path none).isSome && (!x.path.held || x.due.one.isSome) && x.path.dep != some .gang &&
    !x.path.isOver

/-- The boundary of a team at which its step or watchpoint trap is taken: of the path to which it is due (R395). -/
def atPathBoundary (s : State) (t : Nat) : Bool := atBoundary s t && (s.team t).path.join.isNone

/-- The step trap of a team, when it is taken now (R395). -/
def stepTrap (s : State) (t : Nat) : Option State :=
  let x := s.team t
  if atPathBoundary s t && x.path.step then
    some (takeTrap (s.putTeam t (x.putPath { x.path with step := false })) t 0x2D x.at.1 x.at.2 0 0)
  else none

/-- Whether the instruction that met a watchpoint has made all its accesses of shared memory (R229, R435). -/
def watchOver (s : State) (t : Nat) (a : WatchHit) : Bool := !s.late.any fun x => x.party == .team t && x.issued == a.issued

/-- The watchpoint trap of a team, when it is taken now (R435): TADDR holds the address stored. -/
def watchTrap (s : State) (t : Nat) : Option State :=
  let x := s.team t
  match x.path.watch with
  | a :: r =>
    if atPathBoundary s t && !x.path.step && watchOver s t a then
      some (takeTrap (s.putTeam t (x.putPath { x.path with watch := r })) t 0x2B x.at.1 x.at.2 (w32 a.addr) 0)
    else none
  | [] => none

/-- The state in which the next trap that belongs to no path is taken: the next path chosen when the current one gives way, or when
it has ended and no path can issue the next live one (R395, R402, R433). -/
def trapPath (s : State) (t : Nat) : State := if (s.team t).pathTrap then s else standIn (settle s t) t

/-- The Shuttle-fault trap of a team, when it is taken now (R255): the oldest one; TADDR holds the Shuttle's number and its CAUSE. -/
def shuttleTrap (s : State) (t : Nat) : Option State :=
  let s' := trapPath s t
  let x := s'.team t
  match x.due.shuttle with
  | (n, c) :: r =>
    if atBoundary s' t && !x.pathTrap then
      some (takeTrap (s'.putTeam t { x with due := { x.due with shuttle := r } }) t 0x31 x.at.1 x.at.2 (w32 n) (c.setWidth 32))
    else none
  | [] => none

/-- The timer trap of a team, when it is taken now (R402). -/
def timerTrap (s : State) (t : Nat) : Option State :=
  let s' := trapPath s t
  let x := s'.team t
  if atBoundary s' t && x.due.timer && !x.pathTrap && x.due.shuttle = [] then
    some (takeTrap (s'.putTeam t { x with due := { x.due with timer := false } }) t 0x2C x.at.1 x.at.2 0 0)
  else none

/-- STEP_TRAP, WATCHPOINT_TRAP, SHUTTLE_FAULT_TRAP, TIMER_TRAP. -/
def execStepTrap (s : State) : Host.Outcome State Fault Refusal := .next ((stepTrap s s.ev.team).getD s)
def execWatchpointTrap (s : State) : Host.Outcome State Fault Refusal := .next ((watchTrap s s.ev.team).getD s)
def execShuttleFaultTrap (s : State) : Host.Outcome State Fault Refusal := .next ((shuttleTrap s s.ev.team).getD s)
def execTimerTrap (s : State) : Host.Outcome State Fault Refusal := .next ((timerTrap s s.ev.team).getD s)

/-- The trap that a team takes now, the first that is due in the order of R412. -/
def dueTrap (s : State) (t : Nat) : Option State :=
  (stepTrap s t).or ((watchTrap s t).or ((shuttleTrap s t).or (timerTrap s t)))

/-- The resident harness of a core, when a swap of it has been asked for in this cycle. -/
def askedNow (s : State) (k : Core) : Option Nat :=
  k.resident.filter fun h => (k.preempt && k.preemptAt == s.time) || ((s.harness h).blocked && (s.harness h).blockedAt == s.time)

/-- The end of a cycle in which the swap of a harness has been asked for: what is due to its teams is taken before that (R412). -/
def endCycle (s : State) : State :=
  (s.cores.filterMap (askedNow s)).foldl (fun s h => (teamsOf s h).foldl (fun s t => (dueTrap s t).getD s) s) s

end Sys2Proof.Machine
end

