-- ==== Sys2Proof/Machine/Debug.lean ====
section
/-! DEFINITION. The trace ring and its records, stall samples (R426 to R430), the debug registers' commands (R431 to R433),
watchpoints (R434, R435), counters and instruction memory (R436, R437). -/

namespace Sys2Proof.Machine

/-! ## The trace ring -/

/-- A record entered in the ring of a launch, or dropped when the ring is full (R426). -/
def traceRecord (l : Nat) (s : State) (ws : List Word) : State :=
  let x := s.launch l
  match x.trace with
  | none => s
  | some r =>
    if 2 ^ r.logn < (r.tail + 1 - memWord (s.func x.f).qmem (r.base + 4)).toNat then
      let r := { r with drops := r.drops + 1 }
      putQmem (s.putLaunch l { x with trace := some r }) x.f (r.base + 8) (leBytes 4 r.drops.toNat)
    else
      let s := putQmem s x.f (r.base + 64 + 32 * (r.tail.toNat % 2 ^ r.logn)) (ws.flatMap fun w => leBytes 4 w.toNat)
      let r := { r with tail := r.tail + 1 }
      let s := putQmem (s.putLaunch l { x with trace := some r }) x.f r.base (leBytes 4 r.tail.toNat)
      if r.evt && r.tail.toNat % 64 = 0 then sendEvent s x.f 6 [r.tail] else s

/-- Words 0 to 3 of a record (R427). -/
def recordHead (kind : Nat) (x : Team) (path pc : Nat) (tmr : BitVec 64) : List Word :=
  let i := x.info
  [w32 (kind * 2 ^ 28 + path * 2 ^ 24 + i.role * 2 ^ 22 + i.tid * 2 ^ 14 + i.part * 2 ^ 11 + i.cid), w32 pc,
    tmr.setWidth 32, tmr.extractLsb' 32 32]

/-- The record of an instruction of the current team. -/
def instrRecord (kind : Nat) (s : State) (payload : List Word) : State :=
  let x := s.me
  traceRecord x.info.launch s (recordHead kind x x.flow.path x.path.pc x.ctl.tmr ++ payload)

/-- What R98 needs of an instruction of R429. -/
def rulesDebug (regs : List Byte) (ok : Bool) : Rules where
  legal := fun _ => ok
  regs := regs
  passes := some 1

/-- TRACE (R430). -/
def execTrace (d : Byte) (i : BitVec 16) (s : State) : Host.Outcome State Fault Refusal :=
  issue (.trace d i) (rulesDebug [d] (isSZ d)) (fun w s => .done (instrRecord 1 s [i.setWidth 32, rd w d 0, 0, 0])) s

/-- PREC (R430): it waits in the active set until L, S, C and M are 0. -/
def execPrec (a : Byte) (s : State) : Host.Outcome State Fault Refusal :=
  issue (.prec a) (rulesDebug [a] (isBase 4 a))
    (fun w s =>
      let d := s.me.deps
      if d.l != 0 || d.s != 0 || d.c != 0 || d.m != 0 then .wait s .retry
      else .done (instrRecord 2 s ((List.range 4).map (rdS w a)))) s

/-- The payloads of DBGMSG: 16 bytes each, zero-filled (R430). -/
def messageWords (m : Memory) (a n : Nat) : List (List Word) :=
  (List.range ((n + 15) / 16)).map fun j =>
    (List.range 4).map fun i => if 16 * j + 4 * i < n then memWord m (a + 16 * j + 4 * i) else 0

/-- DBGMSG (R430). -/
def execDbgmsg (a b : Byte) (s : State) : Host.Outcome State Fault Refusal :=
  issue (.dbgmsg a b) (rulesDebug [a, b] (isS a && isS b))
    (fun w s =>
      let p := (rd w a 0).toNat
      let n := (rd w b 0).toNat
      if p % 4 != 0 then .fault 0x03 (w32 p) 0
      else if n % 4 != 0 || n < 4 || 64 < n then .fault 0x04 (w32 n) 0
      else
        match checkAccess s false .load 4 ((List.range (n / 4)).map fun i => ⟨0, p + 4 * i⟩) with
        | some e => e
        | none =>
          let s := (messageWords (s.harness s.curHarness).shared p n).foldl (instrRecord 3) s
          let tail := match (s.launchOf s.curTeam).trace with
            | some r => r.tail
            | none => 0
          .done (sendEvent s s.curFn 6 [tail])) s

/-! ## Stall samples -/

/-- The PC of the oldest operation in flight of a team that counts in L, S or M. -/
def oldestOp (s : State) (t : Nat) (k : OpKind) : Option Nat :=
  (s.ops.find? fun o => o.party == .team t && o.kind == k).map (·.pc)

/-- The PC of the oldest copy or graded instruction in flight of a team. -/
def oldestCopy (s : State) (t : Nat) : Option Nat :=
  match s.copies.find? (·.team == t), s.graded.find? (·.party == .team t) with
  | some c, some g => some (if c.id < g.id then c.pc else g.pc)
  | some c, none => some c.pc
  | none, some g => some g.pc
  | none, none => none

/-- BLAME of REASON 2: the first counter, in the order L, S, C, M, for which `past` holds. -/
def blameCounter (s : State) (t : Nat) (past : Nat → Bool) : Option Nat :=
  if past 0 then oldestOp s t .load
  else if past 1 then oldestOp s t .store
  else if past 2 then oldestCopy s t
  else if past 3 then oldestOp s t .wm
  else none

/-- The PC of the operation that occupies the WM of a word (R428). -/
def wmHolder (s : State) (x : Team) (w : Word) : Option Nat :=
  match wmOf w with
  | some n =>
    match ((s.core x.info.core).parts.getD x.info.part {}).busy.getD n none with
    | some id => (s.ops.find? (·.id == id)).map (·.pc)
    | none => none
  | none => none

/-- Which counter `i`, in the order L, S, C, M, stands at 63 and is raised by an opcode (R89). -/
def fullCounter (d : Deps) (op i : Nat) : Bool :=
  match i with
  | 0 => raisesL op && 63 ≤ d.l
  | 1 => raisesS op && 63 ≤ d.s
  | 2 => raisesC op && 63 ≤ d.c
  | _ => raisesM op && 63 ≤ d.m

/-- Which limit of a WAIT, in the order L, S, C, M, is not met (R146). -/
def unmet (d : Deps) (l st c m i : Nat) : Bool :=
  match i with
  | 0 => l < d.l
  | 1 => st < d.s
  | 2 => c < d.c
  | _ => m < d.m

/-- REASON and BLAME of a team in the present cycle (R428). A wait that the table does not name, as that of a held path whose team
issues nothing or of an SVC whose entries are still to come, has a REASON that is left open (log 12). -/
def reasonOf (s : State) (t : Nat) : Nat × Option Nat :=
  let x := s.team t
  let w := wordFor s (.team t)
  let d := x.deps
  let mul := isMul (opOf w)
  if x.isHalted then (8, none)
  else if x.place == .moving then (7, none)
  else if x.busy s.time || (x.perf.lastIssue = s.time ∧ x.perf.issued ≠ 0) then (0, none)
  else if fenced s x.fetch then
    match s.ops.find? fun o => x.fetch.contains o.id with
    | some o => if o.kind = .hold then ((Config.freeWord s.freeIx).toNat % 10, none) else (6, some o.pc)
    | none => (6, none)
  else if x.path.join.isSome || waitsLong s t x.path then (9, some x.path.pc)
  else if x.path.held && x.due.one.isNone then ((Config.freeWord s.freeIx).toNat % 10, none)
  else
    match x.path.dep with
    | some .gang => (5, none)
    | some (.counters l st c m) =>
      if depMet s t (.counters l st c m) then (3, none) else (2, blameCounter s t (unmet d l st c m))
    | some q =>
      if mul && q == .retry then (4, wmHolder s x w)
      else if depMet s t q && q != .retry then (3, none)
      else ((Config.freeWord s.freeIx).toNat % 10, none)
    | none =>
      if fenced s x.path.fence then ((Config.freeWord s.freeIx).toNat % 10, none)
      else if x.dormant && !isCounter (opOf w) then (3, none)
      else
        match x.stallMark w with
        | some m => (1, some m.pc)
        | none =>
          if x.dormant then (3, none)
          else if counterFull d (opOf w) (mul && (0xC8 ≤ opOf w || longSkips x (w.extractLsb' 8 8))) then
            (2, blameCounter s t (fullCounter d (opOf w)))
          else if wmBlocked s t w || rowBlocked x s w then (4, wmHolder s x w)
          else (3, none)

/-- The summary word of a mask: bit j for group j (R65). -/
def summaryOf (m : BitVec 1024) (grp : Nat) : Word :=
  w32 ((List.range grp).foldl (fun n j => if m.extractLsb' (32 * j) 32 = 0 then n else n + 2 ^ j) 0)

/-- The mask word of the lowest live group. -/
def lowestWord (m : BitVec 1024) (grp : Nat) : Word :=
  match (List.range grp).find? fun j => m.extractLsb' (32 * j) 32 != 0 with
  | some j => m.extractLsb' (32 * j) 32
  | none => 0

/-- A team as it stands `k` cycles from now, its timer and its waits that time ends with it: a JOIN whose deadline has come has been
left (R93, R148, R163). -/
def Team.later (s : State) (k : Nat) (x : Team) : Team :=
  let x := passTeam s k x
  { x with flow := { x.flow with paths := x.flow.paths.map fun p => p.map (Path.expire (x.ctl.tmr.toNat + 1)) } }

/-- The record of a team sampled `k` cycles from now, its path chosen (R427, R428). -/
def sampleRecord (s0 : State) (t k : Nat) : List Word :=
  let s1 : State := { s0.putTeam t ((s0.team t).later s0 k) with time := s0.time + k }
  let s := standIn (settle s1 t) t
  let x := s.team t
  let p := x.path
  let (reason, blame) := reasonOf s t
  recordHead 4 x x.flow.path p.pc x.ctl.tmr ++
    [summaryOf p.mask x.info.grp, lowestWord p.mask x.info.grp, w32 (reason * 2 ^ 28 + blame.getD 0x3FFFFF),
      w32 (min (s.time - x.perf.lastIssue) 0xFFFFFFFF)]

/-- The sample of a partition `k` cycles from now: of the active-set slot whose turn it is (R428). -/
def samplePart (s : State) (l : Nat) (q : CPart) (k : Nat) : CPart :=
  { q with
    samples := q.samples + 1
    taken := match q.active[q.samples % 8]? with
      | some t => q.taken ++ [(l, sampleRecord s t k)]
      | none => q.taken }

/-- How far ahead the sample cycles lie, CYC being a multiple of 2^per, among the `n` cycles from now (R428). -/
def sampleTimes (cyc per n : Nat) : List Nat :=
  let p := 2 ^ per
  let first := (cyc + p - 1) / p * p
  (List.range ((cyc + n - first + p - 1) / p)).map fun j => first + j * p - cyc

/-- The samples that a core takes in the `n` cycles from now: of the partitions of a resident harness whose launch has a
trace ring with PER ≠ 0 (R428). -/
def sampleCore (s : State) (n : Nat) (k : Core) : Core :=
  match k.resident with
  | none => k
  | some h =>
    let l := (s.harness h).launch
    match (s.launch l).trace with
    | none => k
    | some r =>
      if r.per = 0 then k
      else { k with parts := k.parts.map fun q => (sampleTimes k.cyc.toNat r.per n).foldl (samplePart s l) q }

/-- STALL_SAMPLE (R428): the oldest sample of a partition enters the trace ring. -/
def execStallSample (s : State) : Host.Outcome State Fault Refusal :=
  .next <|
    let q := s.part s.ev.core s.ev.part
    match q.taken with
    | (l, ws) :: r => traceRecord l (s.putPart s.ev.core s.ev.part { q with taken := r }) ws
    | [] => s

/-! ## Debug commands -/

/-- The live team that a command names (R431): one of a resident harness before any other. -/
def debugTeam (s : State) : Option Nat :=
  let ok := fun t =>
    let x := s.team t
    s.fnOf t == s.ev.f && x.info.cid == s.ev.cid && x.info.role == s.ev.role && x.info.tid == s.ev.tid && x.place != .ended
  let ts := (List.range s.teams.length).filter ok
  match ts.find? fun t => (s.core (s.team t).info.core).resident == some (s.team t).info.harness with
  | some t => some t
  | none => ts.head?

/-- A command on the team it names; none named, no effect but the host's access (R431, R445). -/
def debugCommand (s : State) (g : Nat → State) : Host.Outcome State Fault Refusal :=
  .next <| wakeModule <| match debugTeam s with
    | some t => g t
    | none => s

/-- DEBUG_HALT (R431): the halt takes effect at the team's next boundary. -/
def execDebugHalt (s : State) : Host.Outcome State Fault Refusal :=
  debugCommand s fun t =>
    let x := s.team t
    if x.ctl.halted || x.due.halt then s else s.putTeam t { x with due := { x.due with halt := true, haltAt := s.time } }

/-- The arrival of a held gang member withdrawn: it arrives again when it resumes (R410). -/
def withdraw (s : State) (t : Nat) : State :=
  let x := s.team t
  if x.path.dep == some .gang then
    let h := s.harness x.info.harness
    let gs := (h.gangs.map fun g => { g with here := g.here.filter (·.1 != t) }).filter fun g => g.here != []
    (s.putHarness x.info.harness { h with gangs := gs }).putTeam t (x.putPath { x.path with dep := none })
  else s

/-- DEBUG_HALT_TAKEN (R431, R412); an instruction whose wait is over completes first. -/
def execDebugHaltTaken (s : State) : Host.Outcome State Fault Refusal :=
  .next <|
    let x := s.team s.ev.team
    if x.due.halt && !x.path.isOver then
      let s := withdraw s s.ev.team
      let y := (s.team s.ev.team).halt
      s.putTeam s.ev.team { y with due := { y.due with haltAt := s.time } }
    else s

/-- What a halt has held back: the entry of a recorded trap, or a recorded host-served fault; then a pre-emption request
that coincided with the halt, unless the fault's swap satisfies it, once no other team is halted whose halt coincided with it
(R412). -/
def resumeTeam (s : State) (t : Nat) : State :=
  let x := s.team t
  let c := x.ctl
  let s := s.putTeam t { x with ctl := { c with halted := false }, due := { x.due with halt := false, entry := false, served := none } }
  let s :=
    if x.due.entry then enterTrap s t c.tcause c.tpcPc.toNat c.tpcMwi.toNat c.taddrLo c.taddrHi
    else match x.due.served with
      | some (k, va, wr) => serveTeamFault s t k va wr
      | none => s
  let k := s.core x.info.core
  if k.heldReq.contains t then
    let rest := k.heldReq.filter (· != t)
    let s := s.putCore x.info.core { k with heldReq := rest }
    if k.preempt || rest != [] then s else requestPreempt s x.info.core
  else s

/-- DEBUG_RESUME (R431). -/
def execDebugResume (s : State) : Host.Outcome State Fault Refusal :=
  debugCommand s fun t => if (s.team t).ctl.halted || (s.team t).due.halt then resumeTeam s t else s

/-- Whether a path of a team is live. -/
def Team.isLive (t : Team) (p : Nat) : Bool := (t.flow.paths.getD p none).isSome

/-- DEBUG_STEP_PATH (R432): the team, halted or with every path held, resumes for one instruction of the path, which then stays the
current one, its count towards PQUANT going on from that of the path before it (log 125). -/
def execDebugStepPath (s : State) : Host.Outcome State Fault Refusal :=
  debugCommand s fun t =>
    let x := s.team t
    if x.isHalted && x.isLive s.ev.path then
      let s' := resumeTeam s t
      let y := s'.team t
      s'.putTeam t { y with
        flow := { y.flow with path := if y.ctl.inh then y.flow.path else s.ev.path }
        due := { y.due with one := some (if y.ctl.inh then y.flow.path else s.ev.path) } }
    else s

/-- A path held or released; one held at a gang rendezvous withdraws its arrival (R410, R433). -/
def holdPath (s : State) (t : Nat) (held : Bool) : State :=
  let x := s.team t
  match x.flow.paths.getD s.ev.path none with
  | some _ =>
    let s := if held && s.ev.path == x.flow.path then withdraw s t else s
    match (s.team t).flow.paths.getD s.ev.path none with
    | some p => s.putTeam t ((s.team t).putPathAt s.ev.path (some { p with held := held }))
    | none => s
  | none => s

/-- DEBUG_HOLD_PATH and DEBUG_RELEASE_PATH (R433). -/
def execDebugHoldPath (s : State) : Host.Outcome State Fault Refusal := debugCommand s fun t => holdPath s t true
def execDebugReleasePath (s : State) : Host.Outcome State Fault Refusal := debugCommand s fun t => holdPath s t false

/-- The value of an operand in a lane as a debugger reads it; that of an accumulator is left open (log 12). -/
def debugOperand (s : State) (t : Nat) (x : Byte) (lane : Nat) : Word :=
  let w := (s.team t).view
  match opd x with
  | .p n => if (getP w.regs n).getLsbD lane then 1 else 0
  | .acc _ => Config.freeWord s.freeIx
  | .strm => Config.freeWord s.freeIx
  | _ => rd w x lane

/-- DEBUG_READ (R431): DBGDATA takes the value. -/
def execDebugRead (s : State) : Host.Outcome State Fault Refusal :=
  debugCommand s fun t =>
    let v := if s.ev.ctl then readCr s t s.ev.opnd else some (debugOperand s t (BitVec.ofNat 8 s.ev.opnd) s.ev.lane)
    match (s.team t).isHalted, v with
    | true, some v => s.putFunc s.ev.f { s.func s.ev.f with dbgdata := v.setWidth 64 }
    | _, _ => s

/-- A register of a halted team written in one lane; accumulators and special operands are refused. -/
def debugPut (x : Team) (b : Byte) (lane : Nat) (v : Word) : Team :=
  match opd b with
  | .v n => { x with regs := putV x.regs n [lane] fun _ => v }
  | .s n => { x with regs := putS x.regs n v }
  | .p n => { x with regs := putP x.regs n [lane] fun _ => v.getLsbD 0 }
  | _ => x

/-- Whether a debugger may write `v` to control register `n`: not to a read-only one, nor to a read-only field of TSTAT; its
reserved bits are ignored (R2, R86, R431). -/
def debugAllows (n : Nat) (v : Word) : Bool := (crWidth n).isSome && !(n == 0 && v.extractLsb' 1 7 != 0)

/-- DEBUG_WRITE (R431). -/
def execDebugWrite (s : State) : Host.Outcome State Fault Refusal :=
  debugCommand s fun t =>
    let x := s.team t
    let v : Word := (s.func s.ev.f).dbgdata.setWidth 32
    if !x.isHalted then s
    else if s.ev.ctl then
      if debugAllows s.ev.opnd v then
        s.putTeam t { x with ctl := writeCr x.ctl s.ev.opnd (v &&& BitVec.ofNat 32 (2 ^ (crWidth s.ev.opnd).getD 0 - 1)) }
      else s
    else if s.ev.lane < 32 * x.info.grp then s.putTeam t (debugPut x (BitVec.ofNat 8 s.ev.opnd) s.ev.lane v)
    else s

/-! ## Watchpoints, counters and instruction memory -/

/-- WATCH (R434). -/
def execWatch (d a : Byte) (s : State) : Host.Outcome State Fault Refusal :=
  issue (.watch d a) { rulesDebug [a] (isBase 4 a) with mode := fun _ => d.toNat ≤ 3 }
    (fun w s =>
      let p := (rdS w a 0).toNat
      let m := rdS w a 1
      if m.extractLsb' 2 30 != 0 then illegal (.watch d a) s
      else if p % 4 != 0 then .fault 0x03 (w32 p) 0
      else if !inRange s s.curFn (m.getLsbD 0) p then .fault 0x04 (w32 p) 0
      else
        let h := s.harness s.curHarness
        let x : Watch := { addr := p, scratch := m.getLsbD 0, change := m.getLsbD 1, value := rdS w a 2, mask := rdS w a 3 }
        .done (s.putHarness s.curHarness { h with watch := h.watch.set d.toNat (some x) })) s

/-- UNWATCH (R434). -/
def execUnwatch (d : Byte) (s : State) : Host.Outcome State Fault Refusal :=
  issue (.unwatch d) { rulesDebug [] true with mode := fun _ => d.toNat ≤ 3 }
    (fun _ s =>
      let h := s.harness s.curHarness
      .done (s.putHarness s.curHarness { h with watch := h.watch.set d.toNat none })) s

/-- The counter that PERFRD reads (R436). -/
def perfCounter (s : State) (x : Team) (sel : Nat) : Option (BitVec 64) :=
  let h := s.harness x.info.harness
  match sel with
  | 0 => some x.perf.issued
  | 1 => some x.perf.idle
  | 2 => some x.perf.stalls
  | 3 => some x.perf.passes
  | 4 => some h.waves
  | 5 => some (h.wmBusy.getD x.info.part 0)
  | 6 => some (h.pairs.getD x.info.part 0)
  | 7 => some h.moved
  | _ => none

/-- PERFRD (R436). -/
def execPerfrd (d a : Byte) (s : State) : Host.Outcome State Fault Refusal :=
  issue (.perfrd d a) (rulesDebug [d, a] (isS d && evenReg d && isS a))
    (fun w s =>
      match perfCounter s s.me (rd w a 0).toNat with
      | none => illegal (.perfrd d a) s
      | some v => .done (s.putRegs (wrSs w.regs d [v.setWidth 32, v.extractLsb' 32 32]))) s

/-- The count that ECCQ reads (R436). -/
def eccCount (s : State) (core sel : Nat) : Option Word :=
  let c := s.core core
  let d := s.die (dieOf core)
  match sel with
  | 0 => some c.eccShared
  | 1 => some c.eccRegs
  | 2 => some d.eccScratch
  | 3 => some d.eccHbm
  | 4 => some (w32 c.uncorr)
  | _ => none

/-- ECCQ (R436). -/
def execEccq (d a : Byte) (s : State) : Host.Outcome State Fault Refusal :=
  issue (.eccq d a) (rulesDebug [d, a] (isS d && isS a))
    (fun w s =>
      match eccCount s s.me.info.core (rd w a 0).toNat with
      | none => illegal (.eccq d a) s
      | some v => .done (s.putRegs (wrS w.regs d v))) s

/-- The code that every harness of a core fetches from now on (R106, R437). -/
def refetch (s : State) (c : Nat) : State :=
  { s with harnesses := s.harnesses.map fun h => if h.core = c then { h with code := codeImage s (s.launch h.launch) } else h }

/-- IFLUSH (R437, R106): the core fetches the code as it now stands. -/
def execIflush (s : State) : Host.Outcome State Fault Refusal :=
  issue .iflush (rulesDebug [] true)
    (fun _ s => .done (refetch s (s.harness s.curHarness).core)) s

end Sys2Proof.Machine
end

