-- ==== Sys2Proof/Machine/Copies.lean ====
section
/-! DEFINITION. Copies from teams (R258 to R266), Shuttle programs started and stopped by teams (R267 to R269), and the
taking of pieces from the copy queue (R258). -/

namespace Sys2Proof.Machine

/-- What R98 needs of an instruction of R260. -/
def rulesCopy (regs : List Byte) (ok : Bool) : Rules where
  copy := true
  legal := fun _ => ok
  regs := regs
  passes := some 1

/-! ## Pieces -/

/-- The moves of a copy cut into pieces of at most 65,536 bytes (R258); `room` is what the piece under way may still take. -/
def cutPieces : Nat → List Seg → Nat → List Seg → List (List Seg)
  | 0, _, _, cur => [cur]
  | _, [], _, cur => if cur = [] then [] else [cur]
  | k + 1, g :: r, room, cur =>
    if g.len ≤ room then cutPieces k r (room - g.len) (cur ++ [g])
    else if room = 0 then cur :: cutPieces k (g :: r) 65536 []
    else
      (cur ++ [{ g with len := room }]) ::
        cutPieces k ({ src := g.src.add room, dst := g.dst.add room, len := g.len - room } :: r) 65536 []

def piecesOf (l : List Seg) : List (List Seg) := cutPieces (2 * (l.length + segBytes l / 65536) + 2) l 65536 []

/-- The checks of a copy whose operands and alignment have passed, and its entry in the queue (R246, R258, R259). -/
def issueCopy (s : State) (add ordered : Bool) (runs : List Run) : Eff :=
  let t := s.curTeam
  let h := (s.team t).info.harness
  let f := s.fnOf t
  match rangeFault s f runs with
  | some e => e
  | none =>
    match liveFault (s.harness h) runs with
    | some e => e
    | none =>
      let (s, m) := resolveRuns (.copy h) f h add s runs
      match m.chk.eff s with
      | some e => e
      | none =>
        let id := s.nextId
        let locks := lockEntries id none m.segs
        let hh := s.harness h
        let ps := piecesOf m.segs
        if ps = [] then .done (s.putTeam t { s.team t with deps := (s.team t).deps.joinBatch 0 })
        else if 256 ≤ hh.copyq.length || 64 < hh.locks.length + locks.length then .wait s .retry
        else
          let x := s.team t
          let deps := x.deps.joinBatch 1
          let no := (deps.batches.getLast?.map (·.no)).getD 0
          let c : Copy :=
            { id := id, h := h, team := t, batch := no, pieces := ps, flying := 0, add := add, ordered := ordered
              unread := ps.length, pc := x.path.pc, pages := m.pages }
          let s := s.fresh
          let s := s.putTeam t { x with deps := deps }
          let s := s.putHarness h { s.harness h with locks := (s.harness h).locks ++ locks, copyq := (s.harness h).copyq ++ [id] }
          .done { s with copies := s.copies ++ [c] }

/-! ## CPY and CPYA -/

/-- The run of a CPY or CPYA (R261). -/
def cpyRun (far near : Nat) (out scr : Bool) (n : Nat) : Run :=
  let sp : Space := if scr then .scratch else .shared
  if out then ⟨sp, near, .far, far, n⟩ else ⟨.far, far, sp, near, n⟩

/-- The body of CPY and CPYA (R261, R264). -/
def cpyBody (i : Instr) (add : Bool) (a : Byte) (w : View) (s : State) : Eff :=
  let lo := rdS w a 0
  let hi := rdS w a 1
  let near := rdS w a 2
  let ctl := rdS w a 3
  let far := (hi ++ lo).toNat
  let n := (ctl.extractLsb' 0 24).toNat
  if ctl.extractLsb' 24 6 != 0 then illegal i s
  else if far % 4 != 0 then .fault 0x03 lo 0
  else if near.toNat % 4 != 0 then .fault 0x03 near 0
  else if n % 4 != 0 then .fault 0x03 (w32 n) 0
  else if 2 ^ 57 ≤ far then .fault 0x04 lo 0
  else if n = 0 then
    if !sideOk s (s.fnOf s.curTeam) (if ctl.getLsbD 30 then .scratch else .shared) near.toNat 1 then .fault 0x04 near 0
    else .done (s.putMe { s.me with deps := s.me.deps.joinBatch 0 })
  else issueCopy s add add [cpyRun far near.toNat (ctl.getLsbD 31) (ctl.getLsbD 30) n]

def execCpy (a : Byte) (s : State) : Host.Outcome State Fault Refusal :=
  issue (.cpy a) (rulesCopy [a] (isBase 4 a)) (cpyBody (.cpy a) false a) s

def execCpya (a : Byte) (s : State) : Host.Outcome State Fault Refusal :=
  issue (.cpya a) (rulesCopy [a] (isBase 4 a)) (cpyBody (.cpya a) true a) s

/-! ## Tensor descriptors -/

/-- A tensor descriptor as it stands in shared memory (R257). -/
structure Tensor where
  src   : Nat
  dst   : Nat
  ssp   : Nat
  dsp   : Nat
  ndim  : Nat
  res   : Bool
  run   : Nat
  cnt   : List Nat
  sstr  : List Int
  dstr  : List Int
  deriving DecidableEq, Repr

def readTensor (m : Memory) (a : Nat) : Tensor :=
  let w := fun (o : Nat) => memWord m (a + o)
  let half := fun (o i : Nat) => ((w o).extractLsb' i 16).toNat
  { src := leNat (memBytes m a 8)
    dst := leNat (memBytes m (a + 8) 8)
    ssp := ((w 0x10).extractLsb' 30 2).toNat
    dsp := ((w 0x10).extractLsb' 28 2).toNat
    ndim := ((w 0x10).extractLsb' 25 3).toNat
    res := (w 0x10).getLsbD 24 || w 0x3C != 0
    run := ((w 0x10).extractLsb' 0 24).toNat
    cnt := [half 0x14 0, half 0x14 16, half 0x18 0, half 0x18 16]
    sstr := (List.range 4).map fun d => (w (0x1C + 4 * d)).toInt
    dstr := (List.range 4).map fun d => (w (0x2C + 4 * d)).toInt }

/-- A base fits its space (R257). -/
def baseOk (sp base : Nat) : Bool := if sp = 2 then base < 2 ^ 57 else base < 2 ^ 32

/-- The dimensions beyond the run. -/
def Tensor.dims (x : Tensor) : Nat := x.ndim - 1

/-- The limits of R257 that raise cause 0x01. -/
def Tensor.ok (x : Tensor) (both : Bool) : Bool :=
  !x.res && x.ssp < 3 && 1 ≤ x.ndim && x.ndim ≤ 5 && 4 ≤ x.run && x.run % 4 = 0 && baseOk x.ssp x.src &&
    (x.cnt.take x.dims).all (1 ≤ ·) && (!both || (x.dsp < 3 && baseOk x.dsp x.dst))

/-- The base or the descriptor's own address when a base or a stride is no multiple of 4 (R257); only CNT is ignored beyond
NDIM. -/
def Tensor.misaligned (x : Tensor) (both : Bool) (at' : Nat) : Option Nat :=
  if x.src % 4 != 0 then some x.src
  else if both && x.dst % 4 != 0 then some x.dst
  else if x.sstr.any (· % 4 != 0) || (both && x.dstr.any (· % 4 != 0)) then some at'
  else none

def spaceOf (n : Nat) : Space := if n = 0 then .shared else if n = 1 then .scratch else .far

/-- The offsets of all runs, the first index fastest (R257). -/
def offsets : List (Nat × Int × Int) → List (Int × Int)
  | [] => [(0, 0)]
  | (n, a, b) :: r =>
    (offsets r).flatMap fun o => (List.range n).map fun (i : Nat) => (o.1 + (i : Int) * a, o.2 + (i : Int) * b)

/-- The runs of a CPYT (R262). -/
def Tensor.runs (x : Tensor) : List Run :=
  let ds := (List.range x.dims).map fun d => (x.cnt.getD d 1, x.sstr.getD d 0, x.dstr.getD d 0)
  (offsets ds).map fun o => ⟨spaceOf x.ssp, x.src + o.1, spaceOf x.dsp, x.dst + o.2, x.run⟩

/-- Bytes of a CPYT (R262). -/
def Tensor.total (x : Tensor) : Nat := (x.cnt.take x.dims).foldl (· * ·) x.run

/-- The checks of a descriptor's own address. -/
def descFault (a align size : Nat) : Option Eff :=
  if a % align != 0 then some (.fault 0x03 (w32 a) 0)
  else if Config.sharedBytes < a + size then some (.fault 0x04 (w32 a) 0)
  else none

/-- CPYT (R262). -/
def execCpyt (a : Byte) (s : State) : Host.Outcome State Fault Refusal :=
  issue (.cpyt a) (rulesCopy [a] (isS a))
    (fun w s =>
      let p := (rd w a 0).toNat
      match descFault p 64 64 with
      | some e => e
      | none =>
        let x := readTensor (s.harness s.curHarness).shared p
        if !x.ok true || 2 ^ 32 - 4 < x.total then illegal (.cpyt a) s
        else
          match x.misaligned true p with
          | some b => .fault 0x03 (w32 b) 0
          | none => issueCopy s false false x.runs) s

/-! ## CPYG and CPYS -/

/-- A gather or scatter descriptor (R263). -/
structure Gather where
  far    : Nat
  near   : Nat
  list   : Nat
  nsp    : Nat
  res    : Bool
  rowb   : Nat
  stride : Nat
  count  : Nat
  deriving DecidableEq, Repr

def readGather (m : Memory) (a : Nat) : Gather :=
  let w := fun (o : Nat) => memWord m (a + o)
  { far := leNat (memBytes m a 8)
    near := (w 8).toNat
    list := (w 0xC).toNat
    nsp := ((w 0x10).extractLsb' 30 2).toNat
    res := (w 0x10).extractLsb' 24 6 != 0 || (w 0x18).extractLsb' 16 16 != 0 || w 0x1C != 0
    rowb := ((w 0x10).extractLsb' 0 24).toNat
    stride := (w 0x14).toNat
    count := ((w 0x18).extractLsb' 0 16).toNat }

/-- The rows of a gather, far address and near address (R263). -/
def Gather.rows (g : Gather) (m : Memory) : List (Nat × Nat) :=
  (List.range g.count).map fun j => (g.far + (memWord m (g.list + 4 * j)).toNat * g.stride, g.near + j * g.rowb)

/-- The body of CPYG and CPYS (R263). -/
def gatherBody (i : Instr) (out : Bool) (a : Byte) (w : View) (s : State) : Eff :=
  let p := (rd w a 0).toNat
  match descFault p 16 32 with
  | some e => e
  | none =>
    let m := (s.harness s.curHarness).shared
    let g := readGather m p
    if g.res || 1 < g.nsp || g.rowb < 4 || g.rowb % 4 != 0 || g.count = 0 || 4096 < g.count then illegal i s
    else if g.far % 4 != 0 then .fault 0x03 (w32 g.far) 0
    else if g.near % 4 != 0 then .fault 0x03 (w32 g.near) 0
    else if g.list % 4 != 0 then .fault 0x03 (w32 g.list) 0
    else if g.stride % 4 != 0 then .fault 0x03 (w32 g.stride) 0
    else if 2 ^ 57 ≤ g.far then .fault 0x04 (w32 g.far) 0
    else if Config.sharedBytes < g.list + 4 * g.count then .fault 0x04 (w32 g.list) 0
    else
      issueCopy s false out ((g.rows m).map fun r => cpyRun r.1 r.2 out (g.nsp == 1) g.rowb)

def execCpyg (a : Byte) (s : State) : Host.Outcome State Fault Refusal :=
  issue (.cpyg a) (rulesCopy [a] (isS a)) (gatherBody (.cpyg a) false a) s

def execCpys (a : Byte) (s : State) : Host.Outcome State Fault Refusal :=
  issue (.cpys a) (rulesCopy [a] (isS a)) (gatherBody (.cpys a) true a) s

/-- SEAL (R265, R91). -/
def execSeal (d : Byte) (s : State) : Host.Outcome State Fault Refusal :=
  issue (.seal d) (rulesCopy [d] (isS d))
    (fun w s => let x := s.me; .done (s.putMe { x with regs := wrS w.regs d x.deps.next, deps := x.deps.seal })) s

/-! ## Starting and stopping Shuttle programs -/

/-- Whether a Shuttle serves a piece of the copy queue. -/
def serving (s : State) (h n : Nat) : Bool := s.transfers.any fun x => x.h == h && x.shuttle == n && x.copy.isSome

/-- The three conditions of R267. -/
def canStart (s : State) (h n : Nat) : Bool :=
  (s.shuttle h n).state == 0 && !serving s h n && (List.range 4).any fun k => k != n && (s.shuttle h k).state == 0

/-- The state that SHRUN sets (R242); the first instruction waits for the starting team's accesses that still have to act (R267). -/
def startShuttle (s : State) (h n t pc : Nat) (param : Word) : State :=
  let x := s.shuttle h n
  let i := (s.team t).info
  let regs : RegFile := { s := sset 0 (sset 0 [] 0 param) 1 (w32 (i.role * 256 + i.tid)) }
  let before := (s.late.filter fun y => y.party == .team t && y.acts != []).map (·.id)
  let s : State := { s with ops := s.ops.filter fun o => o.party != .shuttle h n }
  s.putShuttle h n { regs := regs, pc := pc, state := 1, role := i.role, tid := i.tid, starter := some t, run := x.run + 1, fence := before }

/-- SHRUN (R267). -/
def execShrun (d a b : Byte) (s : State) : Host.Outcome State Fault Refusal :=
  issue (.shrun d a b) (rulesCopy [d, a, b] (isS d && isS a && isS b))
    (fun w s =>
      let n := (rd w d 0).toNat
      let pc := rd w a 0
      let p := rd w b 0
      if s.me.path.dep == some .met then .done s
      else if 3 < n then illegal (.shrun d a b) s
      else if p.toNat % 4 != 0 then .fault 0x03 p 0
      else if codeWords (s.launchOf s.curTeam) ≤ pc.toNat then .fault 0x04 pc 0
      else if Config.sharedBytes ≤ p.toNat then .fault 0x04 p 0
      else if canStart s s.curHarness n then .done (startShuttle s s.curHarness n s.curTeam pc.toNat p)
      else .wait s (.start n pc.toNat p)) s

/-- SHUTTLE_PROGRAM_START (R267): the program of a waiting SHRUN starts, and the SHRUN completes. -/
def execShuttleProgramStart (s : State) : Host.Outcome State Fault Refusal :=
  .next <|
    let t := s.ev.team
    let x := s.team t
    match (x.flow.paths.getD s.ev.path none).bind (·.dep) with
    | some (.start n pc p) =>
      if canStart s x.info.harness n && coreRuns s x.info.harness then
        wake (startShuttle s x.info.harness n t pc p) t s.ev.path .met
      else s
    | _ => s

/-- Transfers of a Shuttle in flight as NOUT counts them: those of its program, and a piece that it serves (R256, R258). -/
def outstanding (s : State) (h n : Nat) : Nat :=
  flights s h n + (s.transfers.filter fun x => x.h == h && x.shuttle == n && x.copy.isSome).length

/-- The word of a Shuttle that SHSTAT reads (R256). -/
def shuttleWord (s : State) (h n sel : Nat) : Word :=
  let x := s.shuttle h n
  if sel = 0 then
    w32 (x.cause.toNat * 2 ^ 24 + x.role % 4 * 2 ^ 22 + x.tid % 256 * 2 ^ 14 + outstanding s h n * 2 ^ 9 + x.state)
  else if sel = 1 then w32 x.pc
  else if sel = 2 then x.faddr.setWidth 32
  else x.faddr.extractLsb' 32 32

/-- SHSTAT (R268). -/
def execShstat (d a : Byte) (s : State) : Host.Outcome State Fault Refusal :=
  issue (.shstat d a) (rulesCopy [d, a] (isS d && isS a))
    (fun w s =>
      let v := rd w a 0
      if v.extractLsb' 10 22 != 0 || v.extractLsb' 2 6 != 0 then illegal (.shstat d a) s
      else .done (s.putRegs (wrS w.regs d (shuttleWord s s.curHarness (v.toNat % 4) (v.extractLsb' 8 2).toNat)))) s

/-- A Shuttle's waits for a host leave the fault records. -/
def dropShuttleWait (s : State) (h n : Nat) : State :=
  { s with faults := s.faults.map fun r => { r with shuttles := r.shuttles.filter (· != (h, n)) } }

/-- A Shuttle's put leaves its mailbox's order (R389). -/
def dropShuttlePut (s : State) (h n : Nat) : State :=
  let f := (s.launch (s.harness h).launch).f
  s.putFunc f { s.func f with puts := (s.func f).puts.filter (·.who != .shuttle h n) }

/-- SHSTOP's effect (R269). -/
def stopShuttle (s : State) (h n : Nat) : State :=
  let s := dropShuttlePut s h n
  let x := s.shuttle h n
  let cleared : Shuttle := { x with
    regs := {}, cursors := List.replicate 4 none, loops := List.replicate 4 {}, marks := [], fault := false, accesses := 0
    posted := false }
  if x.state = 1 ∨ x.state = 2 then
    dropShuttleWait (s.putShuttle h n { cleared with state := if flights s h n = 0 then 0 else 4 }) h n
  else if x.state = 3 then s.putShuttle h n { cleared with state := 0 }
  else s

/-- SHSTOP (R269). -/
def execShstop (a : Byte) (s : State) : Host.Outcome State Fault Refusal :=
  issue (.shstop a) (rulesCopy [a] (isS a))
    (fun w s =>
      let v := rd w a 0
      if 3 < v.toNat then illegal (.shstop a) s else .done (stopShuttle s s.curHarness v.toNat)) s

/-- Whether a Shuttle takes a piece now (R258). -/
def takesPiece (s : State) (h n : Nat) : Bool :=
  coreRuns s h && (s.shuttle h n).state == 0 && !serving s h n && (s.harness h).copyq != []

/-- COPY_PIECE_TAKE (R258): the head copy leaves the queue with its last piece. -/
def execCopyPieceTake (s : State) : Host.Outcome State Fault Refusal :=
  .next <|
    let h := s.ev.id
    let n := s.ev.n
    match takesPiece s h n, (s.harness h).copyq with
    | true, c :: q =>
      match s.copies.find? (·.id == c) with
      | some y =>
        match y.pieces with
        | p :: r =>
          let s : State := { s with
            copies := s.copies.map fun z => if z.id = c then { z with pieces := r, flying := z.flying + 1 } else z }
          let s := if r = [] then s.putHarness h { s.harness h with copyq := q } else s
          let x : Transfer :=
            { id := s.nextId, h := h, shuttle := n, segs := p, add := y.add, ordered := y.ordered, barrier := none
              copy := some c, data := none, reg := none, word := none }
          startTransfer s.fresh x
        | [] => s.putHarness h { s.harness h with copyq := q }
      | none => s.putHarness h { s.harness h with copyq := q }
    | _, _ => s

end Sys2Proof.Machine
end

