-- ==== Sys2Proof/Machine/Sequencer.lean ====
section
/-! DEFINITION. The Graph Sequencer: firing and re-firing tasks (R71, R349 to R352), the dispensing order and the front
ends (R72 to R75), taking and reporting tiles (R353 to R357). -/

namespace Sys2Proof.Machine

/-! ## Tasks -/

/-- Tiles of a task (R39). -/
def Task.tiles (k : Task) : Nat := k.tx * k.ty * k.tz

/-- Tile number `j` of a task, x varying fastest (R39). -/
def Task.tile (k : Task) (id j : Nat) : Tile :=
  { task := w32 id, x := w32 (j % k.tx), y := w32 (j / k.tx % k.ty), z := w32 (j / (k.tx * k.ty)) }

def State.task (s : State) (l i : Nat) : Option Task := (s.launch l).tasks[i]?
def State.putTask (s : State) (l i : Nat) (k : Task) : State :=
  s.putLaunch l { s.launch l with tasks := (s.launch l).tasks.set i k }

/-- A task fired with a hop count (R349). -/
def Task.fire (k : Task) (h : Nat) : Task :=
  { k with fired := true, done := false, fires := k.fires + 1, hop := h, pend := none, left := k.tiles, given := false, dealt := 0 }

/-- Whether every input of a task has the grade it needs (R71); for a range in a peer region the tags the peer keeps, looked at
when a tag of the launch changes (log 113). -/
def taskReady (s : State) (l : Nat) (k : Task) : Bool :=
  k.ins.all fun i => (List.range i.count).all fun j => i.ming ≤ gradeOf (cellTag s .io (s.launch l) i.reg (i.first + j))

/-- The firing of tasks that have become ready (R71). -/
def fireReady (s : State) (l : Nat) : State :=
  s.putLaunch l
    { s.launch l with
      tasks := (s.launch l).tasks.map fun k => if k.fires = 0 && !k.removed && !k.held && taskReady s l k then k.fire 0 else k }

/-- Whether an input range of a task holds a cell and accepts grade `g` (R350). -/
def Task.reads (k : Task) (reg cell g : Nat) : Bool :=
  k.ins.any fun i => i.reg = reg && i.first ≤ cell && cell < i.first + i.count && i.ming ≤ g

/-- A cell amended to grade `g` with hop `h`: its effect on task `i` (R350, R351). -/
def amendTask (l reg cell g h : Nat) (s : State) (i : Nat) : State :=
  match s.task l i with
  | none => s
  | some k =>
    if !(k.reads reg cell g && (k.given || k.done) && !k.held && !k.removed) then s
    else if 15 < h + 1 then
      let s := s.putTask l i { k with held := true, pend := none }
      let s := s.putLaunch l { s.launch l with notices := (s.launch l).notices ++ [i] }
      sendEvent s (s.launch l).f 8 [w32 i]
    else if k.done then s.putTask l i (k.fire (h + 1))
    else s.putTask l i { k with pend := some (max (k.pend.getD 0) (h + 1)) }

def amendCell (s : State) (l reg cell g h : Nat) : State :=
  (List.range (s.launch l).tasks.length).foldl (amendTask l reg cell g h) s

/-- The completion of a firing: a pending re-fire follows (R350, R354). -/
def Task.finish (k : Task) : Task :=
  let d := { k with fired := false, done := true }
  match k.pend with
  | some h => d.fire h
  | none => d

/-- REFIRE's effect on a task (R352). -/
def Task.refire (k : Task) : Task :=
  if k.removed then k
  else if k.done then { k with held := false }.fire 0
  else if k.given then { k with held := false, pend := some (k.pend.getD 0) }
  else k

/-- STATE of TASKQ (R356). -/
def Task.state (k : Task) : Nat :=
  if k.removed then 5 else if k.held then 4 else if k.done then 3 else if k.fired then (if k.given then 2 else 1) else 0

/-! ## The dispensing order -/

/-- A task with a tile still to deal. -/
def Task.waiting (k : Task) : Bool := k.fired && !k.removed && k.dealt < k.tiles

/-- The first task in the dispensing order (R72): highest TPRI, then lowest id. -/
def headTask : Nat → List Task → Option (Nat × Task)
  | _, [] => none
  | i, k :: r =>
    match headTask (i + 1) r with
    | some (j, q) => if k.waiting && q.tpri ≤ k.tpri then some (i, k) else some (j, q)
    | none => if k.waiting then some (i, k) else none

/-- The notice of a held task (R351). -/
def noticeTile (i : Nat) : Tile := { task := 0xFFFFFFFE, x := w32 i, y := 16, z := 0 }

/-- Dies that carry a virtual core of a launch. -/
def launchDies (s : State) (l : Nat) : List Nat :=
  (List.range 4).filter fun d => s.harnesses.any fun h => h.launch == l && h.alive && dieOf h.core == d

/-- The front end that the next tile goes to (R73): in rotation after the last, one with room. -/
def nextFront (s : State) (l : Nat) : Option Nat :=
  let x := s.launch l
  let start := match x.lastDie with
    | some d => d + 1
    | none => 0
  ((List.range 4).map fun j => (start + j) % 4).find? fun d =>
    (launchDies s l).contains d && (let f := x.fronts.getD d {}; f.buffer.length + f.transit.length < 64)

/-- The head of the dispensing order, with the launch as it stands after it is dealt. -/
def headTile (x : Launch) : Option (Tile × Launch) :=
  match x.notices with
  | i :: r => some (noticeTile i, { x with notices := r })
  | [] =>
    match headTask 0 x.tasks with
    | some (i, k) => some (k.tile i k.dealt, { x with tasks := x.tasks.set i { k with dealt := k.dealt + 1 } })
    | none => none

/-- Whether a tile can be dealt now: one of a launch in a cycle (R73). -/
def canDeal (s : State) (l : Nat) : Bool := (s.launch l).live && (s.launch l).dealFrom ≤ s.time && (headTile (s.launch l)).isSome && (nextFront s l).isSome

/-- TILE_DEAL (R73): before all else of its cycle, so that it reads the order as the cycle finds it. -/
def execTileDeal (s : State) : Host.Outcome State Fault Refusal :=
  .next <|
    let l := s.ev.launch
    match headTile (s.launch l), nextFront s l with
    | some (t, x), some d =>
      if canDeal s l then
        let f := x.fronts.getD d {}
        s.putLaunch l { x with dealFrom := s.time + 1, lastDie := some d, fronts := x.fronts.set d { f with transit := f.transit ++ [t] } }
      else s
    | _, _ => s

/-! ## Front ends -/

/-- Whether a tile may go to a team of role `r` (R74, R351). -/
def admits (x : Launch) (r : Nat) (t : Tile) : Bool :=
  if t.task = 0xFFFFFFFE then r + 1 == x.roles.length
  else match x.tasks[t.task.toNat]? with
    | some k => k.rolem.testBit r
    | none => false

/-- The first tile a role takes, and the buffer without it. -/
def takeFirst (x : Launch) (r : Nat) : List Tile → Option (Tile × List Tile)
  | [] => none
  | t :: b => if admits x r t then some (t, b) else (takeFirst x r b).map fun (u, c) => (u, t :: c)

/-- A tile given to a team: it is dispensed and held (R75, R355). -/
def giveTile (s : State) (l team dreg : Nat) (t : Tile) : State :=
  let x := s.team team
  let r := wrSs x.regs (BitVec.ofNat 8 dreg) [t.task, t.x, t.y, t.z]
  let s := s.putTeam team { x with regs := r, tiles := x.tiles ++ [t] }
  match s.task l t.task.toNat with
  | some k => s.putTask l t.task.toNat { k with given := true, ever := true }
  | none => s

/-- Whether a waiting requester is served: its harness is resident (R74). -/
def served (s : State) (r : Request) : Bool :=
  let i := (s.team r.team).info
  (s.core i.core).resident == some i.harness

/-- Tiles of a buffer handed to waiting requesters in their order (R74); one that holds 16 tiles issues again and
faults (R353). -/
def handOut (l d : Nat) : Nat → State → State
  | 0, s => s
  | k + 1, s =>
    let x := s.launch l
    let f := x.fronts.getD d {}
    match f.waiters.find? fun r => served s r && (takeFirst x (s.team r.team).info.role f.buffer).isSome with
    | none => s
    | some r =>
      let rest := f.waiters.erase r
      if 16 ≤ (s.team r.team).tiles.length then
        handOut l d k (wake (s.putLaunch l { x with fronts := x.fronts.set d { f with waiters := rest } }) r.team r.path .retry)
      else
        match takeFirst x (s.team r.team).info.role f.buffer with
        | none => s
        | some (t, b) =>
          let s := s.putLaunch l { x with fronts := x.fronts.set d { f with waiters := rest, buffer := b } }
          handOut l d k (wake (giveTile s l r.team r.dreg t) r.team r.path .met)

/-- The hand-outs of one front end. -/
def serveFront (s : State) (l d : Nat) : State := handOut l d ((s.launch l).fronts.getD d {}).waiters.length s

/-- DEALT_TILE_ARRIVAL (R73, R74). -/
def execDealtTileArrival (s : State) : Host.Outcome State Fault Refusal :=
  .next <|
    let l := s.ev.launch
    let d := s.ev.die
    let x := s.launch l
    let f := x.fronts.getD d {}
    match f.transit with
    | t :: r => serveFront (s.putLaunch l { x with fronts := x.fronts.set d { f with transit := r, buffer := f.buffer ++ [t] } }) l d
    | [] => s

/-! ## Taking tiles -/

/-- What R98 needs of an instruction of R339 charged to the branch/system engine. -/
def rulesTask (regs : List Byte) (ok : Bool) : Rules where
  legal := fun _ => ok
  regs := regs
  passes := some 1

/-- The launch of a team and the die of its core. -/
def frontOf (s : State) (t : Nat) : Nat × Nat := ((s.team t).info.launch, dieOf (s.team t).info.core)

/-- FETCHW (R353, R74). -/
def execFetchw (d : Byte) (s : State) : Host.Outcome State Fault Refusal :=
  issue (.fetchw d) (rulesTask [d] (isBase 4 d))
    (fun _ s =>
      let t := s.curTeam
      let (l, e) := frontOf s t
      let x := s.launch l
      let f := x.fronts.getD e {}
      if s.me.path.dep == some .met then .done s
      else if 16 ≤ s.me.tiles.length then .fault 0x04 0 0
      else
        match takeFirst x s.me.info.role f.buffer with
        | some (u, b) => .done (giveTile (s.putLaunch l { x with fronts := x.fronts.set e { f with buffer := b } }) l t d.toNat u)
        | none =>
          let r : Request := { team := t, dreg := d.toNat, path := s.me.flow.path }
          .wait (s.putLaunch l { x with fronts := x.fronts.set e { f with waiters := f.waiters ++ [r] } }) .tile) s

/-- TRYW (R353). -/
def execTryw (d : Byte) (s : State) : Host.Outcome State Fault Refusal :=
  issue (.tryw d) (rulesTask [d] (isBase 4 d))
    (fun w s =>
      let t := s.curTeam
      let (l, e) := frontOf s t
      let x := s.launch l
      let f := x.fronts.getD e {}
      match takeFirst x s.me.info.role f.buffer with
      | some (u, b) =>
        if 16 ≤ s.me.tiles.length then .fault 0x04 0 0
        else .done (giveTile (s.putLaunch l { x with fronts := x.fronts.set e { f with buffer := b } }) l t d.toNat u)
      | none => .done (s.putRegs (wrSs w.regs d [0xFFFFFFFF, 0, 0, 0]))) s

/-! ## Reporting tiles -/

/-- The graded writes, copies and stores of a team not yet complete (R354). -/
def unfinished (s : State) (t : Nat) : List Nat :=
  ((s.ops.filter fun o => o.party == .team t && o.kind == .store).map (·.id)) ++
    ((s.copies.filter (·.team == t)).map (·.id)) ++
    ((s.graded.filter fun g => g.party == .team t && g.kind.isSome).map (·.id))

/-- Whether an operation, copy or graded write is still in flight. -/
def inProgress (s : State) (id : Nat) : Bool :=
  s.ops.any (·.id == id) || s.copies.any (·.id == id) || s.graded.any (·.id == id)

/-- TASKEND (R354). -/
def execTaskend (a b : Byte) (s : State) : Host.Outcome State Fault Refusal :=
  issue (.taskend a b) (rulesTask [a, b] (isBase 4 a && isSZ b))
    (fun w s =>
      let x := s.me
      let u : Tile := { task := rdS w a 0, x := rdS w a 1, y := rdS w a 2, z := rdS w a 3 }
      let l := x.info.launch
      let slot := (rd w b 0).toNat
      if !x.tiles.contains u then .fault 0x04 u.task 0
      else
        match (if isZero b then none else slotFault s false slot) with
        | some e => e
        | none =>
          if u.task = 0xFFFFFFFE && !isZero b then illegal (.taskend a b) s
          else
            let sum := (s.harnessOf s.curTeam).slotAt slot
            let r : Report :=
              { id := s.nextId, team := s.curTeam, tile := u, hgen := sum.hgen, mask := if isZero b then 0 else sum.mask
                after := unfinished s s.curTeam }
            let s := s.putMe { x with tiles := x.tiles.erase u }
            .done ((s.putLaunch l { s.launch l with reports := (s.launch l).reports ++ [r] }).fresh)) s

/-- The consumed generations that a report records (R354). -/
def recordGens (mask : Word) (g : Nat) : Nat → List CellRange → List CellRange
  | _, [] => []
  | i, c :: r => (if mask.getLsbD i then { c with cgen := g } else c) :: recordGens mask g (i + 1) r

/-- One tile of a firing reported (R354, R350). -/
def Task.report (k : Task) (r : Report) : Task :=
  let k := { k with ins := recordGens r.mask r.hgen 0 k.ins, left := k.left - 1 }
  if k.left = 0 then k.finish else k

/-- TASKEND_REPORT (R354): the report reaches the Sequencer once what came before it is done. -/
def execTaskendReport (s : State) : Host.Outcome State Fault Refusal :=
  .next <|
    let l := s.ev.launch
    match (s.launch l).reports.find? (·.id == s.ev.id) with
    | none => s
    | some r =>
      if r.after.any (inProgress s) then s
      else
        let s := s.putLaunch l { s.launch l with reports := (s.launch l).reports.filter (·.id != r.id) }
        match s.task l r.tile.task.toNat with
        | some k => s.putTask l r.tile.task.toNat (k.report r)
        | none => s

/-! ## Queries -/

/-- A task id out of range (R352). -/
def taskFault (s : State) (v : Word) : Option Eff :=
  if v.extractLsb' 16 16 != 0 || (s.launchOf s.curTeam).tasks.length ≤ v.toNat then some (.fault 0x04 v 0) else none

/-- What a team asks the Sequencer, which acts 240 cycles after the issue (R352, R356). -/
def askLater (s : State) (k : Ask) : State := askIn s 240 k

/-- REFIRE (R352); the team is not held for it. -/
def execRefire (a : Byte) (s : State) : Host.Outcome State Fault Refusal :=
  issue (.refire a) (rulesTask [a] (isS a))
    (fun w s =>
      let v := rd w a 0
      match taskFault s v with
      | some e => e
      | none => .done (askLater s (.refire v.toNat)).fresh) s

/-- The word of a task that TASKQ reads (R356). -/
def taskWord (k : Task) (f : Nat) : Word :=
  if f = 1 then k.arg
  else if f = 2 then w32 ((List.range 6).foldl (fun n i => n + ((k.ins[i]?).map (·.cgen)).getD 0 % 32 * 2 ^ (5 * i)) 0)
  else w32 (k.tpri % 256 * 2 ^ 16 + k.fires % 256 * 2 ^ 8 + k.hop % 16 * 16 + k.pend.isSome.toNat * 8 + k.state)

/-- TASKQ (R356): sD is pending until the Sequencer has read the task. -/
def execTaskq (d a b : Byte) (s : State) : Host.Outcome State Fault Refusal :=
  issue (.taskq d a b) { rulesTask [d, a] (isS d && isS a) with mode := fun _ => b.toNat ≤ 2 }
    (fun w s =>
      let v := rd w a 0
      match taskFault s v with
      | some e => e
      | none => .done (startOp (askLater s (.query v.toNat b.toNat d)) .hold [d])) s

/-! ## The dispenser -/

/-- DISPQ (R357). -/
def execDispq (d a : Byte) (s : State) : Host.Outcome State Fault Refusal :=
  issue (.dispq d a) { rulesTask [d] (isS d) with mode := fun _ => a.toNat ≤ 2 }
    (fun w s =>
      let (l, e) := frontOf s s.curTeam
      let f := (s.launch l).fronts.getD e {}
      let v : Word :=
        if a = 0 then w32 f.buffer.length
        else if a = 1 then w32 f.waiters.length
        else match (s.launch l).tasks.findIdx? (·.held) with
          | some i => w32 i
          | none => 0xFFFFFFFF
      .done (s.putRegs (wrS w.regs d v))) s

end Sys2Proof.Machine
end

