-- ==== Sys2Proof/Machine/Graded.lean ====
section
/-! DEFINITION. Graded instructions (R335 to R349, R358): descriptors and their checks, the tag changes of GPUT, AMEND,
FINAL and RETIRE, the snapshot of GGET, and the events that apply and land cells. -/

namespace Sys2Proof.Machine

/-- A graded descriptor (R338). -/
structure GDesc where
  word  : Word
  first : Nat
  count : Nat
  sh    : Nat
  deriving DecidableEq, Repr

def GDesc.input (g : GDesc) : Nat := (g.word.extractLsb' 16 5).toNat
def GDesc.grade (g : GDesc) : Nat := (g.word.extractLsb' 6 2).toNat
def GDesc.reg (g : GDesc) : Nat := (g.word.extractLsb' 0 6).toNat

def readDesc (w : View) (a : Byte) : GDesc where
  word := rdS w a 0
  first := (rdS w a 1).toNat
  count := (rdS w a 2).toNat
  sh := (rdS w a 3).toNat

/-- What an instruction's descriptor may hold (R338): IN, GRD and SH in use, and the largest COUNT. -/
structure GUse where
  input : Bool := false
  grade : Bool := false
  sh    : Bool := false
  most  : Nat := 256
  deriving DecidableEq, Repr

/-- Step 1 of R340. -/
def GDesc.ok (g : GDesc) (u : GUse) : Bool :=
  g.word.extractLsb' 21 11 == 0 && g.word.extractLsb' 8 8 == 0 && (u.input || g.input == 0) && u.grade == (g.grade != 0) &&
    (u.sh || g.sh == 0)

/-- Steps 1 and 2 of R340. -/
def descRange (i : Instr) (s : State) (u : GUse) (g : GDesc) : Option Eff :=
  let l := s.launch s.curLaunch
  if !g.ok u then some (illegal i s)
  else
    match l.regions[g.reg]? with
    | none => some (.fault 0x04 (w32 g.first) (w32 g.reg))
    | some r =>
      if g.count = 0 || u.most < g.count || r.cells < g.first + g.count then some (.fault 0x04 (w32 g.first) (w32 g.reg)) else none

/-- Steps 3 and 4 of R340. -/
def descShared (s : State) (write : Bool) (g : GDesc) : Option Eff :=
  let h := s.harness s.curHarness
  let n := 256 * g.count
  if g.sh % 4 != 0 then some (.fault 0x03 (w32 g.sh) 0)
  else if Config.sharedBytes < g.sh + n then some (.fault 0x04 (w32 g.sh) 0)
  else
    match lockHit h.locks s.cur write g.sh n with
    | .conflict => some (.fault 0x05 (w32 g.sh) 0)
    | .own => some (.wait (waiting s) .retry)
    | .free => if write && liveHit h g.sh n then some (.fault 0x06 (w32 g.sh) 0) else none

/-- The unit that translates for the issuing party. -/
def gradedUnit (s : State) : Unit' :=
  match s.cur with
  | .shuttle h n => .shuttle h n
  | _ => .copy s.curHarness

/-- The places of cells from the places of their range. -/
def cellLocs (l : List (Loc × Nat)) : List Loc := l.flatMap fun e => (List.range (e.2 / 256)).map fun i => e.1.add (256 * i)

/-- Step 5 of R340: the pages of the cells. -/
def descPages (s : State) (acc : Acc) (g : GDesc) : State × Resolved :=
  let l := s.launch s.curLaunch
  resolve s (gradedUnit s) l.f acc (cellVa l g.reg g.first) (256 * g.count)

/-- Whether a cell of a range is reserved by a graded write not yet applied (R337). -/
def cellsBusy (s : State) (l reg first count : Nat) : Bool :=
  s.graded.any fun x => x.kind.isSome && x.launch == l && x.region == reg && x.first < first + count && first < x.first + x.count

/-! ## Tag changes -/

/-- What a graded write does to one tag: the cause of its failed check, or the new tag and whether that is an amendment
(R342 to R344). -/
def planTag (k : GradedKind) (g : Nat) (t : Byte) : Except Byte (Byte × Bool) :=
  let gr := gradeOf t
  let n := genOf t
  match k with
  | .gput =>
    if gr = 3 then .error 0x21
    else if g < gr then .error 0x20
    else if 0 < gr && consOf t && n = 31 then .error 0x22
    else if gr = 0 then .ok (mkTag (consOf t) 0 g, false)
    else if consOf t then .ok (mkTag false (n + 1) g, true)
    else .ok (mkTag false n g, false)
  | .amend =>
    if gr = 0 then .error 0x12
    else if gr = 3 then .error 0x21
    else if g < gr then .error 0x20
    else if n = 31 then .error 0x22
    else .ok (mkTag false (n + 1) g, true)
  | .final =>
    if gr = 0 then .error 0x12
    else if gr = 3 then .ok (t, false)
    else if consOf t then (if n = 31 then .error 0x22 else .ok (mkTag false (n + 1) 3, true))
    else .ok (mkTag false n 3, false)

/-- The cells of an instruction, ascending: cell number and place. -/
def cellsOf (first : Nat) (locs : List Loc) : List (Nat × Loc) := (List.range locs.length).map fun j => (first + j, locs.getD j .zero)

/-- The first failing check among cells, with its cell (R337). -/
def planFault (s : State) (l : Launch) (reg : Nat) (k : GradedKind) (g : Nat) (cs : List (Nat × Loc)) : Option (Byte × Nat) :=
  cs.findSome? fun c => match planTag k g (tagAt s l.f (cellVa l reg c.1) c.2) with
    | .error e => some (e, c.1)
    | .ok _ => none

/-- One cell's tag changed, with the re-firings of an amendment (R350). -/
def applyTag (l reg : Nat) (k : GradedKind) (g hop : Nat) (s : State) (c : Nat × Loc) : State :=
  let x := s.launch l
  let va := cellVa x reg c.1
  match planTag k g (tagAt s x.f va c.2) with
  | .error _ => s
  | .ok (t, amend) =>
    let s := putTagAt s x.f va c.2 t
    if amend then amendCell s l reg c.1 (gradeOf t) hop else s

/-- The tags of all cells changed in ascending order, then the tasks that became ready (R337, R71). -/
def applyTags (s : State) (l reg : Nat) (k : GradedKind) (g hop : Nat) (cs : List (Nat × Loc)) : State :=
  fireReady (cs.foldl (applyTag l reg k g hop) s) l

/-- The data of cells written, 256 bytes each. -/
def writeCells : State → List (Nat × Loc) → List Byte → State
  | s, [], _ => s
  | s, c :: r, bs => writeCells (s.locStore c.2 (bs.take 256)) r (bs.drop 256)

/-! ## Hop counts -/

/-- The hop count that a team's amendment carries (R349). -/
def teamHop (s : State) (t : Nat) : Nat :=
  (s.team t).tiles.foldl (fun h u => match s.task (s.team t).info.launch u.task.toNat with
    | some k => max h k.hop
    | none => h) 0

/-! ## The instructions -/

/-- What R98 needs of an instruction of R339 charged to the copy issue engine. -/
def rulesGraded (regs : List Byte) (ok : Bool) : Rules where
  copy := true
  shuttle := true
  legal := fun _ => ok
  regs := regs
  passes := some 1

/-- Whether the issuing party has room for one more graded instruction of `n` bytes: a Shuttle's transfers (R246). -/
def gradedRoom (s : State) (n : Nat) : Bool :=
  match s.cur with
  | .shuttle h k => flightRoom s h k n
  | _ => true

/-- The program of the issuing Shuttle (R242). -/
def State.curRun (s : State) : Nat :=
  match s.cur with
  | .shuttle h n => (s.shuttle h n).run
  | _ => 0

/-- The batch that a graded instruction of a team joins (R341). -/
def joinGraded (s : State) (n : Nat) : State × Word :=
  match s.cur with
  | .team t =>
    let x := s.team t
    let d := x.deps.joinBatch n
    (s.putTeam t { x with deps := d }, (d.batches.getLast?.map (·.no)).getD 0)
  | _ => (s, 0)

/-- The end of a graded instruction in flight (R341). -/
def endGraded (s : State) (x : GradedFlight) : State :=
  let s : State := { s with graded := s.graded.filter (·.id != x.id) }
  let s := freeLocks (freeLocks s x.h x.id true) x.h x.id false
  let s := match x.party with
    | .team t => s.putTeam t { s.team t with deps := (s.team t).deps.leaveBatch x.batch }
    | .shuttle h n => endStop s h n
    | .none => s
  dropHolder s x.id

/-- The failing cell of a tag check as a fault (R340, R398). -/
def cellFault (c : Byte × Nat) (reg : Nat) : Eff := .fault c.1 (w32 c.2) (w32 reg)

/-- The body of GPUT and AMEND (R341 to R343): checked in the cell order, then the cells are reserved (R337). -/
def writeBody (i : Instr) (k : GradedKind) (a : Byte) (w : View) (s : State) : Eff :=
  let g := readDesc w a
  match descRange i s { grade := true, sh := true } g with
  | some e => e
  | none =>
    match descShared s false g with
    | some e => e
    | none =>
      let (s, r) := descPages s .gwrite g
      match r.chk.eff s with
      | some e => e
      | none =>
        let l := s.curLaunch
        if cellsBusy s l g.reg g.first g.count then .wait s .retry
        else
          match planFault s (s.launch l) g.reg k g.grade (cellsOf g.first (cellLocs r.locs)) with
          | some c => cellFault c g.reg
          | none =>
            let h := s.curHarness
            if 64 ≤ (s.harness h).locks.length || !gradedRoom s (256 * g.count) then .wait s .retry
            else
              let id := s.nextId
              let who := match s.cur with
                | .shuttle _ n => some n
                | _ => none
              let lock : Lock := { id := id, lo := g.sh, hi := g.sh + 256 * g.count, dest := false, shuttle := who }
              let hop := teamHop s s.curTeam
              let (s, no) := joinGraded s 1
              let x : GradedFlight :=
                { id := id, h := h, party := s.cur, run := s.curRun, team := s.curTeam, batch := no, kind := some k, launch := l, region := g.reg
                  first := g.first, count := g.count, grade := g.grade, hop := hop, data := [], sh := g.sh, slot := 0, input := 0
                  lowG := 0, highN := 0, pc := issuePc s, locs := cellLocs r.locs, pages := r.pages }
              let s := s.fresh.putHarness h { s.harness h with locks := (s.harness h).locks ++ [lock] }
              .done ({ s with graded := s.graded ++ [x] }.post .gradedWriteComplete { id := id })

def execGput (a : Byte) (s : State) : Host.Outcome State Fault Refusal :=
  issue (.gput a) (rulesGraded [a] (isBase 4 a)) (writeBody (.gput a) .gput a) s
def execAmend (a : Byte) (s : State) : Host.Outcome State Fault Refusal :=
  issue (.amend a) (rulesGraded [a] (isBase 4 a)) (writeBody (.amend a) .amend a) s

/-- Whether a graded write of number `id` waits for what its party issued before: a Shuttle's transfers and graded instructions
(R371, R341), a read of a team's copy (R366), accesses still to act (R371, R392). -/
def gradedHeld (s : State) (p : Party) (id : Nat) : Bool :=
  match p with
  | .shuttle h n =>
    lateBefore s p id || (s.transfers.any fun y => y.id < id && y.h == h && y.shuttle == n && y.copy.isNone) ||
      s.graded.any fun y => y.id < id && y.party == .shuttle h n
  | .team t => lateBefore s p id || copyUnread s t id
  | .none => false

/-- Whether party `p` has a read to fix of something issued before number `id`: of a Shuttle's transfer, of a team's copy, of the
source of a graded write, or of an access still to act (R366, R368). -/
def readsLeft (s : State) (p : Party) (id : Nat) : Bool :=
  lateBefore s p id || (s.graded.any fun y => y.id < id && y.party == p && y.kind.isSome && y.sent.isNone) ||
    match p with
    | .shuttle h n => s.transfers.any fun y => y.id < id && y.h == h && y.shuttle == n && y.copy.isNone && y.data.isNone
    | .team t => copyUnread s t id
    | .none => false

/-- The ports send the cells of a graded write and hold them from now on (R365); its source has been read, and that entry of the
range-lock table is freed (R250, R341). -/
def sendGraded (s : State) (x : GradedFlight) (data : List Byte) : State :=
  let s := freeLocks s x.h x.id false
  let gs := s.graded.map fun y => if y.id = x.id then { y with sent := some s.nextId, data := data } else y
  { s.fresh with graded := gs }.post .gradedWriteComplete { id := x.id }

/-- The cells of a graded write, then their tags (R336, R337). -/
def applyGraded (s : State) (x : GradedFlight) (k : GradedKind) (data : List Byte) : State :=
  let cs := cellsOf x.first x.locs
  applyTags (writeCells s cs data) x.launch x.region k x.grade x.hop cs

/-- GRADED_WRITE_COMPLETE (R336, R337, R342, R343): the data first, then the tags, after what comes before (R371); cells that a
peer keeps are first sent, and the peer's acknowledgement is a second such step (R358, R365). -/
def execGradedWriteComplete (s : State) : Host.Outcome State Fault Refusal :=
  .next <|
    match s.graded.find? fun x => x.id == s.ev.id with
    | none => s
    | some x =>
      match x.kind with
      | none => s
      | some k =>
        match x.held s with
        | none =>
          let data := memBytes (s.harness x.h).shared x.sh (256 * x.count)
          if gradedHeld s x.party x.id then s
          else if x.locs.any fun l => (portAt (x.die s) 0 l).isSome then sendGraded s x data
          else endGraded (applyGraded s x k data) x
        | some y => if sentBefore s y then s else endGraded (if x.applied then s else applyGraded s x k x.data) x

/-- The homes apply a sent graded write (R365). -/
def homeGraded (s : State) (x : GradedFlight) : State :=
  match x.held s, x.kind with
  | some y, some k =>
    if x.applied || sentUnapplied s y || !Config.homeApplies s.freeIx x.id then s
    else
      let s := applyGraded s x k x.data
      { s with graded := s.graded.map fun z => if z.id = x.id then { z with applied := true } else z }
  | _, _ => s

/-- The homes apply a sent transfer (R365). -/
def homeTransfer (s : State) (x : Transfer) : State :=
  match x.held s with
  | some y =>
    if x.applied || sentUnapplied s y || !Config.homeApplies s.freeIx x.id then s
    else
      let s := writeSegs false s x.segs (x.data.getD [])
      { s with transfers := s.transfers.map fun z => if z.id = x.id then { z with applied := true } else z }
  | none => s

/-- The homes apply a sent write of the IO die (R365). -/
def homePort (s : State) (x : PortWrite) : State :=
  if x.applied || sentUnapplied s x.held || !Config.homeApplies s.freeIx x.id then s
  else
    let found := s.locBytes x.loc 8
    let s := x.apply s
    { s with portWrites := s.portWrites.map fun z => if z.id = x.id then { z with applied := true, found := found } else z }

/-- The homes apply some of the writes that ports have sent, before their acknowledgements arrive (R365). -/
def applySent (s : State) : State :=
  let s := s.transfers.foldl homeTransfer s
  let s := s.graded.foldl homeGraded s
  s.portWrites.foldl homePort s

/-- FINAL (R344): its tags change in the step that checks them, after what comes before (R371). -/
def execFinal (a : Byte) (s : State) : Host.Outcome State Fault Refusal :=
  issue (.final a) (rulesGraded [a] (isBase 4 a))
    (fun w s =>
      let g := readDesc w a
      match descRange (.final a) s {} g with
      | some e => e
      | none =>
        let (s, r) := descPages s .gwrite g
        match r.chk.eff s with
        | some e => e
        | none =>
          let l := s.curLaunch
          if cellsBusy s l g.reg g.first g.count || !gradedRoom s 0 || gradedHeld s s.cur s.nextId then .wait s .retry
          else
            let cs := cellsOf g.first (cellLocs r.locs)
            match planFault s (s.launch l) g.reg .final 3 cs with
            | some c => cellFault c g.reg
            | none => .done (applyTags (joinGraded s 0).1 l g.reg .final 3 (teamHop s s.curTeam) cs)) s

/-- RETIRE (R345): every tag becomes 0x00. -/
def execRetire (a : Byte) (s : State) : Host.Outcome State Fault Refusal :=
  issue (.retire a) (rulesTask [a] (isBase 4 a))
    (fun w s =>
      let g := readDesc w a
      match descRange (.retire a) s {} g with
      | some e => e
      | none =>
        let (s, r) := descPages s .gwrite g
        match r.chk.eff s with
        | some e => e
        | none =>
          let l := s.curLaunch
          if cellsBusy s l g.reg g.first g.count then .wait s .retry
          else
            let x := s.launch l
            .done ((cellsOf g.first (cellLocs r.locs)).foldl (fun s c => putTagAt s x.f (cellVa x g.reg c.1) c.2 0) s)) s

/-- The tags of cells. -/
def tagsOf (s : State) (l : Launch) (reg : Nat) (cs : List (Nat × Loc)) : List Byte :=
  cs.map fun c => tagAt s l.f (cellVa l reg c.1) c.2

/-- GGET (R346): the snapshot and CONS in one step, once its party's earlier reads are fixed (R366); the cells land later. -/
def execGget (a b : Byte) (s : State) : Host.Outcome State Fault Refusal :=
  issue (.gget a b) (rulesGraded [a, b] (isBase 4 a && isS b))
    (fun w s =>
      let g := readDesc w a
      let slot := (rd w b 0).toNat
      match descRange (.gget a b) s { input := true, grade := true, sh := true } g with
      | some e => e
      | none =>
        match descShared s true g with
        | some e => e
        | none =>
          match slotFault s false slot with
          | some e => e
          | none =>
            let (s, r) := descPages s .gread g
            match r.chk.eff s with
            | some e => e
            | none =>
              let l := s.curLaunch
              let x := s.launch l
              let cs := cellsOf g.first (cellLocs r.locs)
              let tags := tagsOf s x g.reg cs
              if cellsBusy s l g.reg g.first g.count || readsLeft s s.cur s.nextId then .wait s .retry
              else
                match (List.range g.count).find? fun j => gradeOf (tags.getD j 0) < g.grade with
                | some j => .fault 0x12 (w32 (g.first + j)) (w32 g.reg)
                | none =>
                  let h := s.curHarness
                  if 64 ≤ (s.harness h).locks.length || !gradedRoom s (256 * g.count) then .wait s .retry
                  else
                    let id := s.nextId
                    let data := cs.flatMap fun c => portRead s (dieOf (s.harness h).core) (freestPort s) c.2 256
                    let who := match s.cur with
                      | .shuttle _ n => some n
                      | _ => none
                    let lock : Lock := { id := id, lo := g.sh, hi := g.sh + 256 * g.count, dest := true, shuttle := who }
                    let s := cs.foldl (fun s c =>
                      let va := cellVa x g.reg c.1
                      let t := tagAt s x.f va c.2
                      putTagAt s x.f va c.2 (mkTag true (genOf t) (gradeOf t))) s
                    let (s, no) := joinGraded s 1
                    let fl : GradedFlight :=
                      { id := id, h := h, party := s.cur, run := s.curRun, team := s.curTeam, batch := no, kind := none, launch := l, region := g.reg
                        first := g.first, count := g.count, grade := g.grade, hop := 0, data := data, sh := g.sh, slot := slot
                        input := g.input, lowG := (tags.map gradeOf).foldl min 3, highN := (tags.map genOf).foldl max 0, pc := issuePc s
                        pages := r.pages }
                    let s := s.fresh.putHarness h { s.harness h with locks := (s.harness h).locks ++ [lock] }
                    .done ({ s with graded := s.graded ++ [fl] }.post .ggetLanding { id := id })) s

/-- GGET_LANDING (R346, R324), once its party's earlier reads are fixed (R366, R368). -/
def execGgetLanding (s : State) : Host.Outcome State Fault Refusal :=
  .next <|
    match s.graded.find? fun x => x.id == s.ev.id && x.kind.isNone && !readsLeft s x.party x.id with
    | none => s
    | some x =>
      let s := s.locStore (.shared x.h x.sh) x.data
      let s := endGraded s x
      slotUpdate s x.h x.slot true 0 (some { grade := x.lowG, gen := x.highN, input := x.input })

/-- GQRY (R347). -/
def execGqry (d a : Byte) (s : State) : Host.Outcome State Fault Refusal :=
  issue (.gqry d a) (rulesGraded [d, a] (isS d && isBase 4 a))
    (fun w s =>
      let g := readDesc w a
      match descRange (.gqry d a) s { most := 4 } g with
      | some e => e
      | none =>
        let (s, r) := descPages s .gread g
        match r.chk.eff s with
        | some e => e
        | none =>
          let l := s.curLaunch
          if cellsBusy s l g.reg g.first g.count then .wait s .retry
          else
            let v := w32 (leNat (tagsOf s (s.launch l) g.reg (cellsOf g.first (cellLocs r.locs))))
            .done (startOp (s.putRegs (wrS w.regs d v)) .load [d])) s

/-- GWAIT (R348). -/
def execGwait (a : Byte) (s : State) : Host.Outcome State Fault Refusal :=
  issue (.gwait a) (rulesTask [a] (isBase 4 a))
    (fun w s =>
      let g := readDesc w a
      match descRange (.gwait a) s { grade := true } g with
      | some e => e
      | none =>
        let (s, r) := descPages s .gread g
        match r.chk.eff s with
        | some e => e
        | none =>
          let l := s.curLaunch
          let tags := tagsOf s (s.launch l) g.reg (cellsOf g.first (cellLocs r.locs))
          if cellsBusy s l g.reg g.first g.count then .wait s .retry
          else if tags.all fun t => g.grade ≤ gradeOf t then .done s
          else .wait s (.grade g.reg g.first g.count g.grade)) s

/-! ## Writes from peer modules -/

/-- The live launch of a function and its region that hold the cell at `va`. -/
def regionAt (s : State) (f va : Nat) : Option (Nat × Nat) :=
  (List.range s.launches.length).findSome? fun l =>
    let x := s.launch l
    if x.live && x.f == f then
      (x.regions.findIdx? fun r => r.base ≤ va && va < r.base + 256 * r.cells).map fun g => (l, g)
    else none

/-- One cell's tag changed by its address, where no region of a live launch may hold it. -/
def applyTagVa (f va : Nat) (k : GradedKind) (g hop : Nat) (s : State) (c : Nat × Loc) : State :=
  let at' := va + 256 * c.1
  match planTag k g (tagAt s f at' c.2) with
  | .error _ => s
  | .ok (t, amend) =>
    let s := putTagAt s f at' c.2 t
    match regionAt s f at' with
    | some (l, reg) =>
      let s := if amend then amendCell s l reg ((at' - ((s.launch l).regions.getD reg { base := 0, cells := 0, clr := false }).base) / 256)
        (gradeOf t) hop else s
      fireReady s l
    | none => s

/-- PEER_GRADED_WRITE (R358): cells from virtual address `off` of function `f`, `n` of them, kind `graded`, grade `v`, hop
`lane`, data `bytes`; the peer's access is refused, and nothing changes, when a check fails. -/
def execPeerGradedWrite (s : State) : Host.Outcome State Fault Refusal :=
  .next <|
    let e := s.ev
    let s := wakeModule s
    let va := e.off / 256 * 256
    let (s, r) := resolve s .io e.f .gwrite va (256 * e.n)
    let cs := cellsOf 0 (cellLocs r.locs)
    let g := e.v.toNat % 4
    if r.chk != .ok || e.n = 0 || g = 0 then s
    else if cs.any fun c => match planTag e.graded g (tagAt s e.f (va + 256 * c.1) c.2) with
        | .error _ => true
        | .ok _ => false then s
    else if cs.any fun c => match regionAt s e.f (va + 256 * c.1) with
        | some (l, reg) => cellsBusy s l reg ((va + 256 * c.1 - ((s.launch l).regions.getD reg { base := 0, cells := 0, clr := false }).base) / 256) 1
        | none => false then s
    else
      let s := if e.graded = .final then s else writeCells s cs e.bytes
      cs.foldl (applyTagVa e.f va e.graded g e.lane) s

end Sys2Proof.Machine
end

