-- ==== Sys2Proof/Machine/Mailboxes.lean ====
section
/-! DEFINITION. Mailboxes (R388, R389): puts and gets of teams, and the order of waiting puts. -/

namespace Sys2Proof.Machine

/-- HEAD and TAIL of mailbox `m` of a function (R388). -/
def mboxHead (s : State) (f m : Nat) : Word := memWord (s.func f).mbox (256 * m)
def mboxTail (s : State) (f m : Nat) : Word := memWord (s.func f).mbox (256 * m + 4)

def mboxEmpty (s : State) (f m : Nat) : Bool := mboxTail s f m == mboxHead s f m
def mboxFull (s : State) (f m : Nat) : Bool := 7 ≤ (mboxTail s f m - mboxHead s f m).toNat

/-- The address of the slot of message `t`. -/
def mboxSlot (m : Nat) (t : Word) : Nat := 256 * m + 32 + 32 * (t.toNat % 7)

def putMbox (s : State) (f a : Nat) (bs : List Byte) : State :=
  s.putFunc f { s.func f with mbox := memStore (s.func f).mbox a bs }

/-- A message put in a mailbox that is not full: the slot, then TAIL. -/
def mboxPut (s : State) (f m : Nat) (msg : List Word) : State :=
  let t := mboxTail s f m
  putMbox (putMbox s f (mboxSlot m t) (msg.flatMap fun w => leBytes 4 w.toNat)) f (256 * m + 4) (leBytes 4 (t + 1).toNat)

/-- The message at HEAD. -/
def mboxMessage (s : State) (f m : Nat) : List Word :=
  (List.range 8).map fun i => memWord (s.func f).mbox (mboxSlot m (mboxHead s f m) + 4 * i)

/-- HEAD advanced by one. -/
def mboxTake (s : State) (f m : Nat) : State := putMbox s f (256 * m) (leBytes 4 (mboxHead s f m + 1).toNat)

/-- Whether a put finds the mailbox full, or other puts waiting before it (R389). -/
def putWaits (s : State) (f m : Nat) : Bool := mboxFull s f m || (s.func f).puts.any (·.mailbox == m)

/-- A put joins the waiting list, once, with its message. -/
def joinPuts (s : State) (f m : Nat) (who : Putter) (msg : List Word) : State :=
  let fn := s.func f
  if fn.puts.any (·.who == who) then s else s.putFunc f { fn with puts := fn.puts ++ [⟨m, who, msg⟩] }

/-- The issuing party as one that puts. -/
def State.putter (s : State) : Putter :=
  match s.cur with
  | .shuttle h n => .shuttle h n
  | _ => .team s.curTeam s.me.flow.path

/-- What has waited with its put goes on: the instruction completes when it issues again, the packet is done. -/
def finishPut (s : State) (f : Nat) : Putter → State
  | .team t i => wake s t i .met
  | .shuttle h n => s.putShuttle h n { s.shuttle h n with posted := true }
  | .packet q id => s.putFunc f { s.func f with
      queues := (s.func f).queues.map fun e => if e.1 = q then
        (q, { e.2 with accepted := e.2.accepted.map fun p => if p.id = id then { p with done := true } else p }) else e }

/-- The waiting puts of mailbox `m` applied in order while it has room (R389). -/
def servePuts (f m : Nat) : List Put → State → State
  | [], s => s
  | p :: r, s =>
    if p.mailbox = m && !mboxFull s f m then
      let s := mboxPut s f m p.msg
      servePuts f m r (finishPut (s.putFunc f { s.func f with puts := (s.func f).puts.filter (·.who != p.who) }) f p.who)
    else servePuts f m r s

/-- A slot of mailbox `m` may have been freed: puts that wait are applied. -/
def mboxServe (s : State) (f m : Nat) : State := servePuts f m (s.func f).puts s

/-- What R98 needs of an instruction of R374. -/
def rulesToken (copy : Bool) (regs : List Byte) (ok : Bool) : Rules where
  copy := copy
  legal := fun _ => ok
  regs := regs

/-- MBXPUT (R388, R389): it reaches the IO die once its team's accesses have acted; once its waiting put has been applied, it completes. -/
def execMbxput (a b : Byte) (s : State) : Host.Outcome State Fault Refusal :=
  issue (.mbxput a b) (rulesToken false [a, b] (isBase 8 a && isS b))
    (fun w s =>
      let m := (rd w b 0).toNat
      let f := s.curFn
      let msg := (List.range 8).map (rdS w a)
      if s.me.path.dep == some .met then .done (startOp s .store [])
      else if 65536 ≤ m then illegal (.mbxput a b) s
      else if lateBefore s s.cur s.nextId then .wait s .retry
      else if putWaits s f m then .wait (joinPuts s f m s.putter msg) (.put m)
      else .done (startOp (mboxPut s f m msg) .store [])) s

/-- MBXGET (R388); a slot that it frees goes to a waiting put (R389). HEAD moves once the reads of its path are fixed (R366; log 102). -/
def execMbxget (d a b : Byte) (s : State) : Host.Outcome State Fault Refusal :=
  issue (.mbxget d a b) (rulesToken false [d, a, b] (isBase 8 d && isS a && isS b))
    (fun w s =>
      let m := (rd w a 0).toNat
      let f := s.curFn
      if 65536 ≤ m then illegal (.mbxget d a b) s
      else if mboxEmpty s f m then .done (startOp (s.putRegs (wrS w.regs b 0)) .load [b])
      else if readsLate s s.curMask then .wait s .retry
      else
        let r := wrS (wrSs w.regs d (mboxMessage s f m)) b 1
        .done (startOp ((mboxServe (mboxTake s f m) f m).putRegs r) .load (b :: (List.range 8).map (regAt d)))) s

end Sys2Proof.Machine
end

