-- ==== Sys2Proof/Machine/Queues.lean ====
section
/-! DEFINITION. Queues and packets: control entries and notifies (R45, R46, R52), reading and acceptance (R53 to R55),
queue programs (R61 to R63), order and completion (R56, R57), and the loss of a queue processor (R64). -/

namespace Sys2Proof.Machine

/-! ## Queue entries -/

def State.queue (s : State) (f q : Nat) : Queue := ((s.func f).queues.lookup q).getD {}

def State.putQueue (s : State) (f q : Nat) (x : Queue) : State :=
  s.putFunc f { s.func f with queues := putAssoc (s.func f).queues q x }

/-- A function that serves requests: the physical function, or one in STATE 1 (R438, R444). -/
def fnUp (s : State) (f : Nat) : Bool := 64 ≤ f || (s.func f).state == 1

/-- The home processor of a queue: the first running one from (f + q) mod 16 on (R47, R64); the physical function counts as
number 64 (log 110). -/
def homeOf (s : State) (f q : Nat) : Option Nat :=
  ((List.range 16).map fun k => (f + q + k) % 16).find? fun n => !s.lostProcs.contains n

/-- A packet error or a failed launch (R55); what was read and not accepted is read again, and what was accepted goes on. -/
def packetError (s : State) (f q : Nat) (seq : Word) (code : Nat) : State :=
  let x := s.queue f q
  let s := if x.state = 1 ∨ x.state = 2 then s.putQueue f q { x with state := 3, taken := none } else s
  sendEvent s f 1 [w32 q, seq, w32 code]

/-- A draining queue whose last accepted packet of its own has ended is off (R46, R55). -/
def endDrain (s : State) (f q : Nat) : State :=
  let x := s.queue f q
  if x.state = 5 ∧ x.accepted.all (·.orphan) then s.putQueue f q { x with state := 0 } else s

/-- The overrun of R52; the SEQ of its message is left open (log 12). -/
def checkOverrun (s : State) (f q : Nat) : State :=
  let x := s.queue f q
  if x.state = 1 ∧ 2 ^ x.logn < (x.notified - x.rdidx).toNat then packetError s f q (Config.freeWord s.freeIx) 7 else s

/-- A notify of write index `i` (R52, R445). -/
def notify (s : State) (f q : Nat) (i : Word) : State :=
  let s := wakeModule s
  let x := s.queue f q
  let d := (i - x.notified).toNat
  if fnUp s f && (x.state == 1 || x.state == 2 || x.state == 3) && 1 ≤ d && d ≤ 2 ^ 31 then
    checkOverrun (s.putQueue f q { x with notified := i }) f q
  else s

/-- NOTIFY (R51, R52): the 8 bytes written to the notify register. -/
def execNotify (s : State) : Host.Outcome State Fault Refusal :=
  .next (notify s s.ev.f (s.ev.v.extractLsb' 0 11).toNat (s.ev.v.extractLsb' 32 32))

/-- Why a create fails (R46). -/
def createCode (s : State) (x : Queue) : Nat :=
  if x.logn < 6 || 16 < x.logn then 2
  else if x.ringoff.toNat % 4096 != 0 || s.svc.qmemLen < x.ringoff.toNat + 64 * 2 ^ x.logn then 3
  else 0

/-- Create (R46). -/
def queueCreate (s : State) (f q : Nat) : State :=
  let x := s.queue f q
  if x.state != 0 || !fnUp s f then s
  else if createCode s x = 0 then
    s.putQueue f q { x with
      state := 1, rdidx := 0, notified := 0, lastacc := x.nextseq - 1, lastcomp := x.nextseq - 1, finished := [] }
  else sendEvent s f 1 [w32 q, x.nextseq, w32 (createCode s x)]

/-- Destroy (R46). -/
def queueDestroy (s : State) (f q : Nat) : State :=
  let x := s.queue f q
  if !fnUp s f then s
  else if x.state = 4 then
    s.putQueue f q { x with state := 0, taken := none, accepted := x.accepted.map fun p => { p with orphan := true } }
  else if x.state = 1 ∨ x.state = 2 ∨ x.state = 3 then
    s.putQueue f q { x with state := if x.accepted.all (·.orphan) then 0 else 5, taken := none }
  else s

/-- Resume (R46, R52). -/
def queueResume (s : State) (f q : Nat) : State :=
  let x := s.queue f q
  if fnUp s f && (x.state == 2 || x.state == 3) then checkOverrun (s.putQueue f q { x with state := 1 }) f q else s

def execQueueCreate (s : State) : Host.Outcome State Fault Refusal := .next (queueCreate (wakeModule s) s.ev.f s.ev.q)
def execQueueDestroy (s : State) : Host.Outcome State Fault Refusal := .next (queueDestroy (wakeModule s) s.ev.f s.ev.q)
def execQueueResume (s : State) : Host.Outcome State Fault Refusal := .next (queueResume (wakeModule s) s.ev.f s.ev.q)

/-! ## Packets -/

def Packet.w (p : Packet) (i : Nat) : Word := p.words.getD i 0
def Packet.q64 (p : Packet) (i : Nat) : Nat := (p.w i).toNat + (p.w (i + 1)).toNat * 2 ^ 32
def packetType (ws : List Word) : Nat := ((ws.getD 0 0).extractLsb' 0 8).toNat
def Packet.type (p : Packet) : Nat := packetType p.words
def Packet.evt (p : Packet) : Bool := (p.w 0).getLsbD 10
def Packet.bar (p : Packet) : Bool := (p.w 0).getLsbD 9
def Packet.csigAddr (p : Packet) : Nat := p.q64 2

/-- The payload bits that a type uses, words 4 to 15 (R49). -/
def payloadMask (ty : Nat) : List Word :=
  let m : Word := 0xFFFFFFFF
  match ty with
  | 1 => [m, m, 0, 0, 0, 0, 0, 0, 0, 0, 0, 0]
  | 2 => [0xF, 0, 0, 0, 0, 0, 0, 0, 0, 0, 0, 0]
  | 3 => [0xF, 0, 0, 0, 0, 0, 0, 0, 0, 0, 0, 0]
  | 4 => [m, m, m, m, 3, 0, 0, 0, 0, 0, 0, 0]
  | 5 => [0xFFFF, 0, m, m, m, m, m, m, m, m, 0, 0]
  | 6 => [m, m, 0x3F, m, m, 3, 0x7FF, m, 0, 0, 0, 0]
  | 7 => [0, 0, 0, 0, 0, 0, 0x7FF, m, m, 0, 0, 0]
  | 8 => [m, m, m, m, m, 0, 0, 0, 0, 0, 0, 0]
  | 10 => [0xFF, 0, m, m, m, 0, 0x7FF, m, 0, 0, 0, 0]
  | 11 => [m, m, m, m, 0, 0, 0, 0, 0, 0, 0, 0]
  | 12 => [m, m, m, 0xFFF, m, m, m, 0, 0, 0, 0, 0]
  | _ => [0, 0, 0, 0, 0, 0, 0, 0, 0, 0, 0, 0]

/-- A condition code that R50 does not define. -/
def badCond (c : Nat) : Bool := c == 4 || c == 5

/-- An entry of a WAIT packet: signal, condition, compare value (R49). -/
def Packet.entry (p : Packet) (j : Nat) : Nat × Nat × BitVec 64 :=
  (p.q64 (16 + 4 * j) / 8 * 8, ((p.w (16 + 4 * j)).extractLsb' 0 3).toNat, BitVec.ofNat 64 (p.q64 (18 + 4 * j)))

def Packet.count (p : Packet) : Nat := ((p.w 4).extractLsb' 0 4).toNat

/-- The checks of a packet's own fields: the error of the first that fails, 0 when all pass (R48 to R50, R55, R27); the codes 2 come
before code 3 (log 93), and a SIGNAL of operation 3 is code 2 (log 94). -/
def packetCheck (p : Packet) : Nat :=
  let ty := p.type
  if (p.w 0).extractLsb' 11 21 != 0 then 2
  else if (List.range 12).any fun i => (p.w (4 + i)) &&& ~~~((payloadMask ty).getD i 0) != 0 then 2
  else if (ty == 2 || ty == 3) && (p.count < 1 || 12 < p.count || (List.range p.count).any fun j => badCond (p.entry j).2.1) then 2
  else if ty == 11 && badCond ((p.w 4).extractLsb' 0 3).toNat then 2
  else if ty == 4 && (p.w 8).extractLsb' 0 2 == 3 then 2
  else if ty == 6 && (p.w 8 == 0 || (p.w 9).extractLsb' 0 2 == 0) then 2
  else if ty == 8 && p.w 8 == 0 then 2
  else if ty == 10 && (p.w 4 == 0 || 7 < (p.w 4).toNat) then 2
  else if ty == 12 && 1024 < (p.w 6).toNat then 2
  else if p.csigAddr % 8 != 0 || (ty == 4 && p.q64 4 % 8 != 0) || (ty == 1 && p.q64 4 % 256 != 0) then 3
  else 0

/-! ## Queue programs -/

/-- The fields of a program word (R62). -/
def qOp (w : Word) : Nat := (w.extractLsb' 24 8).toNat
def qD (w : Word) : Nat := (w.extractLsb' 20 4).toNat
def qA (w : Word) : Nat := (w.extractLsb' 16 4).toNat
def qImm (w : Word) : BitVec 16 := w.extractLsb' 0 16
def qLen (w : Word) : Nat := (w.extractLsb' 0 7).toNat

/-- One word is defined and has zero reserved bits (R61, R62): the fields that its form does not use (log 95). -/
def qWordOk (w : Word) : Bool :=
  let i := (qImm w).toNat
  match qOp w with
  | 0x01 => qD w < 8 && qA w == 0 && i < 32
  | 0x02 => qD w < 8 && qA w == 0 && 1 ≤ i && i < 32
  | 0x03 => qD w < 8 && qA w == 0
  | 0x04 => qD w < 8 && qA w < 8 && i < 8
  | 0x05 => qD w < 8 && qA w < 8 && i < 8
  | 0x06 => qD w < 8 && qA w < 8 && i < 8
  | 0x07 => qD w < 8 && qA w < 8 && i < 64
  | 0x08 => qD w < 8 && qA w < 8 && i < 64
  | 0x09 => qD w < 8 && qA w < 8 && i == 0
  | 0x0A => qD w < 8 && qA w < 8 && i == 0
  | 0x0B => qD w == 0 && qA w < 8 && 1 ≤ i && i ≤ 1023
  | 0x0C => qD w == 0 && qA w == 0
  | 0x0D => qD w == 0 && qA w == 0 && i == 0
  | 0x0E => qD w == 0 && qA w == 0 && i == 0
  | 0x0F => qD w == 0 && qA w == 0 && 1 ≤ i && i ≤ 7
  | _ => false

/-- Loops that hold word `j` of a program in their bodies. -/
def qDepth (ws : List Word) (j : Nat) : Nat :=
  ((List.range j).filter fun i => qOp (ws.getD i 0) == 0x0C && j ≤ i + qLen (ws.getD i 0)).length

/-- The load checks of R61. -/
def qProgramOk (ws : List Word) : Bool :=
  ws.all qWordOk &&
    ((List.range ws.length).all fun i =>
      let w := ws.getD i 0
      (qOp w != 0x0B || i + 1 + (qImm w).toNat < ws.length) &&
        (qOp w != 0x0C || (i + qLen w < ws.length && qDepth ws i < 4))) &&
    (match ws.getLast? with
      | some w => qOp w == 0x0D || qOp w == 0x0E || qOp w == 0x0F
      | none => false)

/-- What a queue program has done so far. -/
structure QRun where
  g     : List (BitVec 64) := List.replicate 8 0
  words : List Word
  pc    : Nat := 0
  loops : List (Nat × Nat × Nat) := []    -- start, end, runs left
  buf   : List (Sig × BitVec 64) := []    -- buffered signal writes, oldest first (R54)
  deriving DecidableEq, Repr

/-- How a queue program ends. -/
inductive QEnd where
  | pass (r : QRun) | drop (r : QRun) | fail (code : Nat)
  deriving DecidableEq, Repr

/-- The signal at an address (R63): the bound range holds virtual addresses, the ring offsets in queue memory; an address in both
is one of the bound range (log 57). -/
def sigAt (s : State) (f : Nat) (x : Queue) (acc : Acc) (a : Nat) : State × Except Nat Sig :=
  if a % 8 != 0 then (s, .error 5)
  else if x.sigBase ≤ a && a + 8 ≤ x.sigBase + x.sigLen then
    let (s, r) := resolve s .io f acc a 8
    match r.chk, r.locs with
    | .ok, (l, _) :: _ => (s, .ok (.place l))
    | _, _ => (s, .error 3)
  else if x.ringoff.toNat ≤ a && a + 8 ≤ x.ringoff.toNat + 64 * 2 ^ x.logn then (s, .ok (.ring a))
  else (s, .error 5)

def sigRead (s : State) (f : Nat) : Sig → BitVec 64
  | .place l => BitVec.ofNat 64 (leNat (s.ioBytes l 8))
  | .ring a => BitVec.ofNat 64 (leNat (memBytes (s.func f).qmem a 8))

def sigWrite (s : State) (f : Nat) (packet : Option (Nat × Nat × Nat)) (g : Sig) (v : BitVec 64) : State :=
  match g with
  | .place l => s.ioStore packet l (leBytes 8 v.toNat)
  | .ring a => s.putFunc f { s.func f with qmem := memStore (s.func f).qmem a (leBytes 8 v.toNat) }

/-- Writes of a packet's program to signals, oldest first. -/
def sigWrites (s : State) (f : Nat) (packet : Option (Nat × Nat × Nat)) (b : List (Sig × BitVec 64)) : State :=
  b.foldl (fun s e => sigWrite s f packet e.1 e.2) s

/-- The signal as the program sees it, its own buffered writes and those of the packets held before it included. -/
def sigSeen (s : State) (f : Nat) (b : List (Sig × BitVec 64)) (g : Sig) : BitVec 64 :=
  match b.reverse.find? fun e => e.1 == g with
  | some e => e.2
  | none => sigRead s f g

/-- The word after `pc`: the innermost loop goes round while runs are left (R62), after a branch to the end of its body too (log 57);
a loop of no words is over at once, and the loop around it is asked in its turn. A loop that runs past the end of the body around it ends that
loop too (log 131). -/
def qNext : List (Nat × Nat × Nat) → Nat → Nat × List (Nat × Nat × Nat)
  | [], pc => (pc, [])
  | (a, e, n) :: r, pc =>
    if pc < e then (pc, (a, e, n) :: r)
    else if pc = e ∧ n ≠ 0 ∧ a ≠ e then (a, (a, e, n - 1) :: r)
    else qNext r pc

def QRun.goTo (r : QRun) (pc : Nat) : QRun :=
  let (pc, l) := qNext r.loops pc
  { r with pc := pc, loops := l }

def QRun.set (r : QRun) (d : Nat) (v : BitVec 64) : QRun := { r with g := r.g.set d v }
def QRun.get (r : QRun) (a : Nat) : BitVec 64 := r.g.getD a 0

/-- The program from a state on, with `fuel` steps left; the step after the last ends the packet with error 0x04 (R63). -/
def qRun (f : Nat) (x : Queue) : Nat → State → QRun → State × QEnd
  | 0, s, _ => (s, .fail 4)
  | fuel + 1, s, r =>
    let w := x.prog.getD r.pc 0x0D000000
    let i := (qImm w).toNat
    let a := r.get (qA w)
    let b := r.get (i % 8)
    let next := fun (q : QRun) => q.goTo (r.pc + 1)
    match qOp w with
    | 0x01 =>
      if r.words.length ≤ 2 * i then (s, .fail 5)
      else qRun f x fuel s (next (r.set (qD w) (r.words.getD (2 * i + 1) 0 ++ r.words.getD (2 * i) 0)))
    | 0x02 =>
      if r.words.length ≤ 2 * i then (s, .fail 5)
      else
        let v := r.get (qD w)
        let ws := (r.words.set (2 * i) (v.setWidth 32)).set (2 * i + 1) (v.extractLsb' 32 32)
        qRun f x fuel s (next { r with words := ws })
    | 0x03 => qRun f x fuel s (next (r.set (qD w) ((qImm w).signExtend 64)))
    | 0x04 => qRun f x fuel s (next (r.set (qD w) (a + b)))
    | 0x05 => qRun f x fuel s (next (r.set (qD w) (a - b)))
    | 0x06 => qRun f x fuel s (next (r.set (qD w) (a &&& b)))
    | 0x07 => qRun f x fuel s (next (r.set (qD w) (a <<< i)))
    | 0x08 => qRun f x fuel s (next (r.set (qD w) (a >>> i)))
    | 0x09 =>
      match sigAt s f x .read a.toNat with
      | (s, .ok g) => qRun f x fuel s (next (r.set (qD w) (sigSeen s f (x.accepted.flatMap (·.buf) ++ r.buf) g)))
      | (s, .error e) => (s, .fail e)
    | 0x0A =>
      match sigAt s f x .write a.toNat with
      | (s, .ok g) => qRun f x fuel s (next { r with buf := r.buf ++ [(g, r.get (qD w))] })
      | (s, .error e) => (s, .fail e)
    | 0x0B => qRun f x fuel s (r.goTo (r.pc + 1 + (if a = 0 then i else 0)))
    | 0x0C => qRun f x fuel s ({ r with loops := (r.pc + 1, r.pc + 1 + qLen w, i / 128) :: r.loops }.goTo (r.pc + 1))
    | 0x0E => (s, .drop r)
    | 0x0F => (s, .fail i)
    | _ => (s, .pass r)

/-- The program of a queue on a packet, when one is bound to its type (R61). -/
def qProgram (s : State) (f : Nat) (x : Queue) (ws : List Word) : State × QEnd :=
  if x.prog ≠ [] ∧ x.progMask.getLsbD (packetType ws - 1) then qRun f x 512 s { words := ws } else (s, .pass { words := ws })

/-! ## Reading and acceptance -/

/-- Slot of unit `i` from RDIDX on (R53). -/
def unitAddr (x : Queue) (i : Nat) : Nat := x.ringoff.toNat + 64 * ((x.rdidx.toNat + i) % 2 ^ x.logn)

def unitWords (s : State) (f : Nat) (x : Queue) (i : Nat) : List Word :=
  (List.range 16).map fun j => memWord (s.func f).qmem (unitAddr x i + 4 * j)

/-- Whether a packet may start with `before` accepted before it in its queue (R56). -/
def mayStart (before : List Packet) (p : Packet) : Bool :=
  before.all (fun e => e.orphan || (e.started && !(e.type == 2 || e.type == 3))) && (!(p.bar || p.type == 9) || before.all (·.orphan))

/-- The first accepted packet whose action has not started: held by what is accepted before it (R56, R60). -/
def Queue.held (x : Queue) : Option Packet := x.accepted.find? (!·.started)

/-- The packets accepted before that one. -/
def Queue.ahead (x : Queue) : List Packet := x.accepted.takeWhile (·.started)

/-- Whether the home processor reads the unit at RDIDX (R53): it has none at hand, and the program that a QPROG before it binds is
bound (R61). -/
def canRead (s : State) (f q : Nat) : Bool :=
  let x := s.queue f q
  let d := (x.notified - x.rdidx).toNat
  s.svc.power == .run && fnUp s f && x.state == 1 && (homeOf s f q).isSome && 1 ≤ d && d ≤ 2 ^ 31 && x.taken.isNone &&
    x.accepted.all fun p => p.orphan || p.type != 12 || p.done

/-- The units of a packet (R48). -/
def Packet.units (p : Packet) : Nat := if p.type = 2 ∨ p.type = 3 then 4 else 1

/-- The valid packet at RDIDX: V is 1, and all its units have been notified (R53). -/
def validPacket (s : State) (f q : Nat) : Option Packet :=
  let x := s.queue f q
  let first := unitWords s f x 0
  let n := ({ seq := 0, words := first } : Packet).units
  if (first.getD 0 0).getLsbD 8 && n ≤ (x.notified - x.rdidx).toNat then
    some { seq := first.getD 1 0, words := (List.range n).flatMap (unitWords s f x) }
  else none

/-- V := 0 in the first `n` units from RDIDX on (R53). -/
def clearValid (s : State) (f : Nat) (x : Queue) (n : Nat) : State :=
  (List.range n).foldl (fun s i =>
    let a := unitAddr x i
    s.putFunc f { s.func f with qmem := memStoreWord (s.func f).qmem a (memWord (s.func f).qmem a &&& ~~~(0x100 : Word)) }) s

/-- The units of a packet are consumed (R53). -/
def consume (s : State) (f q : Nat) (p : Packet) : State :=
  let x := s.queue f q
  (clearValid s f x p.units).putQueue f q { x with rdidx := x.rdidx + w32 p.units }

/-- The part of acceptance that every packet in sequence goes through, one that ends in error too (R53, R54). -/
def commit (s : State) (f q : Nat) (p : Packet) : State :=
  let s := consume s f q p
  s.putQueue f q { s.queue f q with lastacc := p.seq, nextseq := p.seq + 1, taken := none }

/-- The place of a completion signal, translated and held at acceptance (R57). -/
def holdCsig (s : State) (f : Nat) (p : Packet) : State × Except Nat (Option Loc) :=
  if p.csigAddr = 0 then (s, .ok none)
  else
    let (s, r) := resolve s .io f .write p.csigAddr 8
    match r.chk, r.locs with
    | .ok, (l, _) :: _ => (s, .ok (some l))
    | _, _ => (s, .error 3)

/-- What the checks of acceptance come to: an error, or the packet as its queue's program leaves it, with the buffered writes. -/
inductive Admission where
  | fail (s : State) (code : Nat)
  | ok (s : State) (p : Packet) (buf : List (Sig × BitVec 64))

/-- The program and the checks of a packet (R54, R57, R61); one that its program drops is done. -/
def admission (s : State) (f q : Nat) (p : Packet) : Admission :=
  let hold := fun (s : State) (p : Packet) (buf : List (Sig × BitVec 64)) =>
    match holdCsig s f p with
    | (s, .error e) => Admission.fail s e
    | (s, .ok l) => .ok s { p with csig := l } buf
  match qProgram s f (s.queue f q) p.words with
  | (s, .fail e) => .fail s e
  | (s, .drop r) =>
    let p' := { p with words := r.words, done := true }
    if p'.csigAddr % 8 != 0 then .fail s 3 else hold s p' r.buf
  | (s, .pass r) =>
    let p' := { p with words := r.words }
    if packetCheck p' ≠ 0 then .fail s (packetCheck p') else hold s p' r.buf

/-- A packet accepted: the buffered writes `buf` are performed, and it joins its queue's packets under a number of its own, with the
units in which it stood (R54). -/
def accept (s : State) (f q : Nat) (raw p : Packet) (buf : List (Sig × BitVec 64)) : State :=
  let p := { p with id := s.nextId, unit := (s.queue f q).rdidx, raw := raw.words }
  let s := commit (sigWrites s.fresh f (some (f, q, p.id)) buf) f q raw
  s.putQueue f q { s.queue f q with accepted := (s.queue f q).accepted ++ [p] }

/-- A packet accepted, or ended in error, whose action may not start yet (R54, R56, R60): the writes that its program has buffered
wait for that start (log 88). -/
def acceptHeld (s : State) (f q : Nat) (p : Packet) : State :=
  match admission s f q p with
  | .fail s code => packetError (commit s f q p) f q p.seq code
  | .ok s p' buf => accept s f q p { p' with buf := buf } []

/-- The home processor reads the unit at RDIDX (R53): a duplicate is discarded, a gap stops the queue, and a packet in sequence
is accepted: at once when its action is held (R60), else with the start of its action in its queue's turn (R54, R58; log 88). -/
def readPacket (s : State) (f q : Nat) : State :=
  let x := s.queue f q
  match canRead s f q, validPacket s f q with
  | true, some p =>
    let behind := (x.nextseq - p.seq).toNat
    if p.seq = x.nextseq then
      if p.type = 0 ∨ 12 < p.type then packetError (commit s f q p) f q p.seq 1
      else if mayStart x.accepted p then s.putQueue f q { x with taken := some p }
      else acceptHeld s f q p
    else if 1 ≤ behind ∧ behind ≤ 2 ^ 31 then consume s f q p
    else sendEvent (s.putQueue f q { x with state := 2 }) f 1 [w32 q, p.seq, 8]
  | _, _ => s

/-- PACKET_POLL reads a unit again, PACKET_ACCEPT reads it: neither does anything while V = 0 (R53). -/
def execPacketPoll (s : State) : Host.Outcome State Fault Refusal := .next (readPacket s s.ev.f s.ev.q)
def execPacketAccept (s : State) : Host.Outcome State Fault Refusal := .next (readPacket s s.ev.f s.ev.q)

/-! ## Starting and ending packets -/

/-- The next packet of a running queue: at hand, or valid and in sequence in its ring. -/
def nextPacket (s : State) (f q : Nat) : Option Packet :=
  match (s.queue f q).taken with
  | some p => some p
  | none => if canRead s f q then (validPacket s f q).filter (·.seq == (s.queue f q).nextseq) else none

/-- The launch that a handle names: the queue and SEQ of its LAUNCH packet (R49); the first of two live ones (log 89). -/
def handleOf (s : State) (f : Nat) (p : Packet) : Option Nat :=
  s.launches.findIdx? fun l => l.live && l.f == f && l.q == (p.w 10).toNat && l.seq == p.w 11

/-- Whether an earlier operation has reserved cells that a GPUT packet writes (R337). -/
def cellsTaken (s : State) (f : Nat) (p : Packet) : Bool :=
  p.type == 6 && !p.done && (handleOf s f p).any fun l => cellsBusy s l (p.w 6).toNat (p.w 7).toNat (p.w 8).toNat

/-- The same of a packet that is still to be accepted, as its queue's program leaves it. -/
def waitsForCells (s : State) (f q : Nat) (p : Packet) : Bool :=
  p.type == 6 && match admission s f q p with
    | .ok s p _ => cellsTaken s f p
    | .fail _ _ => false

/-- The queue processors run (R445): in idle-clocked only the cores' issue is stopped. -/
def queuesRun (s : State) : Bool := s.svc.power == .run || s.svc.power == .idle

/-- Whether a queue has a packet whose start conditions hold (R56, R58): one accepted and held, which goes on in error and while
the queue drains too (R46, R55), else the next one. A GPUT starts when no earlier operation has reserved its cells (R54, R337). -/
def isReady (s : State) (f q : Nat) : Bool :=
  let x := s.queue f q
  queuesRun s && fnUp s f && (homeOf s f q).isSome &&
    match x.held with
    | some p => [1, 2, 3, 5].contains x.state && mayStart x.ahead p && !cellsTaken s f p
    | none => x.state == 1 && (nextPacket s f q).any fun p => mayStart x.accepted p && !waitsForCells s f q p

/-- The number of a queue in the round of its home processor: by function, then by queue (log 106). -/
def queueKey (f q : Nat) : Nat := 2048 * min f 64 + q

/-- Every queue that has an entry. -/
def allQueues (s : State) : List (Nat × Nat) :=
  (List.range 65).flatMap fun f => (s.func f).queues.map fun e => (f, e.1)

/-- Whether a queue is the next ready one of its home processor after the queue that it served last (R58). -/
def hasTurn (s : State) (f q : Nat) : Bool :=
  match homeOf s f q with
  | none => false
  | some n =>
    let far := fun (k : Nat) => (k + 65 * 2048 - s.turns.getD n 0 % (65 * 2048)) % (65 * 2048)
    isReady s f q && (allQueues s).all fun e =>
      homeOf s e.1 e.2 != some n || !isReady s e.1 e.2 || far (queueKey f q) ≤ far (queueKey e.1 e.2)

/-- The home processor has served a queue. -/
def serveQueue (s : State) (f q : Nat) : State :=
  match homeOf s f q with
  | some n => { s with turns := s.turns.set n (queueKey f q + 1) }
  | none => s

/-- What a packet's action comes to. -/
inductive PktEff where
  | done (s : State)
  | wait (s : State)
  | error (s : State) (code : Nat)

/-- A packet of a queue replaced. -/
def putPacket (s : State) (f q : Nat) (p r : Packet) : State :=
  let x := s.queue f q
  s.putQueue f q { x with accepted := x.accepted.map fun e => if e = p then r else e }

/-- A packet leaves its queue. -/
def dropPacket (s : State) (f q : Nat) (p : Packet) : State :=
  let x := s.queue f q
  endDrain (s.putQueue f q { x with accepted := x.accepted.filter (· != p) }) f q

/-- The packet at hand is accepted with the start of its action, or ends in error; nothing else of it has taken effect then
(R54, R55). `fits` says whether the action event is that of the packet: with another nothing happens, and no turn is taken. -/
def startPacket (fits : Packet → Bool) (body : State → Nat → Packet → PktEff) (s : State) (f q : Nat) (p : Packet) : State :=
  let fail := fun (s : State) (code : Nat) => packetError (commit (serveQueue s f q) f q p) f q p.seq code
  match admission s f q p with
  | .fail s code => fail s code
  | .ok s' p' buf =>
    if !p'.done && !fits p' then s
    else
      let p' := { p' with started := true, id := s'.nextId, unit := (s'.queue f q).rdidx, raw := p.words }
      let t := accept (serveQueue s' f q) f q p p' buf
      if p'.done then t
      else
        match body t f p' with
        | .done s => putPacket s f q p' { p' with done := true }
        | .wait s => s
        | .error _ code => fail s' code

/-- The packets accepted after packet `p` whose actions have not started. -/
def Queue.later (x : Queue) (p : Packet) : List Packet := (x.accepted.dropWhile (· != p)).filter fun e => e != p && !e.started

/-- The packets accepted after one that ends in error, none of which has taken effect, are not accepted: LASTACC, NEXTSEQ and RDIDX go
back to where the first of them found them (R54, R55; log 88). -/
def Queue.unaccept (x : Queue) (p : Packet) : Queue :=
  match x.later p with
  | e :: _ => { x with
      lastacc := e.seq - 1, nextseq := e.seq, rdidx := e.unit, accepted := x.accepted.filter fun r => !(x.later p).contains r }
  | [] => x

/-- The words that the units of a packet hold once they are consumed: V is 0 in each. -/
def Packet.consumed (p : Packet) : List Word := p.raw.mapIdx fun i w => if i % 16 = 0 then w &&& ~~~(0x100 : Word) else w

/-- The units of a packet that is not accepted after all hold it again, as V is 1 in them; units that the host has written since keep
what they hold (R54; log 88). -/
def reopenUnits (f : Nat) (x : Queue) (s : State) (e : Packet) : State :=
  let y := { x with rdidx := e.unit }
  if (List.range e.units).flatMap (unitWords s f y) = e.consumed then
    (List.range e.units).foldl (fun s i =>
      s.putFunc f { s.func f with qmem := memStoreWord (s.func f).qmem (unitAddr y i) (e.raw.getD (16 * i) 0) }) s
  else s

/-- What is accepted behind a packet that ends in error is taken back, in order that it is read again; a queue that drains keeps it
(R54, R55). -/
def takeBack (s : State) (f q : Nat) (p : Packet) : State :=
  let x := s.queue f q
  if x.state = 5 then s else ((x.later p).foldl (reopenUnits f x) s).putQueue f q (x.unaccept p)

/-- An accepted packet that ends in error (R55). -/
def failAccepted (s : State) (f q : Nat) (p : Packet) (code : Nat) : State :=
  if p.orphan then sendEvent (dropPacket s f q p) f 1 [w32 q, p.seq, w32 code]
  else packetError (dropPacket (takeBack s f q p) f q p) f q p.seq code

/-- An accepted packet whose action goes on. -/
def resumePacket (body : State → Nat → Packet → PktEff) (s : State) (f q : Nat) (p : Packet) : State :=
  match body s f p with
  | .done s => putPacket s f q p { p with done := true }
  | .wait s => s
  | .error s code => failAccepted s f q p code

/-- The start of an accepted packet that was held: its action, with the writes that its program has buffered, or those alone for
one that its program has dropped (R56); with an error none of it takes effect (R54). -/
def startHeld (body : State → Nat → Packet → PktEff) (s : State) (f q : Nat) (p : Packet) : State :=
  let p' := { p with started := true, buf := [] }
  let s := serveQueue s f q
  let t := putPacket (sigWrites s f (some (f, q, p.id)) p.buf) f q p p'
  if p.done then t
  else
    match body t f p' with
    | .done t => putPacket t f q p' { p' with done := true }
    | .wait t => t
    | .error _ code => failAccepted s f q p code

/-- The accepted packet of type `ty` that an action event works on again. -/
def packetFor (s : State) (f q : Nat) (seq : Word) (ty : Nat) : Option Packet :=
  if queuesRun s && (homeOf s f q).isSome && (fnUp s f || (s.func f).state == 2) then
    (s.queue f q).accepted.find? fun p => p.seq == seq && p.type == ty && p.started && !p.done
  else none

/-- The packet of type `ty` that an action event starts: held or at hand, and its queue's turn. -/
def startsFor (s : State) (f q : Nat) (seq : Word) (ty : Nat) : Option Packet :=
  let x := s.queue f q
  if hasTurn s f q then (x.held.or x.taken).filter fun p => p.seq == seq && p.type == ty else none

/-- The action of a packet of type `ty` started, or tried again. -/
def runPacketIf (fits : Packet → Bool) (ty : Nat) (body : State → Nat → Packet → PktEff) (s : State) :
    Host.Outcome State Fault Refusal :=
  .next <|
    let f := s.ev.f
    let q := s.ev.q
    match startsFor s f q s.ev.seq ty with
    | some p =>
      if (s.queue f q).held.isNone then startPacket fits body s f q p
      else if p.done || fits p then startHeld body s f q p
      else s
    | none => match (packetFor s f q s.ev.seq ty).filter fits with
      | some p => resumePacket body s f q p
      | none => s

def runPacket (ty : Nat) (body : State → Nat → Packet → PktEff) (s : State) : Host.Outcome State Fault Refusal :=
  runPacketIf (fun _ => true) ty body s

/-- LASTCOMP over the unbroken run of completed packets (R57). -/
def advanceComp : Nat → Queue → Queue
  | 0, x => x
  | n + 1, x =>
    if x.finished.contains (x.lastcomp + 1) then
      advanceComp n { x with lastcomp := x.lastcomp + 1, finished := x.finished.filter (· != x.lastcomp + 1) }
    else x

/-- Whether the writes of a packet have been acknowledged, the decrement of its completion signal among them (R57, R365). -/
def Packet.settled (s : State) (f q : Nat) (p : Packet) : Bool :=
  let mine := some (f, q, p.id)
  (s.portWrites.all (·.packet != mine)) && (s.graded.all (·.packet != mine))

/-- A packet whose completion signal has been decremented is complete (R57): LASTCOMP, and the event message. -/
def endPacket (s : State) (f q : Nat) (p : Packet) : State :=
  let s :=
    if p.orphan then s
    else
      let x := s.queue f q
      s.putQueue f q (advanceComp (x.finished.length + 1) { x with finished := x.finished ++ [p.seq] })
  let s := dropPacket s f q p
  if p.evt then sendEvent s f 2 [w32 q, p.seq] else s

/-- PACKET_COMPLETION (R57): the completion signal is decremented and the packet ends; where the signal lies off the module, a port
sends the decrement, and the packet ends in a second such step, once the signal's home has answered (R365). -/
def execPacketCompletion (s : State) : Host.Outcome State Fault Refusal :=
  .next <|
    let f := s.ev.f
    let q := s.ev.q
    match (s.queue f q).accepted.find? fun p => p.seq == s.ev.seq && p.started && p.done && p.settled s f q with
    | none => s
    | some p =>
      match p.csig, p.signalled with
      | some l, false =>
        let t := s.ioAdd (some (f, q, p.id)) l (-1)
        if l.isAway then putPacket t f q p { p with signalled := true } else endPacket t f q p
      | _, _ => endPacket s f q p

/-- QPROG (R61): the load checks, then the binding; a length of 0 unbinds. -/
def qprogBody (s : State) (f : Nat) (p : Packet) : PktEff :=
  let q := s.ev.q
  let x := s.queue f q
  let a := p.q64 4
  let n := (p.w 6).toNat
  if n = 0 then .done (s.putQueue f q { x with prog := [], progMask := 0 })
  else if a % 4 != 0 || s.svc.qmemLen < a + 4 * n then .error s 3
  else
    let ws := (List.range n).map fun i => memWord (s.func f).qmem (a + 4 * i)
    if qProgramOk ws then
      .done (s.putQueue f q { x with
        prog := ws, progMask := (p.w 7).extractLsb' 0 12, sigBase := p.q64 8, sigLen := (p.w 10).toNat })
    else .error s 6

def execQprog (s : State) : Host.Outcome State Fault Refusal := runPacket 12 qprogBody s

/-- QFENCE (R56): it starts, and is done, once every earlier packet has completed. -/
def execQfence (s : State) : Host.Outcome State Fault Refusal := runPacket 9 (fun s _ _ => .done s) s

/-! ## Loss of a queue processor -/

/-- An accepted packet that goes on when its queue is gone: done, or handed to an engine (R64, R444). -/
def Packet.goesOn (p : Packet) : Bool := p.started && (p.done || !(p.type == 2 || p.type == 3))

/-- A queue whose table entry is lost: state 4, and only what has been handed to engines goes on (R64). -/
def loseQueue (s : State) (f q : Nat) : State :=
  let x := s.queue f q
  s.putQueue f q { x with state := 4, taken := none, accepted := x.accepted.filter (·.goesOn) }

/-- What the queues of processor `n` have at hand is read again by their new home (R64). -/
def rereadQueues (s : State) (n : Nat) : State :=
  (allQueues s).foldl (fun s e =>
    if homeOf s e.1 e.2 = some n then s.putQueue e.1 e.2 { s.queue e.1 e.2 with taken := none } else s) s

/-- Queues of a function in state 4. -/
def lostQueues (fn : Func) : Nat := (fn.queues.filter fun e => e.2.state == 4).length

/-- QUEUE_PROCESSOR_LOST (R64): processor `n`, and the queues `pairs` (function, queue) whose entries are lost. -/
def execQueueProcessorLost (s : State) : Host.Outcome State Fault Refusal :=
  .next <|
    let n := s.ev.n
    if s.lostProcs.contains n then s
    else
      let gone := s.ev.pairs.filter fun e => homeOf s e.1 e.2 == some n
      let s := gone.foldl (fun s e => loseQueue s e.1 e.2) { rereadQueues s n with lostProcs := s.lostProcs ++ [n] }
      (List.range 65).foldl (fun s f =>
        let k := lostQueues (s.func f)
        if gone.any (·.1 == f) && k != 0 then sendEvent s f 0xA [w32 n, w32 k] else s) s

end Sys2Proof.Machine
end

