-- ==== Sys2Proof/Machine/Launching.lean ====
section
/-! DEFINITION. LAUNCH (R23 to R42): the records and their checks, the placement of harnesses (R67 to R70, R77, R439, R452),
and the acceptance of a launch. -/

namespace Sys2Proof.Machine

/-! ## Reading records -/

/-- `n` bytes of a record at a virtual address, read as a copy would (R26); none when a check fails. -/
def readRecord (s : State) (f va n : Nat) : State × Option (List Byte) :=
  let (s, r) := resolve s .io f .read va n
  match r.chk with
  | .ok => (s, some (r.locs.flatMap fun e => s.ioBytes e.1 e.2))
  | _ => (s, none)

/-- The 32-bit and 64-bit little-endian fields of a record. -/
def rec32 (b : List Byte) (o : Nat) : Word := BitVec.ofNat 32 (leNat ((b.drop o).take 4))
def rec64 (b : List Byte) (o : Nat) : Nat := leNat ((b.drop o).take 8)

/-- The header of a launch record (R28). -/
structure Header where
  version  : Nat
  nrole    : Nat
  fpol     : BitVec 4
  nreg     : Nat
  ncore    : Nat
  codebase : Nat
  codesize : Nat
  ntask    : Nat
  taskbase : Nat
  regbase  : Nat
  reserved : Bool
  deriving DecidableEq, Repr

def readHeader (b : List Byte) : Header :=
  let w0 := rec32 b 0
  let w1 := rec32 b 4
  { version := (w0.extractLsb' 0 8).toNat
    nrole := (w0.extractLsb' 8 3).toNat
    fpol := w0.extractLsb' 16 4
    nreg := (w1.extractLsb' 16 7).toNat
    ncore := (w1.extractLsb' 0 9).toNat
    codebase := rec64 b 8
    codesize := (rec32 b 0x10).toNat
    ntask := (rec32 b 0x14).toNat
    taskbase := rec64 b 0x18
    regbase := rec64 b 0x20
    reserved := w0.extractLsb' 20 12 != 0 || w0.extractLsb' 11 5 != 0 || w1.extractLsb' 23 9 != 0 || w1.extractLsb' 9 7 != 0 ||
      ((b.drop 0x28).take 0x18).any (· != 0) }

/-- A role descriptor at offset `o`, and whether its reserved fields are zero (R31). -/
def readRole (b : List Byte) (o : Nat) : Role × Bool :=
  let w := fun (i : Nat) => rec32 b (o + 4 * i)
  ({ entry := ((w 0).extractLsb' 0 22).toNat
     trapv := ((w 1).extractLsb' 0 22).toNat
     cpr := (w 2).getLsbD 31
     teams := ((w 2).extractLsb' 16 9).toNat
     grp := ((w 2).extractLsb' 8 6).toNat
     bud := ((w 2).extractLsb' 0 5).toNat
     svcr := (w 3).extractLsb' 16 8
     pri := (w 3).extractLsb' 8 2
     spill := ((w 3).extractLsb' 0 7).toNat
     pq := (w 4).extractLsb' 0 16
     bfw := w 5 },
   (w 0).extractLsb' 22 10 == 0 && (w 1).extractLsb' 22 10 == 0 && (w 2).extractLsb' 25 6 == 0 && (w 2).extractLsb' 14 2 == 0 &&
     (w 2).extractLsb' 5 3 == 0 && (w 3).extractLsb' 24 8 == 0 && (w 3).extractLsb' 10 6 == 0 && !(w 3).getLsbD 7 &&
     (w 4).extractLsb' 16 16 == 0 && w 6 == 0 && w 7 == 0)

/-- A role's own limits (R31). -/
def Role.ok (r : Role) : Bool :=
  1 ≤ r.bud && r.bud ≤ 24 && 1 ≤ r.grp && r.grp ≤ 32 && 1 ≤ r.teams && r.teams ≤ 256 && r.spill ≤ 64

/-- Register words and spill bytes of one team (R32). -/
def Role.need (r : Role) : Nat := 32 * r.grp * 8 * r.bud
def Role.spillBytes (r : Role) : Nat := 4 * 32 * r.grp * r.spill

/-- A format slot, and whether it keeps R33 and R34. -/
def readSlot (b : List Byte) (o : Nat) : Slot × Bool :=
  let w := rec32 b o
  let v := rec32 b (o + 4)
  let x : Slot :=
    { kind := (w.extractLsb' 0 4).toNat
      lblk := (w.extractLsb' 4 4).toNat
      sblk := (v.extractLsb' 0 4).toNat
      thr := (w.extractLsb' 8 8).toInt
      rlx := w.getLsbD 16 }
  let ok := match x.kind with
    | 0 => x.lblk == 0 && x.sblk == 0 && x.thr == -128 && !x.rlx
    | 1 => x.lblk == 6 && x.sblk == 8
    | 2 => x.lblk == 5 && x.sblk == 0 && x.thr == -128
    | 3 => x.lblk == 0 && x.sblk == 0 && x.thr == -128
    | _ => false
  (x, w.extractLsb' 17 15 == 0 && v.extractLsb' 4 28 == 0 && ok)

/-- The checks of codes 0x01 to 0x05 (R37); 0 when all pass. A code range that ends above 2^57 counts as out of range
(log 90). -/
def firstPhase (b : List Byte) : Nat :=
  let h := readHeader b
  let rs := (List.range h.nrole).map fun r => readRole b (0x40 + 32 * r)
  let roles := rs.map (·.1)
  let words := h.codesize / 4
  if h.version != 1 || h.reserved then 1
  else if h.nrole < 1 || 4 < h.nrole || h.ncore < 1 || 256 < h.ncore || 64 < h.nreg || 65536 < h.ntask ||
      rs.any fun r => !r.1.ok || !r.2 then 2
  else if (roles.any fun r => words ≤ r.entry || words ≤ r.trapv) || h.codebase % 4096 != 0 || h.codesize % 4 != 0 ||
      h.codesize < 4 || 2 ^ 24 < h.codesize || 2 ^ 57 < h.codebase + h.codesize || (0 < h.ntask && h.taskbase % 128 != 0) ||
      (0 < h.nreg && h.regbase % 32 != 0) then 3
  else if (roles.any fun r => 65536 < r.need) || 256 < (roles.map (·.teams)).sum ||
      786432 < (roles.map fun r => r.teams * r.spillBytes).sum then 4
  else if (List.range 8).any fun i => !(readSlot b (0xC0 + 8 * i)).2 then 5
  else 0

/-! ## Regions -/

/-- A region entry and whether its own fields keep R36. -/
def readRegion (b : List Byte) (o : Nat) : Region × Bool :=
  let x : Region := { base := rec64 b o, cells := (rec32 b (o + 8)).toNat, clr := (rec32 b (o + 0xC)).getLsbD 0 }
  (x, (rec32 b (o + 0xC)).extractLsb' 1 31 == 0 && ((b.drop (o + 0x10)).take 0x10).all (· == 0) && x.base % 65536 == 0 &&
    1 ≤ x.cells && x.cells ≤ 16777216 && x.base + 256 * x.cells ≤ 2 ^ 57)

def Region.stop (r : Region) : Nat := r.base + 256 * r.cells

def Region.meets (a b : Region) : Bool := a.base < b.stop && b.base < a.stop

/-- No two regions of a list meet. -/
def regionsApart : List Region → Bool
  | [] => true
  | r :: l => (l.all fun q => !r.meets q) && regionsApart l

/-- Every page of `n` bytes at `va` is present and satisfies `ok`; `fuel` bounds the pages. -/
def allPages (f : Nat) (ok : Leaf → Bool) : Nat → State → Nat → Nat → State × Bool
  | 0, s, _, _ => (s, true)
  | k + 1, s, va, n =>
    if n = 0 then (s, true)
    else
      match s.page .io f va with
      | .absent => (s, false)
      | .page b z l =>
        let s := s.tlbUse .io f va
        if ok l then
          let m := min n (b + z - va)
          allPages f ok k s (va + m) (n - m)
        else (s, false)

/-- The pages of every region carry the graded attribute (R36). -/
def regionPages (f : Nat) : List Region → State → State × Bool
  | [], s => (s, true)
  | r :: l, s =>
    match allPages f (·.graded) (r.cells / 256 + 2) s r.base (256 * r.cells) with
    | (s, true) => regionPages f l s
    | (s, false) => (s, false)

/-- Regions of the live launches of a function. -/
def liveRegions (s : State) (f : Nat) : List Region :=
  (s.launches.filter fun l => l.live && l.f == f).flatMap (·.regions)

/-! ## Tasks -/

/-- A range descriptor (R40, R41). -/
def readRange (b : List Byte) (o : Nat) : CellRange :=
  let w := rec32 b o
  { reg := (w.extractLsb' 0 6).toNat
    first := (rec32 b (o + 4)).toNat
    count := (rec32 b (o + 8)).toNat
    ming := (w.extractLsb' 6 2).toNat
    cgen := (w.extractLsb' 8 5).toNat }

/-- A range lies in a region of the launch (R40). -/
def CellRange.inside (c : CellRange) (rs : List Region) : Bool :=
  match rs[c.reg]? with
  | some r => 1 ≤ c.count && c.first + c.count ≤ r.cells
  | none => false

/-- A task record, and whether it keeps R38 to R41 in a launch of `nrole` roles with regions `rs`. -/
def readTask (b : List Byte) (nrole : Nat) (rs : List Region) : Task × Bool :=
  let w0 := rec32 b 0
  let nin := (w0.extractLsb' 8 3).toNat
  let tx := ((rec32 b 4).extractLsb' 0 16).toNat
  let ty := ((rec32 b 4).extractLsb' 16 16).toNat
  let tz := ((rec32 b 8).extractLsb' 0 16).toNat
  let rolem := (w0.extractLsb' 16 4).toNat
  let ins := (List.range nin).map fun i => readRange b (16 + 16 * i)
  let out := readRange b 112
  let hasOut := w0.getLsbD 11
  let insOk := (List.range nin).all fun i =>
    (rec32 b (16 + 16 * i)).extractLsb' 13 19 == 0 && rec32 b (28 + 16 * i) == 0
  ({ tpri := (w0.extractLsb' 0 8).toNat, rolem := rolem, tx := tx, ty := ty, tz := tz, arg := rec32 b 12, ins := ins
     out := if hasOut then some out else none },
   w0.extractLsb' 20 12 == 0 && w0.extractLsb' 12 4 == 0 && (rec32 b 8).extractLsb' 16 16 == 0 && rolem != 0 && rolem < 2 ^ nrole &&
     nin ≤ 6 && 1 ≤ tx && 1 ≤ ty && 1 ≤ tz && tx * ty * tz ≤ 16777216 && insOk &&
     (ins.all fun c => c.ming != 0 && c.cgen == 0 && c.inside rs) &&
     (!hasOut || ((rec32 b 112).extractLsb' 6 26 == 0 && rec32 b 124 == 0 && out.inside rs)))

def CellRange.meets (a b : CellRange) : Bool := a.reg == b.reg && a.first < b.first + b.count && b.first < a.first + a.count

/-- The graph has an edge from `a` to `b` (R42). -/
def feeds (a b : Task) : Bool :=
  match a.out with
  | some o => b.ins.any o.meets
  | none => false

/-- Tasks left after those that no task of the list feeds are taken away, again and again. -/
def peel : Nat → List Task → List Task
  | 0, l => l
  | n + 1, l =>
    let r := l.filter fun b => l.any fun a => feeds a b
    if r.length = l.length then l else peel n r

/-- No two output ranges share a cell (R42). -/
def outsApart : List Task → Bool
  | [] => true
  | a :: l => (match a.out with
      | some o => l.all fun b => match b.out with
        | some p => !o.meets p
        | none => true
      | none => true) && outsApart l

/-- R42 on the tasks of a graph. -/
def graphOk (l : List Task) : Bool := (peel l.length l).isEmpty && outsApart l

/-! ## Placement -/

/-- A team's place on a core (R67, R69): role, tid, partition, index there, lowest spill byte. -/
structure Seat where
  role  : Nat
  tid   : Nat
  part  : Nat
  index : Nat
  ssp   : Nat
  deriving DecidableEq, Repr

/-- The state of the procedure of R67: cursor, free words and residents of each partition, the lowest spill byte so far. -/
structure Placing where
  cursor : Nat := 0
  free   : List Nat := List.replicate 8 65536
  count  : List Nat := List.replicate 8 0
  bottom : Nat := Config.sharedBytes
  seats  : List Seat := []
  deriving DecidableEq, Repr

/-- One team placed (R67, R69). -/
def placeTeam (p : Placing) (role : Nat) (r : Role) (tid : Nat) : Option Placing :=
  match ((List.range 8).map fun i => (p.cursor + i) % 8).find? fun k => r.need ≤ p.free.getD k 0 && p.count.getD k 0 < 32 with
  | none => none
  | some k =>
    let bottom := p.bottom - r.spillBytes
    let seat : Seat := { role := role, tid := tid, part := k, index := p.count.getD k 0, ssp := if r.spill = 0 then 0 else bottom }
    some { cursor := (k + 1) % 8, free := p.free.set k (p.free.getD k 0 - r.need), count := p.count.set k (p.count.getD k 0 + 1)
           bottom := bottom, seats := p.seats ++ [seat] }

def placeTeams (role : Nat) (r : Role) : List Nat → Placing → Option Placing
  | [], p => some p
  | t :: ts, p => (placeTeam p role r t).bind (placeTeams role r ts)

def placeRoles : Nat → List Role → Placing → Option Placing
  | _, [], p => some p
  | i, r :: rs, p => (placeTeams i r (List.range r.teams) p).bind (placeRoles (i + 1) rs)

/-- Contexts of a core (R77). -/
def contexts (s : State) (c : Nat) : Nat := (s.harnesses.filter fun h => h.alive && h.core == c).length

/-- The physical cores of a launch (R439). -/
def launchCores (fn : Func) (ncore : Nat) : List Nat := (List.range ncore).map fun v => (fn.cbase.toNat + v) % 256

/-- The placement of every harness, none when one fails (R67, R77, R439, R452). -/
def placement (s : State) (f ncore : Nat) (roles : List Role) : Option Placing :=
  let fn := s.func f
  if fn.ccnt.toNat < ncore then none
  else if (launchCores fn ncore).any fun c => !(s.core c).inService || 16 ≤ contexts s c then none
  else placeRoles 0 roles {}

/-- A team as it starts (R70). -/
def newTeam (h l core cid : Nat) (roles : List Role) (x : Seat) : Team :=
  let r := roles.getD x.role {}
  { info := { harness := h, launch := l, core := core, part := x.part, cid := cid, role := x.role, tid := x.tid, grp := r.grp
              budget := 8 * r.bud, cpr := r.cpr, index := x.index }
    flow := { paths := some { pc := r.entry, mask := lanesMask r.grp } :: List.replicate 15 none }
    ctl := { tvec := BitVec.ofNat 22 r.trapv, svcring := r.svcr, pquant := if r.pq = 0 then 32 else r.pq
             bfwin := if r.bfw = 0 then 2000 else r.bfw, prio := r.pri, ssp := BitVec.ofNat 21 x.ssp
             sspBase := BitVec.ofNat 21 x.ssp, ssplim := BitVec.ofNat 21 (x.ssp + r.spillBytes) } }

/-- The teams of a list of seats that sit on partition `p`, from team number `base` on. -/
def teamsOn (base p : Nat) (seats : List Seat) : List Nat :=
  (List.range seats.length).filterMap fun i => match seats[i]? with
    | some x => if x.part = p then some (base + i) else none
    | none => none

/-- A harness as it is placed: not yet resident, its sets as R68 fills them. -/
def newHarness (l core cid base : Nat) (seats : List Seat) (code : Memory) : Harness :=
  { launch := l, core := core, vcore := cid, code := code
    parts := (List.range 8).map fun p =>
      { active := (teamsOn base p seats).take 8, pending := (teamsOn base p seats).drop 8 } }

/-- Harnesses and teams of a launch added, one harness for each virtual core. -/
def placeAll (l : Nat) (roles : List Role) (p : Placing) (code : Memory) : State → List (Nat × Nat) → State
  | s, [] => s
  | s, (cid, core) :: r =>
    let h := s.harnesses.length
    let s : State := { s with
      harnesses := s.harnesses ++ [newHarness l core cid s.teams.length p.seats code]
      teams := s.teams ++ p.seats.map (newTeam h l core cid roles) }
    placeAll l roles p code s r

/-! ## Acceptance -/

/-- Tags of the cells of a region set to 0x00 (R36): those kept here, and those a peer keeps. -/
def clearTags (f : Nat) (r : Region) (s : State) : State :=
  let fn := s.func f
  let s := s.putFunc f { fn with tags := fn.tags.filter fun e => e.1 < r.base / 256 || r.base / 256 + r.cells ≤ e.1 }
  if s.peerTags = [] then s
  else
    (List.range r.cells).foldl (fun s i =>
      let va := r.base + 256 * i
      match s.placeOf .io f va with
      | .peer p a => putTagAt s f va (.peer p a) 0
      | _ => s) s

/-- The records of the second phase: the places of the code range (R26), regions and tasks (R23). The checks of R249 and R423 are made
of the record reads and of the code range as of any other access, though the words of that range are not read here (log 120). -/
def secondRecords (s : State) (f : Nat) (h : Header) : State × Option (List (Loc × Nat) × List Byte × List Byte) :=
  let (s, c) := resolve s .io f .read h.codebase h.codesize
  match c.chk with
  | .ok =>
    match (if h.nreg = 0 then (s, some []) else readRecord s f h.regbase (32 * h.nreg)) with
    | (s, some rb) =>
      match (if h.ntask = 0 then (s, some []) else readRecord s f h.taskbase (128 * h.ntask)) with
      | (s, some tb) => (s, some (c.locs, rb, tb))
      | (s, none) => (s, none)
    | (s, none) => (s, none)
  | _ => (s, none)

/-- The checks of codes 0x06 to 0x08 and 0x0A (R37): the code of the first that fails, 0 when all pass. -/
def secondPhase (s : State) (f ncore : Nat) (roles : List Role) (rs : List (Region × Bool)) (ts : List (Task × Bool)) :
    State × Nat :=
  let regions := rs.map (·.1)
  if (rs.any fun r => !r.2) || !regionsApart regions || (regions.any fun r => (liveRegions s f).any r.meets) then (s, 6)
  else
    match regionPages f regions s with
    | (s, false) => (s, 6)
    | (s, true) =>
      if ts.any fun t => !t.2 then (s, 7)
      else if !graphOk (ts.map (·.1)) then (s, 8)
      else if (placement s f ncore roles).isNone then (s, 0xA)
      else (s, 0)

/-- A launch accepted: its tags cleared, its harnesses placed, its first tasks fired (R23, R36, R67, R71). -/
def acceptLaunch (s : State) (f q : Nat) (seq : Word) (h : Header) (roles : List Role) (slots : List Slot)
    (regions : List Region) (tasks : List Task) (held : List (Loc × Nat)) : State :=
  match placement s f h.ncore roles with
  | none => s
  | some p =>
    let l := s.launches.length
    let x : Launch :=
      { f := f, q := q, seq := seq, fpol := h.fpol, ncore := h.ncore, codebase := h.codebase, codesize := h.codesize
        codeMap := held, roles := roles, slots := slots, regions := regions, tasks := tasks }
    let s := (regions.filter (·.clr)).foldl (fun s r => clearTags f r s) s
    let code := codeImage s x
    let s := placeAll l roles p code { s with launches := s.launches ++ [x] }
      ((List.range h.ncore).map fun v => (v, ((s.func f).cbase.toNat + v) % 256))
    fireReady s l

/-- LAUNCH (R23, R37). -/
def launchBody (s : State) (f : Nat) (p : Packet) : PktEff :=
  match readRecord s f (p.q64 4) 256 with
  | (s, none) => .error s 9
  | (s, some b) =>
    let c := firstPhase b
    let h := readHeader b
    if c ≠ 0 then .error s c
    else
      match secondRecords s f h with
      | (s, none) => .error s 9
      | (s, some (held, rb, tb)) =>
        let roles := (List.range h.nrole).map fun r => (readRole b (0x40 + 32 * r)).1
        let rs := (List.range h.nreg).map fun g => readRegion rb (32 * g)
        let ts := (List.range h.ntask).map fun t => readTask (tb.drop (128 * t)) h.nrole (rs.map (·.1))
        match secondPhase s f h.ncore roles rs ts with
        | (s, 0) =>
          let slots := (List.range 8).map fun i => (readSlot b (0xC0 + 8 * i)).1
          .done (acceptLaunch s f s.ev.q p.seq h roles slots (rs.map (·.1)) (ts.map (·.1)) held)
        | (s, c) => .error s c

def execLaunch (s : State) : Host.Outcome State Fault Refusal := runPacket 1 launchBody s

end Sys2Proof.Machine
end

