-- ==== Sys2Proof/Machine/Tokens.lean ====
section
/-! DEFINITION. Token generation: the batch-forming queue (R376 to R379, R443), KV pages (R380 to R382), cancellation
(R383) and egress (R384 to R387). -/

namespace Sys2Proof.Machine

/-- The out-of-range fault of a sequence number (R375). -/
def seqFault (v : Word) : Option Eff := if v.extractLsb' 24 8 != 0 then some (.fault 0x04 v 0) else none

/-! ## Batches -/

/-- The group whose launches share batches (R443): the launch, or the functions' BFGRP. -/
def groupOf (s : State) (l : Nat) : Nat :=
  let b := (s.func (s.launch l).f).bfgrp
  if b = 0 then 16 + l else b.toNat

/-- Rows in the BFQ, from join to BFDONE (R377). -/
def bfqRows (s : State) : Nat := s.batches.foldl (fun n b => n + b.rows.length) 0

/-- Whether a batch's window has passed (R377). -/
def windowOver (s : State) (b : BfBatch) : Bool := !b.closed && b.opened + b.win ≤ s.time

/-- A batch closed: it stands last in the order of closing (R378). -/
def closeBatch (s : State) (g : Nat) (no : Word) : State :=
  match s.batches.find? fun b => b.group == g && b.no == no && !b.closed with
  | some b => { s with batches := s.batches.filter (· != b) ++ [{ b with closed := true }] }
  | none => s

/-- The open batch whose window was over first. -/
def firstOver (s : State) : Option BfBatch :=
  (s.batches.filter (windowOver s)).foldl (fun (m : Option BfBatch) b => match m with
    | none => some b
    | some c => if b.opened + b.win < c.opened + c.win then some b else m) none

/-- Batches whose windows are over close in the order of their expiry; `n` bounds their number (R377). -/
def closeOver : Nat → State → State
  | 0, s => s
  | n + 1, s => match firstOver s with
    | some b => closeOver n (closeBatch s b.group b.no)
    | none => s

/-- Every batch whose window is over closes (R377). -/
def closeExpired (s : State) : State := closeOver s.batches.length s

/-- BATCH_WINDOW_EXPIRY (R377): group `launch`, batch `seq`, after those that expired before it. -/
def execBatchWindowExpiry (s : State) : Host.Outcome State Fault Refusal :=
  .next <| if s.batches.any fun b => b.group == s.ev.launch && b.no == s.ev.seq && windowOver s b then closeExpired s else s

/-- The open batch of a group and key. -/
def openBatch (s : State) (g : Nat) (key : Word) : Option BfBatch :=
  s.batches.find? fun b => b.group == g && b.key == key && !b.closed

/-- The next batch number of a group (R377). -/
def nextBatch (s : State) (g : Nat) : State × Word :=
  let n := (s.batchNos.lookup g).getD 0 + 1
  ({ s with batchNos := (g, n) :: s.batchNos.filter (·.1 != g) }, n)

/-- A row joined to the open batch of its group and key, once every expired batch is closed: the state and the row's index
(R377, R454). -/
def joinRow (s : State) (g : Nat) (key : Word) (win : Nat) (r : BfRow) : State × Nat :=
  let s := closeExpired s
  match openBatch s g key with
  | some b =>
    let b' := { b with rows := b.rows ++ [r] }
    let s : State := { s with batches := s.batches.map fun x => if x = b then b' else x }
    (if b'.rows.length = 256 then closeBatch s g b.no else s, b.rows.length)
  | none =>
    let (s, n) := nextBatch s g
    ({ s with batches := s.batches ++ [{ group := g, key := key, no := n, rows := [r], opened := s.time, win := win }] }, 0)

/-! ## Pages -/

/-- The sequence of a page. -/
def KvPage.seq : KvPage → Option Nat
  | .free => none
  | .spec q => some q
  | .quarantine q => some q
  | .committed q => some q

/-- Free pages of a pool. -/
def Pool.freePages (p : Pool) : List Nat := (List.range p.pages).filter fun n => (p.owned.lookup n).isNone

def Pool.freeCount (p : Pool) : Nat := p.pages - p.owned.length

/-- Pages whose state satisfies `ok` become free. -/
def Pool.release (p : Pool) (ok : KvPage → Bool) : Pool := { p with owned := p.owned.filter fun e => !ok e.2 }

/-- The pages of a launch's pool freed where `ok` holds. -/
def Launch.free (l : Launch) (ok : KvPage → Bool) : Launch := { l with pool := l.pool.map (·.release ok) }

/-- Quarantined pages of a sequence become free (R381). -/
def Launch.thaw (l : Launch) (q : Nat) : Launch := l.free (· == .quarantine q)

/-- Every speculative page goes into quarantine, and its owner is marked for RCL (R381). -/
def Launch.reclaim (l : Launch) (p : Pool) : Launch :=
  let owners := p.owned.filterMap fun e => match e.2 with
    | .spec q => some q
    | _ => none
  { l with
    rcl := l.rcl ++ owners
    pool := some { p with owned := p.owned.map fun e => match e.2 with
      | .spec q => (e.1, .quarantine q)
      | _ => e } }

/-! ## BFJOIN, BFTAKE, BFDONE -/

/-- What a cancelled sequence loses at its BFJOIN (R383). -/
def Launch.dropSeq (l : Launch) (q : Nat) : Launch :=
  let l := l.free fun p => p.seq == some q
  { l with
    refused := q :: l.refused.filter (· != q)
    egress := l.egress.map fun e => if e.seq = q then { e with entries := [], leaves := e.leaves + e.entries.length } else e }

/-- BFJOIN (R376, R377, R383): a release, which waits for its team's accesses that still have to act. -/
def execBfjoin (d a : Byte) (s : State) : Host.Outcome State Fault Refusal :=
  issue (.bfjoin d a) (rulesToken false [d, a] (isS d && isBase 4 a))
    (fun w s =>
      let v := rdS w a 0
      let key := rdS w a 1
      let done := rdS w a 2
      let l := s.me.info.launch
      let q := v.toNat
      let x := s.launch l
      match seqFault v with
      | some e => e
      | none =>
        if done.toNat % 4 != 0 then .fault 0x03 done 0
        else if !inRange s s.curFn true done.toNat then .fault 0x04 done 0
        else if x.cancelled.contains q then .done (startOp ((s.putLaunch l (x.dropSeq q)).putRegs (wrS w.regs d 0xFFFFFFFF)) .load [d])
        else if 65536 ≤ bfqRows s || lateBefore s s.cur s.nextId then .wait s .retry
        else
          let y := x.thaw q
          let s := s.putLaunch l { y with rcl := y.rcl.filter (· != q) }
          let (s, row) := joinRow s (groupOf s l) key s.me.ctl.bfwin.toNat
            { seq := q, payload := rdS w a 3, done := done.toNat, launch := l }
          let rcl := x.rcl.contains q
          .done (startOp (s.putRegs (wrS w.regs d (w32 (rcl.toNat * 512 + row)))) .load [d])) s

/-- The rows of a batch, void where their functions are in reset (R378, R379). -/
def rowsNow (s : State) (b : BfBatch) : List BfRow :=
  b.rows.map fun r => { r with void := r.void || (s.func (s.launch r.launch).f).state == 2 }

/-- The row table of a batch (R378). -/
def rowTable (b : BfBatch) : List Byte :=
  b.rows.flatMap fun r => [w32 (r.void.toNat * 2 ^ 31 + r.seq), r.payload, w32 r.done, b.no].flatMap fun w => leBytes 4 w.toNat

/-- BFTAKE (R378): its row table waits for the reads of its path that have still to be fixed before its writes are seen (R366; log 102). -/
def execBftake (d a b : Byte) (s : State) : Host.Outcome State Fault Refusal :=
  issue (.bftake d a b) (rulesToken false [d, a, b] (isBase 2 d && isS a && isS b))
    (fun w s =>
      let s := closeExpired s
      let key := rd w a 0
      let t := s.curTeam
      let g := groupOf s s.me.info.launch
      match s.batches.find? fun x => x.group == g && x.closed && x.taker.isNone && (key == 0xFFFFFFFF || x.key == key) with
      | none => .done (startOp (s.putRegs (wrSs w.regs d [0, 0])) .load [d, d + 1])
      | some x =>
        let at' := (rd w b 0).toNat
        let n := 16 * x.rows.length
        let h := s.harness s.curHarness
        if at' % 4 != 0 then .fault 0x03 (w32 at') 0
        else if Config.sharedBytes < at' + n then .fault 0x04 (w32 at') 0
        else if lockHit h.locks s.cur true at' n != .free then .fault 0x05 (w32 at') 0
        else if liveHit h at' n then .fault 0x06 (w32 at') 0
        else if readsLate s s.curMask then .wait s .retry
        else
          let y := { x with taker := some (t, s.curHarness, at'), rows := rowsNow s x }
          let s := s.locStore (.shared s.curHarness at') (rowTable y)
          let s : State := { s with batches := s.batches.map fun z => if z = x then y else z }
          .done (startOp (s.putRegs (wrSs w.regs d [x.no, w32 x.rows.length])) .load [d, d + 1])) s

/-- BFDONE (R379), once its team's accesses have acted: the done words of the rows that are not void, then the rows are freed. -/
def execBfdone (a : Byte) (s : State) : Host.Outcome State Fault Refusal :=
  issue (.bfdone a) (rulesToken false [a] (isS a))
    (fun w s =>
      let no := rd w a 0
      let t := s.curTeam
      match s.batches.find? fun x => x.no == no && (match x.taker with | some k => k.1 == t | none => false) with
      | none => .fault 0x04 no 0
      | some x =>
        if lateBefore s s.cur s.nextId then .wait s .retry
        else
          let s := ((rowsNow s x).filter fun r => !r.void).foldl (fun s r =>
            s.locStore (.scratch (r.done / 2 ^ 27) (r.done % 2 ^ 27)) (leBytes 4 no.toNat)) s
          .done (startOp { s with batches := s.batches.filter (· != x) } .store [])) s

/-! ## SPECPG, COMMIT, CANCELQ -/

/-- SPECPG (R381); which of the free pages it takes is free (log 12). -/
def execSpecpg (d a : Byte) (s : State) : Host.Outcome State Fault Refusal :=
  issue (.specpg d a) (rulesToken false [d, a] (isS d && isS a))
    (fun w s =>
      let v := rd w a 0
      let l := s.me.info.launch
      let x := s.launch l
      match seqFault v, x.pool with
      | some e, _ => e
      | none, none => .fault 0x04 v 0
      | none, some p =>
        if x.refused.contains v.toNat then .done (startOp (s.putRegs (wrS w.regs d 0xFFFFFFFF)) .load [d])
        else
          let x := if p.freeCount < p.wmark + 1 then x.reclaim p else x
          match x.pool with
          | none => .done s
          | some p =>
            match p.freePages with
            | [] => .done (startOp ((s.putLaunch l x).putRegs (wrS w.regs d 0xFFFFFFFF)) .load [d])
            | f :: fs =>
              let n := (f :: fs).getD ((Config.freeWord s.freeIx).toNat % (fs.length + 1)) f
              let x := { x with pool := some { p with owned := p.owned ++ [(n, .spec v.toNat)] } }
              .done (startOp ((s.putLaunch l x).putRegs (wrS w.regs d (w32 n))) .load [d])) s

/-- The oldest `n` speculative pages of a sequence committed: the pages and how many (R382). -/
def commitPages (q : Nat) : Nat → List (Nat × KvPage) → List (Nat × KvPage) × Nat
  | _, [] => ([], 0)
  | 0, l => (l, 0)
  | n + 1, e :: r =>
    if e.2 = .spec q then
      let (l, k) := commitPages q n r
      ((e.1, .committed q) :: l, k + 1)
    else
      let (l, k) := commitPages q (n + 1) r
      (e :: l, k)

/-- COMMIT (R382). -/
def execCommit (d a b : Byte) (s : State) : Host.Outcome State Fault Refusal :=
  issue (.commit d a b) (rulesToken false [d, a, b] (isS d && isS a && isS b))
    (fun w s =>
      let v := rd w a 0
      let c := rd w b 0
      let l := s.me.info.launch
      let x := s.launch l
      if c.extractLsb' 18 14 != 0 then illegal (.commit d a b) s
      else
        match seqFault v, x.pool with
        | some e, _ => e
        | none, none => .fault 0x04 v 0
        | none, some p =>
          let q := v.toNat
          let p := p.release (· == .quarantine q)
          let (own, k) := commitPages q (c.toNat % 65536) p.owned
          let p := { p with owned := own }
          let p := if c.getLsbD 16 then p.release (· == .spec q) else p
          let p := if c.getLsbD 17 then p.release (fun e => e.seq == some q) else p
          .done (startOp ((s.putLaunch l { x with pool := some p }).putRegs (wrS w.regs d (w32 k))) .load [d])) s

/-- CANCELQ (R383). -/
def execCancelq (d a : Byte) (s : State) : Host.Outcome State Fault Refusal :=
  issue (.cancelq d a) (rulesToken false [d, a] (isS d && isS a))
    (fun w s =>
      let v := rd w a 0
      match seqFault v with
      | some e => e
      | none =>
        let c := (s.launch s.me.info.launch).cancelled.contains v.toNat
        .done (startOp (s.putRegs (wrS w.regs d (if c then 1 else 0))) .load [d])) s

/-! ## Egress -/

/-- The bound stream of a number. -/
def streamOf (l : Launch) (n : Nat) : Option Egress := l.egress.find? (·.stream == n)

def Launch.putStream (l : Launch) (e : Egress) : Launch :=
  { l with egress := l.egress.map fun x => if x.stream = e.stream then e else x }

/-- EGRESS (R385). -/
def execEgress (a b : Byte) (s : State) : Host.Outcome State Fault Refusal :=
  issue (.egress a b) (rulesToken true [a, b] (isBase 4 a && isS b))
    (fun w s =>
      let g := readDesc w a
      let n := rd w b 0
      match descRange (.egress a b) s { most := 1 } g with
      | some e => e
      | none =>
        let (s, r) := descPages s .gread g
        match r.chk.eff s with
        | some e => e
        | none =>
          let l := s.curLaunch
          match streamOf (s.launch l) n.toNat with
          | none => .fault 0x04 n 0
          | some x =>
            if 4096 ≤ x.entries.length then .wait s .retry
            else
              let x := { x with entries := x.entries ++ [{ region := g.reg, cell := g.first }] }
              .done (startOp (s.putLaunch l ((s.launch l).putStream x)) .store [])) s

/-- RELEASE (R386). -/
def execRelease (d a b : Byte) (s : State) : Host.Outcome State Fault Refusal :=
  issue (.release d a b) (rulesToken true [d, a, b] (isS d && isS a && isS b))
    (fun w s =>
      let n := rd w a 0
      let k := (rd w b 0).toNat
      let l := s.me.info.launch
      match streamOf (s.launch l) n.toNat with
      | none => .fault 0x04 n 0
      | some x =>
        let (s, v) : State × Word :=
          if (s.launch l).refused.contains x.seq then (s, 3)
          else if k = x.released then (s.putLaunch l ((s.launch l).putStream { x with released := x.released + 1 }), 0)
          else if k < x.released then (s, 1)
          else (s, 2)
        .done (startOp (s.putRegs (wrS w.regs d v)) .load [d])) s

/-- A 64-bit word of a function's address space, read as a copy would (R49, R384). -/
def readFar64 (s : State) (f va : Nat) : State × Option Nat :=
  let (s, r) := resolve s .io f .read va 8
  match r.chk with
  | .ok => (s, some (leNat (r.locs.flatMap fun e => s.ioBytes e.1 e.2)))
  | _ => (s, none)

/-- The first entry of a stream, when it leaves now (R387). -/
def departs (s : State) (l : Nat) (x : Egress) : Option EgEntry :=
  match x.entries with
  | [] => none
  | e :: _ =>
    let y := s.launch l
    let tag := cellTag s .io y e.region e.cell
    match (readFar64 s y.f x.credit).2 with
    | some c =>
      if gradeOf tag = 3 && !cellsBusy s l e.region e.cell 1 && x.leaves < x.released && x.leaves ≤ c + x.slots then some e else none
    | none => none

/-- The NOTE that is due: the oldest ring write whose NOTE is still to come is acknowledged, and so is the last write of NOTE (R387,
R365). -/
def noteDue (s : State) (x : Egress) : Option Nat :=
  let out := fun (id : Nat) => s.portWrites.any (·.id == id)
  match x.slotOut with
  | (id, k) :: _ => if out id || x.noteOut.any out then none else some k
  | [] => none

/-- EGRESS_DEPARTURE (R387): the cell goes to the host's ring, and NOTE follows once that write is visible; the next entry need not
wait for either. -/
def execEgressDeparture (s : State) : Host.Outcome State Fault Refusal :=
  .next <|
    let l := s.ev.launch
    match streamOf (s.launch l) s.ev.n with
    | none => s
    | some x =>
      let y := s.launch l
      let id := s.nextId
      match noteDue s x, departs s l x with
      | some k, _ => (s.putLaunch l (y.putStream { x with slotOut := x.slotOut.drop 1, noteOut := some id })).ioStore none (.host x.note) (leBytes 8 k)
      | none, some e =>
        let k := x.leaves
        let bytes := s.ioBytes (s.placeOf .io y.f (cellVa y e.region e.cell)) 256
        let s := s.putLaunch l (y.putStream { x with entries := x.entries.drop 1, leaves := k + 1, slotOut := x.slotOut ++ [(id, k + 1)] })
        s.ioStore none (.host (x.ring + 256 * (k % (x.slots + 1)))) bytes
      | none, none => s

end Sys2Proof.Machine
end

