-- ==== Sys2Proof/Machine/Packets.lean ====
section
/-! DEFINITION. The actions of packets other than LAUNCH (R49, R50, R56): signals and waits, mailbox messages, graded writes
and copies from hosts, cancellation, GRAPHOP operations (R75, R380, R384, R405, R426) and event requests. -/

namespace Sys2Proof.Machine

/-! ## Signals -/

/-- The place of a signal, translated as a copy's far address (R50). -/
def signalPlace (s : State) (f : Nat) (acc : Acc) (a : Nat) : State × Option Loc :=
  let (s, r) := resolve s .io f acc a 8
  match r.chk, r.locs with
  | .ok, (l, _) :: _ => (s, some l)
  | _, _ => (s, none)

def signalValue (s : State) (l : Loc) : BitVec 64 := BitVec.ofNat 64 (leNat (s.ioBytes l 8))

/-- The packet whose action a step works on, as the owner of its writes. -/
def State.writer (s : State) (f : Nat) (p : Packet) : Option (Nat × Nat × Nat) := some (f, s.ev.q, p.id)

/-- SIGNAL: store, add or subtract; a sum is formed at the word's home (R365; log 103). -/
def signalBody (s : State) (f : Nat) (p : Packet) : PktEff :=
  match signalPlace s f .write (p.q64 4) with
  | (s, none) => .error s 3
  | (s, some l) =>
    let v := BitVec.ofNat 64 (p.q64 6)
    .done (if p.w 8 = 0 then s.ioStore (s.writer f p) l (leBytes 8 v.toNat)
      else s.ioAdd (s.writer f p) l (if p.w 8 = 1 then v else -v))

def execSignal (s : State) : Host.Outcome State Fault Refusal := runPacket 4 signalBody s

/-- The comparisons of a WAIT packet: none when a signal's address fails its translation. -/
def comparisons (f : Nat) : State → List (Nat × Nat × BitVec 64) → State × Option (List Bool)
  | s, [] => (s, some [])
  | s, (a, c, v) :: r =>
    match signalPlace s f .read a with
    | (s, none) => (s, none)
    | (s, some l) =>
      match comparisons f s r with
      | (s, some bs) => (s, some (cond50 c (signalValue s l) v :: bs))
      | (s, none) => (s, none)

/-- WAITALL and WAITANY: started, then evaluated until their condition holds (R56). -/
def waitBody (all : Bool) (s : State) (f : Nat) (p : Packet) : PktEff :=
  match comparisons f s ((List.range p.count).map p.entry) with
  | (s, none) => .error s 3
  | (s, some bs) => if (if all then bs.all id else bs.any id) then .done s else .wait s

def execWaitall (s : State) : Host.Outcome State Fault Refusal := runPacket 2 (waitBody true) s
def execWaitany (s : State) : Host.Outcome State Fault Refusal := runPacket 3 (waitBody false) s

/-- WAIT_EVALUATION (R56): a blocked WAIT packet's comparisons once more. -/
def execWaitEvaluation (s : State) : Host.Outcome State Fault Refusal :=
  let go := fun (ty : Nat) => (packetFor s s.ev.f s.ev.q s.ev.seq ty).map (resumePacket (waitBody (ty == 2)) s s.ev.f s.ev.q)
  .next (((go 2).or (go 3)).getD s)

/-! ## Messages, cells and copies -/

/-- The writes of packets that the home processor of a queue has made and that ports still hold. -/
def writesOut (s : State) (f q : Nat) : List Nat :=
  let mine := fun (k : Option (Nat × Nat × Nat)) => k.any fun e => homeOf s e.1 e.2.1 == homeOf s f q
  ((s.portWrites.filter fun w => mine w.packet).map (·.id)) ++ ((s.graded.filter fun w => mine w.packet).map (·.id))

/-- Whether a port still holds one of these writes. -/
def stillOut (s : State) (ids : List Nat) : Bool := ids.any fun i => s.portWrites.any (·.id == i) || s.graded.any (·.id == i)

/-- MBOX (R388, R389): its put is a release at system scope, which waits until the writes that its queue processor has made before it
are visible, those of its own program among them; then it waits while the mailbox is full. -/
def mboxBody (s : State) (f : Nat) (p : Packet) : PktEff :=
  let q := s.ev.q
  let m := (p.w 4).toNat
  let msg := (List.range 8).map fun i => p.w (6 + i)
  let before := p.after.getD (writesOut s f q)
  if stillOut s before then .wait (putPacket s f q p { p with after := some before })
  else if putWaits s f m then .wait (joinPuts s f m (.packet q p.id) msg)
  else .done (mboxPut s f m msg)

def execMbox (s : State) : Host.Outcome State Fault Refusal := runPacket 5 mboxBody s

/-- A number that names no harness and no team. -/
def noOne : Nat := 2 ^ 64

/-- The cells of a host's GPUT that a peer keeps: a port sends and holds them, and the peer applies them with their tags (R358,
R365). -/
def sendCells (s : State) (packet : Option (Nat × Nat × Nat)) (l reg first g : Nat) (locs : List Loc) (data : List Byte) : State :=
  let id := s.nextId
  let x : GradedFlight :=
    { id := id, h := noOne, party := .none, team := noOne, batch := 0, kind := some .gput, launch := l, region := reg
      first := first, count := locs.length, grade := g, hop := 0, data := data, sh := 0, slot := 0, input := 0, lowG := 0, highN := 0
      locs := locs, packet := packet, sent := some id }
  ({ s.fresh with graded := s.graded ++ [x] }).post .gradedWriteComplete { id := id }

/-- GPUT from a host (R49, R342): every check for all cells, the translation before the tags (log 111), then the cells and their
tags, with hop count 0 (R349). It starts, and is accepted, once no earlier operation has reserved its cells, so that all its checks
are made together (R54, R337). -/
def hostGputBody (s : State) (f : Nat) (p : Packet) : PktEff :=
  let reg := (p.w 6).toNat
  let first := (p.w 7).toNat
  let n := (p.w 8).toNat
  let g := (p.w 9).toNat
  match handleOf s f p with
  | none => .error s 2
  | some l =>
    match (s.launch l).regions[reg]? with
    | none => .error s 2
    | some r =>
      if r.cells < first + n then .error s 2
      else
        let (s, src) := resolve s .io f .read (p.q64 4) (256 * n)
        match src.chk with
        | .ok =>
          let (s, dst) := resolve s .io f .gwrite (r.base + 256 * first) (256 * n)
          match dst.chk with
          | .ok =>
            let cs := cellsOf first (cellLocs dst.locs)
            match planFault s (s.launch l) reg .gput g cs with
            | some _ => .error s 6
            | none =>
              let data := src.locs.flatMap fun e => s.ioBytes e.1 e.2
              if cs.any fun c => c.2.isAway then .done (sendCells s (s.writer f p) l reg first g (cellLocs dst.locs) data)
              else .done (applyTags (writeCells s cs data) l reg .gput g 0 cs)
          | _ => .error s 3
        | _ => .error s 3

def execGputPacket (s : State) : Host.Outcome State Fault Refusal := runPacket 6 hostGputBody s

/-- CANCEL (R383): the flag; it takes effect at the sequence's next BFJOIN. -/
def cancelBody (s : State) (f : Nat) (p : Packet) : PktEff :=
  match handleOf s f p with
  | none => .error s 2
  | some l =>
    let x := s.launch l
    let q := (p.w 12).toNat
    .done (if x.cancelled.contains q then s else s.putLaunch l { x with cancelled := x.cancelled ++ [q] })

def execCancel (s : State) : Host.Outcome State Fault Refusal := runPacket 7 cancelBody s

/-- COPY (R49, R22, R249). -/
def copyBody (s : State) (f : Nat) (p : Packet) : PktEff :=
  let n := (p.w 8).toNat
  let (s, src) := resolve s .io f .read (p.q64 4) n
  match src.chk with
  | .ok =>
    let (s, dst) := resolve s .io f .write (p.q64 6) n
    match dst.chk with
    | .ok => .done (ioPlaces (s.writer f p) s dst.locs (src.locs.flatMap fun e => s.ioBytes e.1 e.2))
    | _ => .error s 3
  | _ => .error s 3

def execCopy (s : State) : Host.Outcome State Fault Refusal := runPacket 8 copyBody s

/-! ## GRAPHOP -/

/-- A GRAPHOP of operation `op` on a live launch, its record of `n` bytes read (R49): the handle is checked before the record is read, and
that before its contents (log 111). -/
def graphop (op n : Nat) (body : State → Nat → Packet → List Byte → PktEff) (s : State) : Host.Outcome State Fault Refusal :=
  runPacketIf (fun p => (p.w 4).toNat == op) 10 (fun s f p =>
    match handleOf s f p with
    | none => .error s 2
    | some l =>
      if n = 0 then body s l p []
      else
        match readRecord s f (p.q64 6) n with
        | (s, none) => .error s 3
        | (s, some b) => body s l p b) s

/-- Operation 1: TPRI from the record's header (R49, R72); a removed task is no task (log 60). -/
def execGraphopSetPriority (s : State) : Host.Outcome State Fault Refusal :=
  graphop 1 128 (fun s l p b =>
    let x := s.launch l
    let (k, ok) := readTask b x.roles.length x.regions
    match s.task l (p.w 8).toNat with
    | some t => if ok && !t.removed then .done (s.putTask l (p.w 8).toNat { t with tpri := k.tpri }) else .error s 6
    | none => .error s 6) s

/-- Operation 2: the record becomes the next task (R49, R38 to R42). -/
def execGraphopAppendTask (s : State) : Host.Outcome State Fault Refusal :=
  graphop 2 128 (fun s l _ b =>
    let x := s.launch l
    let (k, ok) := readTask b x.roles.length x.regions
    if !ok || 65536 ≤ x.tasks.length || !graphOk ((x.tasks.filter (!·.removed)) ++ [k]) then .error s 6
    else .done (fireReady (s.putLaunch l { x with tasks := x.tasks ++ [k] }) l)) s

/-- Tiles of a task withdrawn from a front end (R75). -/
def FrontEnd.without (f : FrontEnd) (t : Nat) : FrontEnd :=
  { f with buffer := f.buffer.filter (·.task.toNat != t), transit := f.transit.filter (·.task.toNat != t) }

/-- Operation 3: a task none of whose tiles was ever dispensed is removed (R75). -/
def execGraphopRemoveTask (s : State) : Host.Outcome State Fault Refusal :=
  graphop 3 0 (fun s l p _ =>
    let t := (p.w 8).toNat
    match s.task l t with
    | none => .error s 6
    | some k =>
      if k.ever || k.removed then .error s 6
      else
        let x := s.launch l
        .done (s.putLaunch l { x with
          tasks := x.tasks.set t { k with removed := true, pend := none }, fronts := x.fronts.map (·.without t) })) s

/-- Operation 4: the launch's page pool (R380). -/
def execGraphopDefinePool (s : State) : Host.Outcome State Fault Refusal :=
  graphop 4 16 (fun s l _ b =>
    let x := s.launch l
    let base := rec64 b 0
    let pages := (rec32 b 8).toNat
    let wmark := (rec32 b 12).toNat
    let hbm := (List.range pages).all fun i => match s.page .io x.f (base + 65536 * i) with
      | .page _ _ l => l.tier == 0
      | .absent => true
    if x.pool.isSome || base % 65536 != 0 || 2 ^ 57 < base + 65536 * pages || pages < 1 || 1048576 < pages || pages < wmark || !hbm then
      .error s 6
    else .done (s.putLaunch l { x with pool := some { base := base, pages := pages, wmark := wmark, owned := [] } })) s

/-- Operation 5: an egress stream (R384). -/
def execGraphopBindEgress (s : State) : Host.Outcome State Fault Refusal :=
  graphop 5 32 (fun s l _ b =>
    let x := s.launch l
    let w6 := rec32 b 0x18
    let w7 := rec32 b 0x1C
    let e : Egress :=
      { stream := (w7.extractLsb' 0 12).toNat, ring := rec64 b 0, credit := rec64 b 8, note := rec64 b 0x10
        seq := (w6.extractLsb' 0 24).toNat, slots := (w7.extractLsb' 16 16).toNat }
    if e.ring % 256 != 0 || e.note % 8 != 0 || w6.extractLsb' 24 8 != 0 || w7.extractLsb' 12 4 != 0 || (streamOf x e.stream).isSome then
      .error s 6
    else .done (s.putLaunch l { x with egress := x.egress ++ [e] })) s

/-- Operation 6: a service ring; its TAIL and HEAD start at 0 (R405). -/
def execGraphopBindServiceRing (s : State) : Host.Outcome State Fault Refusal :=
  graphop 6 16 (fun s l _ b =>
    let x := s.launch l
    let w1 := rec32 b 4
    let r : SvcRing :=
      { ring := (w1.extractLsb' 8 8).toNat, base := (rec32 b 0).toNat, evt := w1.getLsbD 16, logn := (w1.extractLsb' 0 4).toNat }
    if r.base % 4096 != 0 || w1.extractLsb' 17 15 != 0 || w1.extractLsb' 4 4 != 0 || rec64 b 8 != 0 || r.ring = 0 || r.logn < 10 ||
        12 < r.logn || s.svc.qmemLen < r.base + 64 + 64 * 2 ^ r.logn || (ringOf x r.ring).isSome then .error s 6
    else .done (putQmem (s.putLaunch l { x with rings := x.rings ++ [r] }) x.f r.base (leBytes 8 0))) s

/-- Operation 7: the trace ring; its TAIL and DROPS start at 0 (R426). -/
def execGraphopBindTraceRing (s : State) : Host.Outcome State Fault Refusal :=
  graphop 7 16 (fun s l _ b =>
    let x := s.launch l
    let w1 := rec32 b 4
    let r : TraceRing :=
      { base := (rec32 b 0).toNat, per := (w1.extractLsb' 16 5).toNat, evt := w1.getLsbD 8, logn := (w1.extractLsb' 0 4).toNat }
    if x.trace.isSome || r.base % 4096 != 0 || w1.extractLsb' 21 11 != 0 || w1.extractLsb' 9 7 != 0 || w1.extractLsb' 4 4 != 0 ||
        rec64 b 8 != 0 || (r.per != 0 && r.per < 8) || 20 < r.per || r.logn < 8 || 16 < r.logn ||
        s.svc.qmemLen < r.base + 64 + 32 * 2 ^ r.logn then .error s 6
    else
      let s := s.putLaunch l { x with trace := some r }
      .done (putQmem (putQmem s x.f r.base (leBytes 4 0)) x.f (r.base + 8) (leBytes 4 0))) s

/-! ## Event requests -/

/-- EVENTREQ (R49): armed; at most 256 of a function, the translation of its signal checked first (log 111). -/
def eventreqBody (s : State) (f : Nat) (p : Packet) : PktEff :=
  let a := p.q64 4 / 8 * 8
  match signalPlace s f .read a with
  | (s, none) => .error s 3
  | (s, some _) =>
    let fn := s.func f
    if 256 ≤ fn.evreqs.length then .error s 6
    else
      let r : EvReq := { addr := a, cond := ((p.w 4).extractLsb' 0 3).toNat, cmp := BitVec.ofNat 64 (p.q64 6) }
      .done (s.putFunc f { fn with evreqs := fn.evreqs ++ [r] })

def execEventreq (s : State) : Host.Outcome State Fault Refusal := runPacket 11 eventreqBody s

/-- Whether the condition of an armed request holds: not while its signal does not translate (log 112). -/
def eventHolds (s : State) (f : Nat) (r : EvReq) : Bool :=
  match (signalPlace s f .read r.addr).2 with
  | some l => cond50 r.cond (signalValue s l) r.cmp
  | none => false

/-- EVENTREQ_CONDITION_HOLDS (R49): one event message, and the request is armed no more. -/
def execEventreqConditionHolds (s : State) : Host.Outcome State Fault Refusal :=
  .next <|
    let f := s.ev.f
    let fn := s.func f
    match fn.evreqs[s.ev.n]? with
    | none => s
    | some r =>
      if eventHolds s f r then
        sendEvent (s.putFunc f { fn with evreqs := fn.evreqs.eraseIdx s.ev.n }) f 4 [w32 r.addr, w32 (r.addr / 2 ^ 32)]
      else s

end Sys2Proof.Machine
end

