-- ==== Sys2Proof/Machine/Integer.lean ====
section
/-! DEFINITION. Integer arithmetic, logic, shifts, bit fields, moves, selects and predicates (R176 to R185, R191, R192),
DOT4, DOT2 and MADW (R197). -/

namespace Sys2Proof.Machine

/-- Whether the mode's element type is among those an instruction accepts (R172). -/
def etIn (ts : List Nat) (w : View) : Bool := ts.contains (mrEtype w.mr)

/-- What R98 needs of an instruction of shape OP d, x, y; under ETYPE 9 with `typed`, every register is a pair. -/
def rulesDXY (sh typed : Bool) (mode : View → Bool) (d x y : Byte) : Rules where
  shuttle := sh
  legal := fun w => legalDXY w d x y && (!typed || pairsOk w.mr [d, x, y])
  mode := mode
  regs := [d, x, y]

/-- The same for OP d, x. -/
def rulesDX (sh typed : Bool) (mode : View → Bool) (d x : Byte) : Rules where
  shuttle := sh
  legal := fun w => legalDX w d x && (!typed || pairsOk w.mr [d, x])
  mode := mode
  regs := [d, x]

/-- The same for OP d, #imm. -/
def rulesDI (typed : Bool) (mode : View → Bool) (d : Byte) : Rules where
  shuttle := true
  legal := fun w => isD w.shuttle d && (!typed || pairsOk w.mr [d])
  mode := mode
  regs := [d]

def anyMode : View → Bool := fun _ => true

/-- The integer types of R172. -/
def intMode : View → Bool := etIn [0, 1, 2, 3, 4, 5, 9]

/-- Element by element, as integers: `g` takes the elements of D, A and B and gives the stored bits (R173). -/
def elemInts (w : View) (d x y : Byte) (g : Int → Int → Int → Nat) : RegFile :=
  let et := mrEtype w.mr
  let b := etBits et
  let sg := etSigned et
  wrT w d fun k =>
    mapElems et fun j => g (elemInt sg b (rdT w d k) j) (elemInt sg b (rdT w x k) j) (elemInt sg b (rdT w y k) j)

/-- Narrow under the mode (R173). -/
def narrowT (w : View) (r : Int) : Nat := narrow (mrSat w.mr) (etSigned (mrEtype w.mr)) (etBits (mrEtype w.mr)) r

def execAdd (d a b : Byte) (s : State) : Host.Outcome State Fault Refusal :=
  issue (.add d a b) (rulesDXY true true intMode d a b) (regsBody fun w => elemInts w d a b fun _ x y => narrowT w (x + y)) s

def execSub (d a b : Byte) (s : State) : Host.Outcome State Fault Refusal :=
  issue (.sub d a b) (rulesDXY true true intMode d a b) (regsBody fun w => elemInts w d a b fun _ x y => narrowT w (x - y)) s

def execMul (d a b : Byte) (s : State) : Host.Outcome State Fault Refusal :=
  issue (.mul d a b) (rulesDXY true true intMode d a b) (regsBody fun w => elemInts w d a b fun _ x y => narrowT w (x * y)) s

/-- MULH of R176: the product's bits above the element width, whatever SAT holds. -/
def execMulh (d a b : Byte) (s : State) : Host.Outcome State Fault Refusal :=
  issue (.mulh d a b) (rulesDXY true true (etIn [0, 1, 2, 3, 4, 5]) d a b)
    (regsBody fun w => elemInts w d a b fun _ x y =>
      let n := etBits (mrEtype w.mr)
      wrap n ((x * y).fdiv (2 ^ n))) s

def execMad (d a b : Byte) (s : State) : Host.Outcome State Fault Refusal :=
  issue (.mad d a b) (rulesDXY true true intMode d a b) (regsBody fun w => elemInts w d a b fun c x y => narrowT w (c + x * y)) s

def execMin (d a b : Byte) (s : State) : Host.Outcome State Fault Refusal :=
  issue (.min d a b) (rulesDXY true true intMode d a b)
    (regsBody fun w => elemInts w d a b fun _ x y => wrap (etBits (mrEtype w.mr)) (min x y)) s

def execMax (d a b : Byte) (s : State) : Host.Outcome State Fault Refusal :=
  issue (.max d a b) (rulesDXY true true intMode d a b)
    (regsBody fun w => elemInts w d a b fun _ x y => wrap (etBits (mrEtype w.mr)) (max x y)) s

/-- ABS of R176; an n element is its own absolute value. -/
def execAbs (d a : Byte) (s : State) : Host.Outcome State Fault Refusal :=
  issue (.abs d a) (rulesDX true true intMode d a) (regsBody fun w => elemInts w d a a fun _ x _ => narrowT w x.natAbs) s

def execNeg (d a : Byte) (s : State) : Host.Outcome State Fault Refusal :=
  issue (.neg d a) (rulesDX true true intMode d a) (regsBody fun w => elemInts w d a a fun _ x _ => narrowT w (-x)) s

def execClamp (d a b : Byte) (s : State) : Host.Outcome State Fault Refusal :=
  issue (.clamp d a b) (rulesDXY true true intMode d a b)
    (regsBody fun w => elemInts w d a b fun c x y => wrap (etBits (mrEtype w.mr)) (min (max c x) y)) s

/-- ADDI (R177). -/
def execAddi (d : Byte) (i : BitVec 16) (s : State) : Host.Outcome State Fault Refusal :=
  issue (.addi d i) (rulesDI true (etIn [0, 1, 9]) d) (regsBody fun w => elemInts w d d d fun c _ _ => narrowT w (c + i.toInt)) s

/-- MULI (R177). -/
def execMuli (d : Byte) (i : BitVec 16) (s : State) : Host.Outcome State Fault Refusal :=
  issue (.muli d i) (rulesDI true (etIn [0, 1, 9]) d) (regsBody fun w => elemInts w d d d fun c _ _ => narrowT w (c * i.toInt)) s

/-- ADDC and SUBB (R178): the sum or difference, and the carry predicate in each running lane. -/
def carryRegs (f : Word → Word → Bool → Word × Bool) (w : View) (d a b : Byte) : RegFile :=
  let c := if w.shuttle then 3 else 7
  let r := fun k => f (rd w a k) (rd w b k) ((getP w.regs c).getLsbD k)
  putP (wr w d fun k => (r k).1) c (runLanes w) fun k => (r k).2

/-- What R98 needs of ADDC and SUBB: a compute team takes no scalar destination (R178). -/
def rulesCarry (d a b : Byte) : Rules where
  shuttle := true
  legal := fun w => legalDXY w d a b && (w.shuttle || !isS d)
  mode := etIn [0, 1]
  regs := [d, a, b]

def execAddc (d a b : Byte) (s : State) : Host.Outcome State Fault Refusal :=
  issue (.addc d a b) (rulesCarry d a b) (regsBody fun w => carryRegs addCarry w d a b) s

def execSubb (d a b : Byte) (s : State) : Host.Outcome State Fault Refusal :=
  issue (.subb d a b) (rulesCarry d a b) (regsBody fun w => carryRegs subBorrow w d a b) s

/-- A 32-bit operation of shape OP d, x, y on the words of A, B and D. -/
def wordRegs (w : View) (d x y : Byte) (g : Word → Word → Word → Word) : RegFile :=
  wr w d fun k => g (rd w d k) (rd w x k) (rd w y k)

/-- DIVN (R179). -/
def divn (a b : Word) : Word := if b = 0 then 0xFFFFFFFF else a / b

/-- REMN (R179). -/
def remn (a b : Word) : Word := if b = 0 then a else a % b

def execDivn (d a b : Byte) (s : State) : Host.Outcome State Fault Refusal :=
  issue (.divn d a b) (rulesDXY true false anyMode d a b) (regsBody fun w => wordRegs w d a b fun _ x y => divn x y) s

def execRemn (d a b : Byte) (s : State) : Host.Outcome State Fault Refusal :=
  issue (.remn d a b) (rulesDXY true false anyMode d a b) (regsBody fun w => wordRegs w d a b fun _ x y => remn x y) s

def execAnd (d a b : Byte) (s : State) : Host.Outcome State Fault Refusal :=
  issue (.and d a b) (rulesDXY true false anyMode d a b) (regsBody fun w => wordRegs w d a b fun _ x y => x &&& y) s

def execOr (d a b : Byte) (s : State) : Host.Outcome State Fault Refusal :=
  issue (.or d a b) (rulesDXY true false anyMode d a b) (regsBody fun w => wordRegs w d a b fun _ x y => x ||| y) s

def execXor (d a b : Byte) (s : State) : Host.Outcome State Fault Refusal :=
  issue (.xor d a b) (rulesDXY true false anyMode d a b) (regsBody fun w => wordRegs w d a b fun _ x y => x ^^^ y) s

def execAndn (d a b : Byte) (s : State) : Host.Outcome State Fault Refusal :=
  issue (.andn d a b) (rulesDXY true false anyMode d a b) (regsBody fun w => wordRegs w d a b fun _ x y => x &&& ~~~y) s

def execNot (d a : Byte) (s : State) : Host.Outcome State Fault Refusal :=
  issue (.not d a) (rulesDX true false anyMode d a) (regsBody fun w => wordRegs w d a a fun _ x _ => ~~~x) s

/-- The shifts of R180; `n` of 32 or more empties the word, or fills it with the sign. -/
def shl (a : Word) (n : Nat) : Word := if 32 ≤ n then 0 else a <<< n
def shr (a : Word) (n : Nat) : Word := if 32 ≤ n then 0 else a >>> n
def sha (a : Word) (n : Nat) : Word := a.sshiftRight (min n 32)

def execShl (d a b : Byte) (s : State) : Host.Outcome State Fault Refusal :=
  issue (.shl d a b) (rulesDXY true false anyMode d a b) (regsBody fun w => wordRegs w d a b fun _ x y => shl x y.toNat) s

def execShr (d a b : Byte) (s : State) : Host.Outcome State Fault Refusal :=
  issue (.shr d a b) (rulesDXY true false anyMode d a b) (regsBody fun w => wordRegs w d a b fun _ x y => shr x y.toNat) s

def execSha (d a b : Byte) (s : State) : Host.Outcome State Fault Refusal :=
  issue (.sha d a b) (rulesDXY true false anyMode d a b) (regsBody fun w => wordRegs w d a b fun _ x y => sha x y.toNat) s

def execRotl (d a b : Byte) (s : State) : Host.Outcome State Fault Refusal :=
  issue (.rotl d a b) (rulesDXY true false anyMode d a b)
    (regsBody fun w => wordRegs w d a b fun _ x y => x.rotateLeft (y.toNat % 32)) s

def execShli (d : Byte) (i : BitVec 16) (s : State) : Host.Outcome State Fault Refusal :=
  issue (.shli d i) (rulesDI false anyMode d) (regsBody fun w => wordRegs w d d d fun x _ _ => shl x (i.toNat % 32)) s

def execShri (d : Byte) (i : BitVec 16) (s : State) : Host.Outcome State Fault Refusal :=
  issue (.shri d i) (rulesDI false anyMode d) (regsBody fun w => wordRegs w d d d fun x _ _ => shr x (i.toNat % 32)) s

def execShai (d : Byte) (i : BitVec 16) (s : State) : Host.Outcome State Fault Refusal :=
  issue (.shai d i) (rulesDI false anyMode d) (regsBody fun w => wordRegs w d d d fun x _ _ => sha x (i.toNat % 32)) s

/-- The number of 1 bits (R180). -/
def popc (a : Word) : Word := BitVec.ofNat 32 ((List.range 32).filter a.getLsbD).length

/-- The number of 0 bits above the highest 1 bit; 32 for 0 (R180). -/
def clz (a : Word) : Word := if a = 0 then 32 else BitVec.ofNat 32 (31 - a.toNat.log2)

/-- Bit `i` of the result is bit `31 - i` (R180). -/
def brev (a : Word) : Word := (List.range 32).foldl (fun r i => if a.getLsbD (31 - i) then r ||| BitVec.twoPow 32 i else r) 0

def execPopc (d a : Byte) (s : State) : Host.Outcome State Fault Refusal :=
  issue (.popc d a) (rulesDX true false anyMode d a) (regsBody fun w => wordRegs w d a a fun _ x _ => popc x) s

def execClz (d a : Byte) (s : State) : Host.Outcome State Fault Refusal :=
  issue (.clz d a) (rulesDX true false anyMode d a) (regsBody fun w => wordRegs w d a a fun _ x _ => clz x) s

def execBrev (d a : Byte) (s : State) : Host.Outcome State Fault Refusal :=
  issue (.brev d a) (rulesDX true false anyMode d a) (regsBody fun w => wordRegs w d a a fun _ x _ => brev x) s

/-- The field description of R181: position and length. -/
def fieldPos (b : Word) : Nat := b.toNat % 32
def fieldLen (b : Word) : Nat := min (b.toNat / 256 % 64) 32

/-- BFE (R181). -/
def bfe (a b : Word) : Word :=
  let len := fieldLen b
  let f := a.toNat / 2 ^ fieldPos b % 2 ^ len
  if b.getLsbD 16 && len != 0 then BitVec.ofInt 32 (sext f len) else BitVec.ofNat 32 f

/-- BFI (R181). -/
def bfi (d a b : Word) : Word :=
  let m := BitVec.ofNat 32 ((2 ^ fieldLen b - 1) * 2 ^ fieldPos b)
  (d &&& ~~~m) ||| ((a <<< fieldPos b) &&& m)

def execBfe (d a b : Byte) (s : State) : Host.Outcome State Fault Refusal :=
  issue (.bfe d a b) (rulesDXY true false anyMode d a b) (regsBody fun w => wordRegs w d a b fun _ x y => bfe x y) s

def execBfi (d a b : Byte) (s : State) : Host.Outcome State Fault Refusal :=
  issue (.bfi d a b) (rulesDXY true false anyMode d a b) (regsBody fun w => wordRegs w d a b bfi) s

/-- MOV (R182): a word, or predicate bits when both operands are predicates. -/
def execMov (d a : Byte) (s : State) : Host.Outcome State Fault Refusal :=
  issue (.mov d a)
    { shuttle := true, legal := fun w => legalDX w d a || (isQ w.shuttle d && isQ w.shuttle a), regs := [d, a] }
    (regsBody fun w => if isQ w.shuttle d then wrQ w d (rdQ w a) else wr w d (rd w a)) s

/-- LIT (R182). -/
def execLit (d : Byte) (i : BitVec 16) (s : State) : Host.Outcome State Fault Refusal :=
  issue (.lit d i) (rulesDI false anyMode d) (regsBody fun w => wr w d fun _ => i.signExtend 32) s

/-- LIH (R182): the high half. -/
def execLih (d : Byte) (i : BitVec 16) (s : State) : Host.Outcome State Fault Refusal :=
  issue (.lih d i) (rulesDI false anyMode d) (regsBody fun w => wr w d fun k => i ++ (rd w d k).setWidth 16) s

/-- SEL (R183); a compute team takes no scalar destination, and zero, whose write is discarded (log 134). -/
def execSel (d a b : Byte) (s : State) : Host.Outcome State Fault Refusal :=
  issue (.sel d a b)
    { shuttle := true, legal := fun w => legalDXY w d a b && (w.shuttle || !isS d), regs := [d, a, b] }
    (regsBody fun w => wr w d fun k => if (getP w.regs (mrSelp w.mr)).getLsbD k then rd w a k else rd w b k) s

/-- One comparison of SETP on two operands' values (R184). -/
def setpHolds (w : View) (cc : Cc) (x y : BitVec 64) : Bool :=
  let et := mrEtype w.mr
  if et = 6 then
    let v := fun (z : BitVec 64) => Num.fval fmt32 (Num.flush (mrFlush w.mr) fmt32 (z.toNat % 2 ^ 32))
    ccFloat cc (v x) (v y)
  else ccInt cc (elemInt (etSigned et) (etBits et) x 0) (elemInt (etSigned et) (etBits et) y 0)

/-- What R98 needs of SETP. -/
def rulesSetp (d a b : Byte) : Rules where
  shuttle := true
  legal := fun w => isQ w.shuttle d && isX w.shuttle a && isX w.shuttle b && pairsOk w.mr [a, b]
  mode := etIn [0, 1, 6, 9]
  regs := [d, a, b]

/-- SETP (R184). -/
def setpRegs (cc : Cc) (w : View) (d a b : Byte) : RegFile := wrQ w d fun k => setpHolds w cc (rdT w a k) (rdT w b k)

def execSetpEq (d a b : Byte) (s : State) : Host.Outcome State Fault Refusal :=
  issue (.setpEq d a b) (rulesSetp d a b) (regsBody fun w => setpRegs .eq w d a b) s
def execSetpNe (d a b : Byte) (s : State) : Host.Outcome State Fault Refusal :=
  issue (.setpNe d a b) (rulesSetp d a b) (regsBody fun w => setpRegs .ne w d a b) s
def execSetpLt (d a b : Byte) (s : State) : Host.Outcome State Fault Refusal :=
  issue (.setpLt d a b) (rulesSetp d a b) (regsBody fun w => setpRegs .lt w d a b) s
def execSetpLe (d a b : Byte) (s : State) : Host.Outcome State Fault Refusal :=
  issue (.setpLe d a b) (rulesSetp d a b) (regsBody fun w => setpRegs .le w d a b) s
def execSetpGt (d a b : Byte) (s : State) : Host.Outcome State Fault Refusal :=
  issue (.setpGt d a b) (rulesSetp d a b) (regsBody fun w => setpRegs .gt w d a b) s
def execSetpGe (d a b : Byte) (s : State) : Host.Outcome State Fault Refusal :=
  issue (.setpGe d a b) (rulesSetp d a b) (regsBody fun w => setpRegs .ge w d a b) s

/-- What R98 needs of the predicate-logic instructions (R185). -/
def rulesQ (d a b : Byte) : Rules where
  shuttle := true
  legal := fun w => isQ w.shuttle d && isQ w.shuttle a && isQ w.shuttle b
  regs := [d, a, b]

def execPand (d a b : Byte) (s : State) : Host.Outcome State Fault Refusal :=
  issue (.pand d a b) (rulesQ d a b) (regsBody fun w => wrQ w d fun k => rdQ w a k && rdQ w b k) s

def execPor (d a b : Byte) (s : State) : Host.Outcome State Fault Refusal :=
  issue (.por d a b) (rulesQ d a b) (regsBody fun w => wrQ w d fun k => rdQ w a k || rdQ w b k) s

def execPnot (d a : Byte) (s : State) : Host.Outcome State Fault Refusal :=
  issue (.pnot d a) (rulesQ d a a) (regsBody fun w => wrQ w d fun k => !rdQ w a k) s

/-- MOVP (R185), in either direction. -/
def execMovp (d a : Byte) (s : State) : Host.Outcome State Fault Refusal :=
  issue (.movp d a)
    { legal := fun w => (isV d && isQ w.shuttle a) || (isQ w.shuttle d && isV a), regs := [d, a] }
    (regsBody fun w => if isV d then wr w d fun k => (if rdQ w a k then 1 else 0) else wrQ w d fun k => rd w a k != 0) s

/-- LEA (R191). -/
def execLea (d a b : Byte) (s : State) : Host.Outcome State Fault Refusal :=
  issue (.lea d a b) (rulesDXY false false anyMode d a b) (regsBody fun w => wordRegs w d a b fun _ x y => x + 4 * y) s

/-- ADDP (R191): pairs D and A, both vector or both scalar; any other mixture of kinds, and D = zero, is illegal (log 115). -/
def execAddp (d a b : Byte) (s : State) : Host.Outcome State Fault Refusal :=
  issue (.addp d a b)
    { legal := fun w => ((isV d && isV a) || (isS d && isS a)) && isX w.shuttle b && scalarOk d [b] && evenReg d && evenReg a
      regs := [d, a, b] }
    (regsBody fun w => wr64 w d fun k => rd64 w a k + (rd w b k).signExtend 64) s

/-- RAND (R192). -/
def randHash (a b : Word) : Word :=
  let x := a + b * 0x9E3779B9
  let x := (x ^^^ (x >>> 16)) * 0x7FEB352D
  let x := (x ^^^ (x >>> 15)) * 0x846CA68B
  x ^^^ (x >>> 16)

def execRand (d a b : Byte) (s : State) : Host.Outcome State Fault Refusal :=
  issue (.rand d a b) (rulesDXY false false anyMode d a b) (regsBody fun w => wordRegs w d a b fun _ x y => randHash x y) s

/-- The sum of products of the elements of two words (R197). -/
def dotSum (w : View) (x y : Word) : Int :=
  let et := mrEtype w.mr
  let e := fun (z : Word) j => elemInt (etSigned et) (etBits et) (z.setWidth 64) j
  ((List.range (etCount et)).map fun j => e x j * e y j).foldl (· + ·) 0

/-- DOT4 and DOT2: D plus the sum of products, narrowed to 32 bits (R197). -/
def dotRegs (w : View) (d a b : Byte) : RegFile :=
  let sg := etSigned (mrEtype w.mr)
  wordRegs w d a b fun c x y => BitVec.ofNat 32 (narrow (mrSat w.mr) sg 32 ((if sg then c.toInt else (c.toNat : Int)) + dotSum w x y))

def execDot4 (d a b : Byte) (s : State) : Host.Outcome State Fault Refusal :=
  issue (.dot4 d a b) (rulesDXY false false (etIn [4, 5]) d a b) (regsBody fun w => dotRegs w d a b) s

def execDot2 (d a b : Byte) (s : State) : Host.Outcome State Fault Refusal :=
  issue (.dot2 d a b) (rulesDXY false false (etIn [2, 3]) d a b) (regsBody fun w => dotRegs w d a b) s

/-- MADW (R197): the pair at D plus a product, narrowed to 64 bits. -/
def madwRegs (w : View) (d a b : Byte) : RegFile :=
  let sg := etSigned (mrEtype w.mr)
  let v := fun (z : Word) => if sg then z.toInt else (z.toNat : Int)
  wr64 w d fun k =>
    let c := rd64 w d k
    BitVec.ofNat 64 (narrow (mrSat w.mr) sg 64 ((if sg then c.toInt else (c.toNat : Int)) + v (rd w a k) * v (rd w b k)))

def execMadw (d a b : Byte) (s : State) : Host.Outcome State Fault Refusal :=
  issue (.madw d a b)
    { legal := fun w => legalDXY w d a b && evenReg d, mode := etIn [0, 1], regs := [d, a, b] }
    (regsBody fun w => madwRegs w d a b) s

end Sys2Proof.Machine
end

