-- ==== Sys2Proof/Machine/Lane.lean ====
section
/-! DEFINITION. Instructions across lanes (R186 to R190). -/

namespace Sys2Proof.Machine

/-- What R98 needs of SHFL and SHFLX. -/
def rulesShuffle (d a b : Byte) : Rules where
  legal := fun w => isV d && isV a && isX w.shuttle b
  regs := [d, a, b]

/-- Lane `j` of operand `x` when it is in Lanes(), else 0 (R186). -/
def laneOr0 (w : View) (x : Byte) (j : Nat) : Word := if j < w.nl then rd w x j else 0

def execShfl (d a b : Byte) (s : State) : Host.Outcome State Fault Refusal :=
  issue (.shfl d a b) (rulesShuffle d a b)
    (regsBody fun w => wr w d fun k => rd w a (32 * (k / 32) + (rd w b k).toNat % 32)) s

def execShflx (d a b : Byte) (s : State) : Host.Outcome State Fault Refusal :=
  issue (.shflx d a b) (rulesShuffle d a b) (regsBody fun w => wr w d fun k => laneOr0 w a (rd w b k).toNat) s

def execBcast (d a b : Byte) (s : State) : Host.Outcome State Fault Refusal :=
  issue (.bcast d a b) { legal := fun _ => isV d && isV a && isS b, regs := [d, a, b] }
    (regsBody fun w => wr w d fun _ => laneOr0 w a (rd w b 0).toNat) s

def execLread (d a b : Byte) (s : State) : Host.Outcome State Fault Refusal :=
  issue (.lread d a b) { legal := fun _ => isS d && isV a && isS b, regs := [d, a, b] }
    (regsBody fun w => wr w d fun _ => laneOr0 w a (rd w b 0).toNat) s

/-- LWRITE (R186) writes its lane whether or not it runs. -/
def execLwrite (d a b : Byte) (s : State) : Host.Outcome State Fault Refusal :=
  issue (.lwrite d a b) { legal := fun _ => isV d && isS a && isS b, regs := [d, a, b], passes := some 1 }
    (regsBody fun w =>
      let j := (rd w b 0).toNat
      if j < w.nl then putV w.regs d.toNat [j] fun _ => rd w a 0 else w.regs) s

/-- What R98 needs of a vote OP s, q. -/
def rulesVote (d a : Byte) : Rules where
  legal := fun w => isS d && isQ w.shuttle a
  regs := [d, a]

def execVany (d a : Byte) (s : State) : Host.Outcome State Fault Refusal :=
  issue (.vany d a) (rulesVote d a) (regsBody fun w => wr w d fun _ => if (runLanes w).any (rdQ w a) then 1 else 0) s

def execVall (d a : Byte) (s : State) : Host.Outcome State Fault Refusal :=
  issue (.vall d a) (rulesVote d a) (regsBody fun w => wr w d fun _ => if (runLanes w).all (rdQ w a) then 1 else 0) s

/-- BALLOT (R187): the predicate in the running lanes of group `g`. -/
def ballot (w : View) (a : Byte) (g : Nat) : Word :=
  if w.nl ≤ 32 * g then 0
  else
    (List.range 32).foldl (fun m i =>
      if w.run.getLsbD (32 * g + i) && rdQ w a (32 * g + i) then m ||| BitVec.twoPow 32 i else m) 0

def execBallot (d a b : Byte) (s : State) : Host.Outcome State Fault Refusal :=
  issue (.ballot d a b) { legal := fun w => isS d && isQ w.shuttle a, mode := fun _ => b.toNat ≤ 31, regs := [d, a] }
    (regsBody fun w => wr w d fun _ => ballot w a b.toNat) s

/-- LANECNT (R187); its one operand is a scalar register, so it issues in one pass (R82). -/
def execLanecnt (d : Byte) (s : State) : Host.Outcome State Fault Refusal :=
  issue (.lanecnt d) { legal := fun _ => isS d, regs := [d] }
    (regsBody fun w => wr w d fun _ => BitVec.ofNat 32 (runLanes w).length) s

def execFfs (d a : Byte) (s : State) : Host.Outcome State Fault Refusal :=
  issue (.ffs d a) (rulesVote d a)
    (regsBody fun w => wr w d fun _ =>
      match (runLanes w).find? (rdQ w a) with
      | some k => BitVec.ofNat 32 k
      | none => 0xFFFFFFFF) s

/-! ## Reductions -/

/-- Node `(l, i)` of the tree of R189 over optional leaves. -/
def treeNode (add : Nat → Nat → Nat) (leaf : Nat → Option Nat) : Nat → Nat → Option Nat
  | 0, i => leaf i
  | l + 1, i =>
    match treeNode add leaf l (2 * i), treeNode add leaf l (2 * i + 1) with
    | some x, some y => some (add x y)
    | some x, none => some x
    | none, y => y

/-- The least `l` with `n ≤ 2^l`. -/
def clog2 (n : Nat) : Nat := if n ≤ 1 then 0 else (n - 1).log2 + 1

/-- The Add of R189 on encodings of `f`. -/
def treeAdd (w : View) (f : Fmt) (x y : Nat) : Nat :=
  Num.flush (mrFlush w.mr) f (Num.roundTo f (mrRnd w.mr) (Num.fadd (mrRnd w.mr) (Num.fval f x) (Num.fval f y)))

/-- Element `j` of operand `x` in lane `k` of a floating-point type, flushed as the mode says (R188, R193). -/
def floatElem (w : View) (x : Byte) (k j : Nat) : Nat :=
  let f := etFmt (mrEtype w.mr)
  Num.flush (mrFlush w.mr) f (elemOf f.width (rdT w x k) j)

/-- The leaf of lane `i` for element `j`; absent when the lane does not run. -/
def floatLeaf (w : View) (x : Byte) (j i : Nat) : Option Nat :=
  if i < w.nl && w.run.getLsbD i then some (floatElem w x i j) else none

/-- Element `j` of the running lanes in ascending order, as integers. -/
def runElems (w : View) (x : Byte) (j : Nat) : List Int :=
  let et := mrEtype w.mr
  (runLanes w).map fun k => elemInt (etSigned et) (etBits et) (rdT w x k) j

def sumInts (l : List Int) : Int := l.foldl (· + ·) 0

/-- REDADD of element `j` (R188, R189). -/
def redAdd (w : View) (x : Byte) (j : Nat) : Nat :=
  let et := mrEtype w.mr
  if etFloat et then
    let f := etFmt et
    (treeNode (treeAdd w f) (floatLeaf w x j) (clog2 w.nl) 0).getD 0
  else narrowT w (sumInts (runElems w x j))

/-- The lesser or greater of two encodings, -0 below +0 and NaN ignored (R188, R194). -/
def floatPick (f : Fmt) (greater : Bool) (x y : Nat) : Nat :=
  let a := Num.fval f x
  let b := Num.fval f y
  if Num.isNan a && Num.isNan b then f.nan
  else if Num.isNan a then y
  else if Num.isNan b then x
  else if (if greater then Num.fless true a b else Num.fless true b a) then y else x

/-- REDMIN and REDMAX of element `j` (R188). -/
def redPick (w : View) (x : Byte) (greater : Bool) (j : Nat) : Nat :=
  let et := mrEtype w.mr
  if etFloat et then
    let f := etFmt et
    match (runLanes w).map fun k => floatElem w x k j with
    | [] => Num.withSign f greater (f.maxEnc + 1)
    | e :: r => r.foldl (floatPick f greater) (floatPick f greater e e)
  else
    let sg := etSigned et
    let b := etBits et
    let l := runElems w x j
    wrap b (if greater then l.foldl max (loOf sg b) else l.foldl min (hiOf sg b))

/-- What R98 needs of a reduction. -/
def rulesRed (d a : Byte) : Rules where
  legal := fun w => isS d && isV a && pairsOk w.mr [d, a]
  mode := etIn [0, 1, 2, 3, 4, 5, 6, 7, 8, 9]
  regs := [d, a]

/-- A reduction written element by element to the scalar D. -/
def redRegs (w : View) (d : Byte) (g : Nat → Nat) : RegFile := wrT w d fun _ => mapElems (mrEtype w.mr) g

def execRedadd (d a : Byte) (s : State) : Host.Outcome State Fault Refusal :=
  issue (.redadd d a) (rulesRed d a) (regsBody fun w => redRegs w d (redAdd w a)) s
def execRedmin (d a : Byte) (s : State) : Host.Outcome State Fault Refusal :=
  issue (.redmin d a) (rulesRed d a) (regsBody fun w => redRegs w d (redPick w a false)) s
def execRedmax (d a : Byte) (s : State) : Host.Outcome State Fault Refusal :=
  issue (.redmax d a) (rulesRed d a) (regsBody fun w => redRegs w d (redPick w a true)) s

/-- The fold of R190: from lane `lo` on, the blocks of the binary digits of `n` from digit `e - 1` down. -/
def scanFold (add : Nat → Nat → Nat) (leaf : Nat → Option Nat) (n : Nat) : Nat → Nat → Option Nat → Option Nat
  | 0, _, acc => acc
  | e + 1, lo, acc =>
    if n.testBit e then
      let nd := treeNode add leaf e (lo / 2 ^ e)
      let acc := match acc, nd with
        | some x, some y => some (add x y)
        | some x, none => some x
        | none, y => y
      scanFold add leaf n e (lo + 2 ^ e) acc
    else scanFold add leaf n e lo acc

/-- SCANADD of element `j` in lane `k` (R190). -/
def scanAdd (w : View) (x : Byte) (k j : Nat) : Nat :=
  let et := mrEtype w.mr
  if etFloat et then (scanFold (treeAdd w (etFmt et)) (floatLeaf w x j) (k + 1) 11 0 none).getD 0
  else
    narrowT w (sumInts (((runLanes w).filter (· ≤ k)).map fun i => elemInt (etSigned et) (etBits et) (rdT w x i) j))

def execScanadd (d a : Byte) (s : State) : Host.Outcome State Fault Refusal :=
  issue (.scanadd d a)
    { legal := fun w => isV d && isV a && pairsOk w.mr [d, a], mode := etIn [0, 1, 2, 3, 4, 5, 6, 7, 8, 9], regs := [d, a] }
    (regsBody fun w => wrT w d fun k => mapElems (mrEtype w.mr) fun j => scanAdd w a k j) s

end Sys2Proof.Machine
end

