-- ==== Sys2Proof/Machine/Transc.lean ====
section
/-! DEFINITION. The correctly rounded functions of R196: reciprocal, reciprocal square root, 2^x, log2 x and sin(πx).
An irrational result is enclosed between two rationals 2^21 units of 2^-512 apart, computed by series in fixed point;
both ends round to the same binary32 value, which is the correctly rounded one (log 15). -/

namespace Sys2Proof.Num

/-- Fraction bits of the fixed-point numbers. -/
def fpBits : Nat := 512

def fpOne : Nat := 2 ^ fpBits

/-- Half the width of an enclosure, in units of the fixed point: above the error of every series here. -/
def fpSlack : Int := 2 ^ 20

/-- `n/d` in fixed point, rounded down. -/
def fpOf (n : Int) (d : Nat) : Int := (n * fpOne).fdiv d

/-- Σ ± t·u^k/(2k + 1) over k below the fuel, with `t` the current power; `alt` alternates the signs. -/
def oddSeries (alt : Bool) (u : Int) : Nat → Nat → Int → Int → Int
  | 0, _, _, acc => acc
  | fuel + 1, k, t, acc =>
    let term := t / (2 * k + 1 : Nat)
    oddSeries alt u fuel (k + 1) (t * u / (fpOne : Int)) (if alt && k % 2 = 1 then acc - term else acc + term)

/-- ln 2 = 2·atanh(1/3). -/
def fpLn2 : Int := 2 * oddSeries false (fpOf 1 9) 180 0 (fpOf 1 3) 0

/-- π = 16·atan(1/5) − 4·atan(1/239). -/
def fpPi : Int :=
  16 * oddSeries true (fpOf 1 25) 130 0 (fpOf 1 5) 0 - 4 * oddSeries true (fpOf 1 57121) 40 0 (fpOf 1 239) 0

/-- Σ y^k/k! from term `t` of index `k`. -/
def expSeries (y : Int) : Nat → Nat → Int → Int → Int
  | 0, _, _, acc => acc
  | fuel + 1, k, t, acc => expSeries y fuel (k + 1) (t * y / (fpOne : Int) / (k + 1 : Nat)) (acc + t)

/-- Σ (−1)^k θ^(2k+1)/(2k+1)!, with `sq` = θ². -/
def sinSeries (sq : Int) : Nat → Nat → Int → Int → Int
  | 0, _, _, acc => acc
  | fuel + 1, k, t, acc =>
    sinSeries sq fuel (k + 1) (t * sq / (fpOne : Int) / ((2 * k + 2) * (2 * k + 3) : Nat))
      (if k % 2 = 1 then acc - t else acc + t)

/-- The enclosure of a fixed-point result. -/
def encl (r : Int) : Q × Q := (⟨r - fpSlack, fpOne⟩, ⟨r + fpSlack, fpOne⟩)

/-- A signed rational as a value. -/
def fvalOfQ (q : Q) : FVal := .fin (q.num < 0) (qAbs q)

/-- The binary32 value both ends of an enclosure round to; `tag` names the case for a hard one. -/
def roundEncl (tag : Nat) (e : Q × Q) : Nat :=
  let lo := roundTo fmt32 .ne (fvalOfQ e.1)
  let hi := roundTo fmt32 .ne (fvalOfQ e.2)
  if lo = hi then lo else if Config.hardCase tag then lo else hi

/-- An enclosure of 2^x for a rational `x`; exact when `x` is an integer. Below −600 it only says that the result is
positive and below 2^−600. -/
def exp2Encl (x : Q) : Q × Q :=
  let n := qFloor x
  let f := qAdd x (qInt (-n))
  if f.num = 0 then
    let n' := if n < -2000 then -2000 else if 2000 < n then 2000 else n
    (qPow2 n', qPow2 n')
  else if n < -600 then (qPow2 (-700), qPow2 (-600))
  else if 600 < n then (qPow2 600, qPow2 601)
  else
    let y := fpOf f.num f.den * fpLn2 / (fpOne : Int)
    let e := encl (expSeries y 130 0 fpOne 0)
    (qMul e.1 (qPow2 n), qMul e.2 (qPow2 n))

/-- 2^A (R196). -/
def exp2F (tag : Nat) : FVal → Nat
  | .nan => fmt32.nan
  | .inf neg => if neg then 0 else 0x7F800000
  | .fin neg q => roundEncl tag (exp2Encl (signedQ neg q))

/-- log2 A (R196). -/
def log2F (tag : Nat) : FVal → Nat
  | .nan => fmt32.nan
  | .inf neg => if neg then fmt32.nan else 0x7F800000
  | .fin neg q =>
    if q.num = 0 then 0xFF800000
    else if neg then fmt32.nan
    else
      let n := q.num.natAbs
      let e := expOf n q.den
      let m := qMul q (qPow2 (-e))                      -- in [1, 2)
      let t := fpOf (m.num - m.den) (m.num.natAbs + m.den)
      if t = 0 then roundTo fmt32 .ne (fvalOfQ (qInt e))
      else
        let ln := 2 * oddSeries false (t * t / (fpOne : Int)) 180 0 t 0
        roundEncl tag (encl (e * fpOne + (ln * fpOne).fdiv fpLn2.toNat))

/-- sin(πA) (R196). -/
def sinPiF (tag : Nat) : FVal → Nat
  | .nan => fmt32.nan
  | .inf _ => fmt32.nan
  | .fin neg q =>
    let n := q.num.natAbs % (2 * q.den)                 -- |A| mod 2, over q.den
    let half := q.den ≤ n
    let r := if half then n - q.den else n
    let neg' := neg != half
    if r = 0 then withSign fmt32 neg 0
    else if 2 * r = q.den then withSign fmt32 neg' 0x3F800000
    else
      let r' := if q.den < 2 * r then q.den - r else r
      let th := fpPi * r' / (q.den : Int)
      let s := sinSeries (th * th / (fpOne : Int)) 100 0 th 0
      let m := roundEncl tag (encl s)
      withSign fmt32 neg' m

/-- 1/A (R196). -/
def rcpF : FVal → Nat
  | .nan => fmt32.nan
  | .inf neg => withSign fmt32 neg 0
  | .fin neg q => if q.num = 0 then withSign fmt32 neg 0x7F800000 else roundTo fmt32 .ne (.fin neg ⟨q.den, q.num.natAbs⟩)

/-- 1/√A (R196). -/
def rsqF (tag : Nat) : FVal → Nat
  | .nan => fmt32.nan
  | .inf neg => if neg then fmt32.nan else 0
  | .fin neg q =>
    if q.num = 0 then withSign fmt32 neg 0x7F800000
    else if neg then fmt32.nan
    else
      let n := q.num.natAbs
      let sq := q.den * 2 ^ 600 / n
      let r := isqrt sq
      if r * r * n = q.den * 2 ^ 600 then roundTo fmt32 .ne (.fin false ⟨r, 2 ^ 300⟩)
      else roundEncl tag (⟨r, 2 ^ 300⟩, ⟨r + 1, 2 ^ 300⟩)

end Sys2Proof.Num
end

