-- ==== Sys2Proof/Machine/FloatArith.lean ====
section
/-! DEFINITION. The floating-point instructions of row 0x6 and FDOT2 (R193 to R197). -/

namespace Sys2Proof.Machine

def floatMode : View → Bool := etIn [6, 7, 8]

/-- A value rounded to the mode's format, its subnormal result flushed as the mode says (R193). -/
def roundF (w : View) (v : FVal) : Nat :=
  let f := etFmt (mrEtype w.mr)
  Num.flush (mrFlush w.mr) f (Num.roundTo f (mrRnd w.mr) v)

/-- Element by element, as values of flushed elements of D, A and B. -/
def elemFloats (w : View) (d x y : Byte) (g : FVal → FVal → FVal → Nat) : RegFile :=
  let f := etFmt (mrEtype w.mr)
  wr w d fun k =>
    (mapElems (mrEtype w.mr) fun j =>
      g (Num.fval f (floatElem w d k j)) (Num.fval f (floatElem w x k j)) (Num.fval f (floatElem w y k j))).setWidth 32

/-- Element by element, on the raw bits of A and B. -/
def elemBits (w : View) (d x y : Byte) (g : Nat → Nat → Nat) : RegFile :=
  let f := etFmt (mrEtype w.mr)
  wr w d fun k =>
    (mapElems (mrEtype w.mr) fun j => g (elemOf f.width (rdT w x k) j) (elemOf f.width (rdT w y k) j)).setWidth 32

def execFadd (d a b : Byte) (s : State) : Host.Outcome State Fault Refusal :=
  issue (.fadd d a b) (rulesDXY false false floatMode d a b)
    (regsBody fun w => elemFloats w d a b fun _ x y => roundF w (Num.fadd (mrRnd w.mr) x y)) s

def execFsub (d a b : Byte) (s : State) : Host.Outcome State Fault Refusal :=
  issue (.fsub d a b) (rulesDXY false false floatMode d a b)
    (regsBody fun w => elemFloats w d a b fun _ x y => roundF w (Num.fadd (mrRnd w.mr) x (Num.fneg y))) s

def execFmul (d a b : Byte) (s : State) : Host.Outcome State Fault Refusal :=
  issue (.fmul d a b) (rulesDXY false false floatMode d a b)
    (regsBody fun w => elemFloats w d a b fun _ x y => roundF w (Num.fmul x y)) s

/-- FMA (R194): one rounding of A · B + D. -/
def execFma (d a b : Byte) (s : State) : Host.Outcome State Fault Refusal :=
  issue (.fma d a b) (rulesDXY false false floatMode d a b)
    (regsBody fun w => elemFloats w d a b fun c x y => roundF w (Num.fadd (mrRnd w.mr) (Num.fmul x y) c)) s

def execFmin (d a b : Byte) (s : State) : Host.Outcome State Fault Refusal :=
  issue (.fmin d a b) (rulesDXY false false floatMode d a b)
    (regsBody fun w => elemBits w d a b fun x y =>
      let f := etFmt (mrEtype w.mr)
      floatPick f false (Num.flush (mrFlush w.mr) f x) (Num.flush (mrFlush w.mr) f y)) s

def execFmax (d a b : Byte) (s : State) : Host.Outcome State Fault Refusal :=
  issue (.fmax d a b) (rulesDXY false false floatMode d a b)
    (regsBody fun w => elemBits w d a b fun x y =>
      let f := etFmt (mrEtype w.mr)
      floatPick f true (Num.flush (mrFlush w.mr) f x) (Num.flush (mrFlush w.mr) f y)) s

/-- FABS (R194): the sign bit cleared. -/
def execFabs (d a : Byte) (s : State) : Host.Outcome State Fault Refusal :=
  issue (.fabs d a) (rulesDX false false floatMode d a)
    (regsBody fun w => elemBits w d a a fun x _ => Num.magBits (etFmt (mrEtype w.mr)) x) s

/-- FNEG (R194): the sign bit inverted. -/
def execFneg (d a : Byte) (s : State) : Host.Outcome State Fault Refusal :=
  issue (.fneg d a) (rulesDX false false floatMode d a)
    (regsBody fun w => elemBits w d a a fun x _ =>
      let f := etFmt (mrEtype w.mr)
      Num.withSign f (!Num.signBit f x) (Num.magBits f x)) s

/-- FRND (R195): the integral value, with the sign of A kept. -/
def frnd (w : View) (v : FVal) : FVal :=
  match v with
  | .fin neg q => .fin neg (Num.qInt (Num.roundNat (mrRnd w.mr) neg q.num.natAbs q.den))
  | v => v

def execFrnd (d a : Byte) (s : State) : Host.Outcome State Fault Refusal :=
  issue (.frnd d a) (rulesDX false false floatMode d a)
    (regsBody fun w => elemFloats w d a a fun _ x _ => roundF w (frnd w x)) s

/-- FSCALE (R195). Beyond 2^600 in either direction the rounded result no longer depends on the exponent. -/
def fscale (w : View) (x : FVal) (n : Int) : Nat :=
  match x with
  | .fin neg q =>
    roundF w (.fin neg (Num.qMul q (Num.qPow2 (max (-600) (min 600 n)))))
  | v => roundF w v

def execFscale (d a b : Byte) (s : State) : Host.Outcome State Fault Refusal :=
  issue (.fscale d a b) (rulesDXY false false (etIn [6]) d a b)
    (regsBody fun w => wr w d fun k =>
      BitVec.ofNat 32 (fscale w (Num.fval fmt32 (floatElem w a k 0)) (rd w b k).toInt)) s

/-- FCLASS (R195): the class of an encoding, as a mask of one bit. -/
def fclass (f : Fmt) (x : Nat) : Nat :=
  let neg := Num.signBit f x
  let m := Num.magBits f x
  let inf := m = f.maxEnc + 1
  if f.maxEnc + 1 < m then (if m / 2 ^ (f.mb - 1) % 2 = 1 then 0x200 else 0x100)
  else if inf then (if neg then 0x001 else 0x080)
  else if m = 0 then (if neg then 0x008 else 0x010)
  else if m < 2 ^ f.mb then (if neg then 0x004 else 0x020)
  else if neg then 0x002 else 0x040

def execFclass (d a : Byte) (s : State) : Host.Outcome State Fault Refusal :=
  issue (.fclass d a) (rulesDX false false floatMode d a)
    (regsBody fun w => elemBits w d a a fun x _ => fclass (etFmt (mrEtype w.mr)) x) s

/-- A correctly rounded function of R196 on each lane's binary32 element. -/
def transRegs (w : View) (d a : Byte) (g : FVal → Nat) : RegFile :=
  wr w d fun k => BitVec.ofNat 32 (Num.flush (mrFlush w.mr) fmt32 (g (Num.fval fmt32 (floatElem w a k 0))))

def execFrcp (d a : Byte) (s : State) : Host.Outcome State Fault Refusal :=
  issue (.frcp d a) (rulesDX false false (etIn [6]) d a) (regsBody fun w => transRegs w d a Num.rcpF) s
def execFrsq (d a : Byte) (s : State) : Host.Outcome State Fault Refusal :=
  issue (.frsq d a) (rulesDX false false (etIn [6]) d a) (regsBody fun w => transRegs w d a (Num.rsqF 0)) s
def execFexp2 (d a : Byte) (s : State) : Host.Outcome State Fault Refusal :=
  issue (.fexp2 d a) (rulesDX false false (etIn [6]) d a) (regsBody fun w => transRegs w d a (Num.exp2F 1)) s
def execFlog2 (d a : Byte) (s : State) : Host.Outcome State Fault Refusal :=
  issue (.flog2 d a) (rulesDX false false (etIn [6]) d a) (regsBody fun w => transRegs w d a (Num.log2F 2)) s
def execFsinpi (d a : Byte) (s : State) : Host.Outcome State Fault Refusal :=
  issue (.fsinpi d a) (rulesDX false false (etIn [6]) d a) (regsBody fun w => transRegs w d a (Num.sinPiF 3)) s

/-- FDOT2 (R197): D + A0·B0 + A1·B1 as one exact sum, rounded once to binary32. The sign of a sum that is zero is that of R194 for
D + A0·B0 and then for that and A1·B1 (log 126). -/
def fdot2 (w : View) (c x y : Word) : Nat :=
  let f := etFmt (mrEtype w.mr)
  let fl := mrFlush w.mr
  let e := fun (z : Word) j => Num.fval f (Num.flush fl f (elemOf 16 (z.setWidth 64) j))
  let m := mrRnd w.mr
  let c := Num.fval fmt32 (Num.flush fl fmt32 c.toNat)
  Num.flush fl fmt32
    (Num.roundTo fmt32 m (Num.fadd m (Num.fadd m c (Num.fmul (e x 0) (e y 0))) (Num.fmul (e x 1) (e y 1))))

def execFdot2 (d a b : Byte) (s : State) : Host.Outcome State Fault Refusal :=
  issue (.fdot2 d a b) (rulesDXY false false (etIn [7, 8]) d a b)
    (regsBody fun w => wordRegs w d a b fun c x y => BitVec.ofNat 32 (fdot2 w c x y)) s

end Sys2Proof.Machine
end

