-- ==== Sys2Proof/Machine/Convert.lean ====
section
/-! DEFINITION. The conversions of row 0x7 (R201 to R219). -/

namespace Sys2Proof.Machine

/-- The formats CVT codes (R210). -/
def cvtFmt (c : Nat) : Fmt :=
  match c with
  | 0 => fmt32
  | 1 => fmt16
  | 2 => fmtBf
  | 3 => fmtE4
  | _ => fmtE5

/-- The fields of CVT's immediate: part, destination and source (R208). -/
def cvtPart (b : Byte) : Nat := b.toNat / 64
def cvtDst (b : Byte) : Nat := b.toNat / 8 % 8
def cvtSrc (b : Byte) : Nat := b.toNat % 8

/-- Elements moved and parts of a CVT (R210). -/
def cvtElems (b : Byte) : Nat := min (32 / (cvtFmt (cvtSrc b)).width) (32 / (cvtFmt (cvtDst b)).width)
def cvtParts (b : Byte) : Nat := max (32 / (cvtFmt (cvtSrc b)).width) (32 / (cvtFmt (cvtDst b)).width) / cvtElems b

/-- The rounding of a conversion, by the width of its result (R201). -/
def cvtRnd (f : Fmt) : Rnd := if 16 ≤ f.width then .ne else .na

/-- A field of `n` bits at bit `lo` replaced. -/
def putField (w : Word) (lo n : Nat) (x : Nat) : Word :=
  let m := BitVec.ofNat 32 ((2 ^ n - 1) * 2 ^ lo)
  (w &&& ~~~m) ||| (BitVec.ofNat 32 (x % 2 ^ n) <<< lo)

/-- One conversion of an encoding, with the flush of R209. -/
def cvtOne (fl : Bool) (src dst : Fmt) (x : Nat) : Nat :=
  Num.flush fl dst (Num.roundTo dst (cvtRnd dst) (Num.fval src (Num.flush fl src x)))

/-- CVT on one lane (R210). -/
def cvtWord (fl : Bool) (b : Byte) (old a : Word) : Word :=
  let src := cvtFmt (cvtSrc b)
  let dst := cvtFmt (cvtDst b)
  let m := cvtElems b
  let narrows := src.width ≥ dst.width
  (List.range m).foldl (fun r j =>
    let js := if narrows then j else cvtPart b * m + j
    let jd := if narrows then cvtPart b * m + j else j
    putField r (jd * dst.width) dst.width (cvtOne fl src dst (elemOf src.width (a.setWidth 64) js))) old

def execCvt (d a b : Byte) (s : State) : Host.Outcome State Fault Refusal :=
  issue (.cvt d a b)
    { legal := fun w => legalDX w d a, mode := fun _ => cvtSrc b ≤ 4 && cvtDst b ≤ 4 && cvtPart b < cvtParts b, regs := [d, a] }
    (regsBody fun w => wordRegs w d a a fun c x _ => cvtWord (mrFlush w.mr) b c x) s

/-- CVTW (R211): two binary32 values packed in the mode's format. -/
def execCvtw (d a b : Byte) (s : State) : Host.Outcome State Fault Refusal :=
  issue (.cvtw d a b) (rulesDXY false false (etIn [7, 8]) d a b)
    (regsBody fun w => wordRegs w d a b fun _ x y =>
      let f := etFmt (mrEtype w.mr)
      BitVec.ofNat 32 (cvtOne (mrFlush w.mr) fmt32 f y.toNat * 2 ^ 16 + cvtOne (mrFlush w.mr) fmt32 f x.toNat)) s

/-- An integer as an exact value; zero is +0. -/
def fvalInt (n : Int) : FVal := .fin (n < 0) (Num.qInt n.natAbs)

/-- CVTI2F (R212): under ETYPE 9 only A is a pair. -/
def execCvti2f (d a : Byte) (s : State) : Host.Outcome State Fault Refusal :=
  issue (.cvti2f d a)
    { legal := fun w => legalDX w d a && pairsOk w.mr [a], mode := etIn [0, 1, 9], regs := [d, a] }
    (regsBody fun w =>
      let et := mrEtype w.mr
      wr w d fun k => BitVec.ofNat 32 (Num.roundTo fmt32 .ne (fvalInt (elemInt (etSigned et) (etBits et) (rdT w a k) 0)))) s

/-- A value as an integer of a type: nearest, clamped, NaN 0 (R212). -/
def toIntSat (sgn : Bool) (b : Nat) (v : FVal) : Nat :=
  match v with
  | .nan => 0
  | .inf neg => wrap b (if neg then loOf sgn b else hiOf sgn b)
  | .fin neg q => wrap b (clampTo sgn b (Num.roundInt .ne neg q))

/-- CVTF2I (R212): under ETYPE 9 only D is a pair. -/
def execCvtf2i (d a : Byte) (s : State) : Host.Outcome State Fault Refusal :=
  issue (.cvtf2i d a)
    { legal := fun w => legalDX w d a && pairsOk w.mr [d], mode := etIn [0, 1, 9], regs := [d, a] }
    (regsBody fun w =>
      let et := mrEtype w.mr
      wrT w d fun k =>
        BitVec.ofNat 64 (toIntSat (etSigned et) (etBits et)
          (Num.fval fmt32 (Num.flush (mrFlush w.mr) fmt32 (rd w a k).toNat)))) s

/-! ## Block-scaled conversions -/

/-- A binary32 operand, flushed as the mode says (R209). -/
def f32In (w : View) (x : Word) : FVal := Num.fval fmt32 (Num.flush (mrFlush w.mr) fmt32 x.toNat)

/-- A binary32 result, flushed as the mode says (R209). -/
def f32Out (w : View) (m : Rnd) (v : FVal) : Word := BitVec.ofNat 32 (Num.flush (mrFlush w.mr) fmt32 (Num.roundTo fmt32 m v))

/-- The coefficients of the NQ4 codebook (R202). -/
def nq4 (i : Nat) : Int :=
  [-127, -98, -77, -60, -45, -32, -20, -9, 0, 10, 22, 35, 50, 67, 90, 127].getD i 0

/-- The magnitude of a value when it is finite. -/
def finMag : FVal → Option Q
  | .fin _ q => some q
  | _ => none

/-- A scale S that is positive and finite. -/
def posScale : FVal → Option Q
  | .fin neg q => if !neg && q.num != 0 then some q else none
  | _ => none

/-- The NQ4 scale of BSCL (R213). -/
def bsclNq4 (s a : FVal) : Nat :=
  match posScale s, finMag a with
  | some sq, some aq =>
    let n := 255 * aq.num.natAbs * sq.den
    let d := aq.den * sq.num.natAbs
    min 255 ((n + d - 1) / d)
  | _, _ => 255

/-- A magnitude times 2^(134 − e), rounded to an integer, ties away (R213, R214). -/
def a8Round (neg : Bool) (q : Q) (e : Nat) : Int :=
  Num.roundInt .na neg (Num.qMul q (Num.qPow2 (134 - (e : Int))))

/-- The A8 exponent of BSCL (R213). -/
def bsclA8 (a : FVal) : Nat :=
  match finMag a with
  | none => 255
  | some q => ((List.range 255).find? fun e => a8Round false q e ≤ 127).getD 254

/-- The format slot of the issuing launch (R33). -/
def slotOf (s : State) (f : Nat) : Slot := (s.launch s.curLaunch).slots.getD f {}

/-- BSCL (R213); a slot of a kind it cannot use is illegal (R35). -/
def execBscl (d a b : Byte) (s : State) : Host.Outcome State Fault Refusal :=
  issue (.bscl d a b)
    { legal := fun w => legalDX w d a
      mode := fun _ => (slotOf s b.toNat).kind == 1 || (slotOf s b.toNat).kind == 2
      regs := [d, a] }
    (regsBody fun w => wordRegs w d a a fun c x _ =>
      let m := Num.magBits fmt32 x.toNat
      BitVec.ofNat 32 (if (slotOf s b.toNat).kind = 1 then bsclNq4 (f32In w c) (f32In w (BitVec.ofNat 32 m))
        else bsclA8 (f32In w (BitVec.ofNat 32 m)))) s

/-- CVTR on one lane (R214). -/
def cvtr (w : View) (a b : Word) : Word :=
  let e := b.toNat % 256
  if e = 255 then 0
  else
    match f32In w a with
    | .nan => 0
    | .inf neg => BitVec.ofInt 32 (if neg then -127 else 127)
    | .fin neg q => BitVec.ofInt 32 (min 127 (max (-127) (a8Round neg q e)))

def execCvtr (d a b : Byte) (s : State) : Host.Outcome State Fault Refusal :=
  issue (.cvtr d a b) (rulesDXY false false anyMode d a b) (regsBody fun w => wordRegs w d a b fun _ x y => cvtr w x y) s

/-- The index of the codebook nearest to `t`; on a tie the larger magnitude (R215). -/
def nearestNq4 (t : Q) : Nat :=
  (List.range 16).foldl (fun best i =>
    let dist := fun j => Num.qAbs (Num.qAdd (Num.qInt (nq4 j)) (Num.qNeg t))
    if Num.qLt (dist i) (dist best) || (Num.qLe (dist i) (dist best) && (nq4 best).natAbs < (nq4 i).natAbs) then i else best) 0

/-- QENC on one lane (R215). -/
def qenc (w : View) (c a b : Word) : Word :=
  let q := c.toNat % 256
  BitVec.ofNat 32 <|
    match posScale (f32In w b), f32In w a with
    | none, _ => 8
    | _, .nan => 8
    | some sq, x =>
      if q = 0 then 8
      else
        match x with
        | .inf neg => if neg then 0 else 15
        | .fin neg m =>
          nearestNq4 ⟨(if neg then -1 else 1) * (127 * 255 * m.num * sq.den), m.den * (sq.num.natAbs * q)⟩
        | .nan => 8

def execQenc (d a b : Byte) (s : State) : Host.Outcome State Fault Refusal :=
  issue (.qenc d a b) (rulesDXY false false anyMode d a b) (regsBody fun w => wordRegs w d a b fun c x y => qenc w c x y) s

/-- QDEC on one lane (R216). -/
def qdec (w : View) (a b : Word) : Word :=
  let c := nq4 (a.toNat % 16)
  let q := a.toNat / 256 % 256
  match f32In w b with
  | .nan => f32Out w .ne .nan
  | .inf neg => if (q : Int) * c = 0 then f32Out w .ne .nan else f32Out w .ne (.inf (neg != (c < 0)))
  | .fin neg m =>
    if (q : Int) * c * m.num = 0 then 0
    else f32Out w .ne (.fin (neg != (c < 0)) ⟨m.num * q * c.natAbs, m.den * 32385⟩)

def execQdec (d a b : Byte) (s : State) : Host.Outcome State Fault Refusal :=
  issue (.qdec d a b) (rulesDXY false false anyMode d a b) (regsBody fun w => wordRegs w d a b fun _ x y => qdec w x y) s

/-! ## Fields within a word (R217) -/

/-- What R98 and R217 need of a PK or UPK of `n`-bit fields. -/
def rulesPk (n : Nat) (d a b : Byte) : Rules where
  legal := fun w => legalDX w d a
  mode := fun w => etIn [0, 1] w && b.toNat < 32 / n
  regs := [d, a]

def pkRegs (n : Nat) (w : View) (d a b : Byte) : RegFile :=
  let sg := etSigned (mrEtype w.mr)
  wordRegs w d a a fun c x _ =>
    putField c (n * b.toNat) n (narrow (mrSat w.mr) sg n (if sg then x.toInt else (x.toNat : Int)))

def upkRegs (n : Nat) (w : View) (d a b : Byte) : RegFile :=
  wordRegs w d a a fun _ x _ =>
    BitVec.ofInt 32 (elemInt (etSigned (mrEtype w.mr)) n (x.setWidth 64) b.toNat)

def execPkn (d a b : Byte) (s : State) : Host.Outcome State Fault Refusal :=
  issue (.pkn d a b) (rulesPk 4 d a b) (regsBody fun w => pkRegs 4 w d a b) s
def execUpkn (d a b : Byte) (s : State) : Host.Outcome State Fault Refusal :=
  issue (.upkn d a b) (rulesPk 4 d a b) (regsBody fun w => upkRegs 4 w d a b) s
def execPkb (d a b : Byte) (s : State) : Host.Outcome State Fault Refusal :=
  issue (.pkb d a b) (rulesPk 8 d a b) (regsBody fun w => pkRegs 8 w d a b) s
def execUpkb (d a b : Byte) (s : State) : Host.Outcome State Fault Refusal :=
  issue (.upkb d a b) (rulesPk 8 d a b) (regsBody fun w => upkRegs 8 w d a b) s
def execPkh (d a b : Byte) (s : State) : Host.Outcome State Fault Refusal :=
  issue (.pkh d a b) (rulesPk 16 d a b) (regsBody fun w => pkRegs 16 w d a b) s
def execUpkh (d a b : Byte) (s : State) : Host.Outcome State Fault Refusal :=
  issue (.upkh d a b) (rulesPk 16 d a b) (regsBody fun w => upkRegs 16 w d a b) s

/-- REDAMAX (R218): the magnitudes of binary32 order as their encodings. -/
def redamax (w : View) (a : Byte) : Word :=
  let ms := (runLanes w).map fun k => Num.magBits fmt32 (Num.flush (mrFlush w.mr) fmt32 (rd w a k).toNat)
  if ms.any fun m => 0x7F800000 < m then 0x7FC00000 else BitVec.ofNat 32 (ms.foldl max 0)

def execRedamax (d a : Byte) (s : State) : Host.Outcome State Fault Refusal :=
  issue (.redamax d a) { legal := fun _ => isS d && isV a, regs := [d, a] }
    (regsBody fun w => wr w d fun _ => redamax w a) s

/-- The binary32 encoding with the greater value; of two zeros of different sign a free one is kept (R219, log 12). -/
def fexpdMax (ix : Nat) (x y : Nat) : Nat :=
  let a := Num.fval fmt32 x
  let b := Num.fval fmt32 y
  if Num.feq a b && x != y then (if Config.freeZeroSign ix then x else y)
  else if Num.fless false a b then y else x

/-- An enclosure of c · 2^x for a positive magnitude `c`. The lower end is kept positive: below 2^−400 every positive
term gives the same rounded sum. -/
def scaleEncl (c : Q) (x : Q) : Q × Q :=
  let e := Num.exp2Encl x
  (Num.qMul c (if e.1.num ≤ 0 then Num.qPow2 (-1400) else e.1), Num.qMul c e.2)

/-- The term `c · 2^(a − b)` of R219 as an interval: exact infinities and zeros as values, else two rationals. -/
inductive Term where
  | val (v : FVal)
  | encl (neg : Bool) (lo hi : Q)
  deriving DecidableEq, Repr

def fexpTerm (c a b : FVal) : Term :=
  match a, b with
  | .fin na qa, .fin nb qb =>
    let x := Num.qAdd (Num.signedQ na qa) (Num.qNeg (Num.signedQ nb qb))
    match c with
    | .fin nc qc => if qc.num = 0 || x.num = 0 then .val (.fin nc qc) else
      let e := scaleEncl qc x
      .encl nc e.1 e.2
    | v => .val v
  | _, _ => .val (.fin false (Num.qInt 0))

/-- The two ends of a term as values. -/
def Term.lo : Term → FVal
  | .val v => v
  | .encl neg l h => if neg then .fin true h else .fin false l
def Term.hi : Term → FVal
  | .val v => v
  | .encl neg l h => if neg then .fin true l else .fin false h

/-- FEXPD (R219) on encodings: the new maximum and sum; a sum of infinities of opposite sign is the canonical NaN (log 135), and one that
is zero has the sign of R194 (log 126). -/
def fexpd (ix : Nat) (m s x w : Nat) : Nat × Nat :=
  let v := Num.fval fmt32
  if Num.isNan (v m) || Num.isNan (v s) || Num.isNan (v x) || Num.isNan (v w) then (fmt32.nan, fmt32.nan)
  else if v m = .inf false || v x = .inf false then (0x7F800000, fmt32.nan)
  else
    let m' := fexpdMax ix m x
    let t1 := fexpTerm (v s) (v m) (v m')
    let t2 := fexpTerm (v w) (v x) (v m')
    let lo := Num.roundTo fmt32 .ne (Num.fadd .ne t1.lo t2.lo)
    let hi := Num.roundTo fmt32 .ne (Num.fadd .ne t1.hi t2.hi)
    (m', if lo = hi || Config.hardCase 4 then lo else hi)

/-- FEXPD (R219, R4): a pair D, or zero, whose write is discarded (R170; log 23). -/
def execFexpd (d a b : Byte) (s : State) : Host.Outcome State Fault Refusal :=
  issue (.fexpd d a b)
    { legal := fun w => legalDXY w d a b && evenReg d, regs := [d, a, b] }
    (regsBody fun w =>
      let fl := fun (z : Word) => Num.flush (mrFlush w.mr) fmt32 z.toNat
      wr64 w d fun k =>
        let r := fexpd s.freeIx (fl (rd w d k)) (fl ((rd64 w d k).extractLsb' 32 32)) (fl (rd w a k)) (fl (rd w b k))
        BitVec.ofNat 64 (Num.flush (mrFlush w.mr) fmt32 r.2 * 2 ^ 32 + Num.flush (mrFlush w.mr) fmt32 r.1)) s

end Sys2Proof.Machine
end

