-- ==== Sys2Proof/Machine/WideMul.lean ====
section
/-! DEFINITION. The Wide Multipliers: configuration, packing, products and their windows, digits and forms, streams,
gangs and status (R284 to R319). -/

namespace Sys2Proof.Machine

/-! ## Digits and operand strings -/

/-- n and N of a configuration (R284). -/
def WmConfig.n (c : WmConfig) : Nat := 2048 / c.w
def WmConfig.digits (c : WmConfig) : Nat := 4096 / c.w

/-- Digit `e` of an accumulator in slots of `w` bits (R10, R207). -/
def digit (w : Nat) (a : BitVec 4096) (e : Nat) : Int := (a.extractLsb' (e * w) w).toInt

/-- Digit `e` written. -/
def setDigit (w : Nat) (a : BitVec 4096) (e : Nat) (v : Int) : BitVec 4096 :=
  (a &&& ~~~(BitVec.ofNat 4096 (2 ^ w - 1) <<< (e * w))) ||| ((BitVec.ofInt w v).setWidth 4096 <<< (e * w))

/-- The spare bits written as 0 (R207). -/
def clearSpare (w : Nat) (a : BitVec 4096) : BitVec 4096 := a &&& BitVec.ofNat 4096 (2 ^ (4096 / w * w) - 1)

/-- The operand string of a vector register: lanes 0 to 63, lanes beyond the team zero (R285). -/
def operand (w : View) (x : Byte) : BitVec 2048 :=
  BitVec.ofNat 2048 (packElems 32 (min 64 w.nl) fun k => (rd w x k).toNat)

/-- The coefficients of a string, `c` bits in slots of `w` (R285). -/
def coeffs (w c : Nat) (o : BitVec 2048) : List Int := (List.range (2048 / w)).map fun k => (o.extractLsb' (k * w) c).toInt

/-- The sum of products of two lists. -/
def dot : List Int → List Int → Int
  | a :: r, b :: q => a * b + dot r q
  | _, _ => 0

/-- P(d) of R288. -/
def pairsAt (n d : Nat) : Nat := min d (2 * n - 2 - d) + 1

/-- p_d of R286. -/
def product (n : Nat) (l s : List Int) (d : Nat) : Int :=
  let lo := d - (n - 1)
  let m := pairsAt n d
  dot ((l.drop lo).take m) (((s.drop (d + 1 - lo - m)).take m).reverse)

/-- The pairs of a window times the passes of the widths, and the cost in cycles (R288). -/
def WmConfig.units (c : WmConfig) : Nat :=
  ((List.range c.cnt).foldl (fun k j => k + pairsAt c.n (c.lo + j)) 0) * ((c.cL + 8) / 9) * ((c.cS + 8) / 9)
def WmConfig.cost (c : WmConfig) : Nat := (c.units + 1023) / 1024

/-! ## Accumulators -/

def State.acc (s : State) (t n : Nat) : BitVec 4096 := sget 0 ((s.harnessOf t).parts.getD (s.team t).info.part {}).acc n
def State.form (s : State) (t n : Nat) : Bool := ((s.harnessOf t).parts.getD (s.team t).info.part {}).form.getLsbD n

/-- An accumulator of the team's partition and its form bit written; true is binary. -/
def State.putAcc (s : State) (t n : Nat) (a : BitVec 4096) (binary : Bool) : State :=
  let i := (s.team t).info
  let h := s.harness i.harness
  let p := h.parts.getD i.part {}
  let bit := BitVec.twoPow 16 n
  let p' : HPart := { acc := sset 0 p.acc n a, form := if binary then p.form ||| bit else p.form &&& ~~~bit }
  s.putHarness i.harness { h with parts := h.parts.set i.part p' }

/-- A WM of a team's partition occupied by an operation (R289). -/
def occupy (s : State) (t wm id : Nat) : State :=
  let x := s.team t
  let c := s.core x.info.core
  let p := c.parts.getD x.info.part {}
  s.putCore x.info.core { c with parts := c.parts.set x.info.part { p with busy := p.busy.set wm (some id) } }

/-- A WM operation in flight: M, the marks on the registers that it writes, the occupancy and the event that ends it (R89, R90,
R289). -/
def startWm (s : State) (t : Nat) (regs : List Byte) (wm : Nat) : State :=
  let id := s.nextId
  let x := s.team t
  let o : PendOp := { id := id, party := .team t, kind := .wm, part := x.info.part, pc := x.path.pc, wm := some wm }
  let s : State := { s.fresh with ops := s.ops ++ [o] }
  let s := s.putTeam t { x with
    deps := { x.deps with m := x.deps.m + 1, marks := x.deps.marks ++ regs.map fun r => ⟨r, x.path.pc, id⟩ } }
  (occupy s t wm id).postEnd o

/-- An instruction that occupies its WM and counts in no counter: EXTR and ACLR (R89, R319). -/
def holdWm (s : State) (t wm : Nat) : State :=
  let id := s.nextId
  let x := s.team t
  let o : PendOp := { id := id, party := .team t, kind := .hold, part := x.info.part, pc := x.path.pc, wm := some wm }
  let s : State := { s.fresh with ops := s.ops ++ [o] }
  (occupy s t wm id).postEnd o

/-- A wave of shared memory that acts two cycles after its instruction, of the operation that starts next (R315). -/
def laterWave (s : State) (acts : List Act) (image : Option (Nat × Bool × Nat)) : State :=
  let t := s.curTeam
  let x : Late :=
    { key := passKey s t (s.time + 2), id := s.nextId, party := .team t, path := s.curPath, cycle := s.time, issued := s.curIssued
      acts := acts, image := image }
  { s with late := lateIn x s.late }

/-- WM_OPERATION_COMPLETE (R308, R319). -/
def execWmOperationComplete (s : State) : Host.Outcome State Fault Refusal :=
  .next <|
    match s.ops.find? fun o => o.id == s.ev.id && (o.kind == .wm || o.kind == .hold) && !s.hasLate o.id with
    | none => s
    | some o =>
      let s' := endOp s o
      match o.party, o.wm with
      | .team t, some wm =>
        let i := (s.team t).info
        let c := s'.core i.core
        let p := c.parts.getD o.part {}
        if p.busy.getD wm none = some o.id then
          s'.putCore i.core { c with parts := c.parts.set o.part { p with busy := p.busy.set wm none } }
        else s'
      | _, _ => s'

/-- What R98 needs of a WM instruction (R300). -/
def rulesWm (regs : List Byte) (ok : Bool) (passes : Option Nat) : Rules where
  legal := fun _ => ok
  regs := regs
  passes := passes

/-- A WM instruction has no effect on a path with no running lane (R285). -/
def wmBody (f : View → State → Eff) : View → State → Eff := fun w s => if w.run = 0 then .done s else f w s

/-- The configuration, or the invalid-guard fault (R301). -/
def withCfg (s : State) (f : WmConfig → Eff) : Eff :=
  match s.me.wm.cfg with
  | some c => f c
  | none => .fault 0x1A 0 0

/-! ## GUARD -/

/-- The configuration that two words give (R302). -/
def guardOf (a b : Word) : WmConfig where
  w := (a.extractLsb' 0 8).toNat
  cL := (a.extractLsb' 8 8).toNat
  cS := (a.extractLsb' 16 8).toNat
  fr := (a.extractLsb' 24 3).toNat
  lo := (b.extractLsb' 0 10).toNat
  cnt := (b.extractLsb' 10 10).toNat
  base := (b.extractLsb' 20 10).toNat

/-- Check 2 of R302. -/
def WmConfig.valid (c : WmConfig) : Bool :=
  [8, 12, 16, 20, 24, 28, 32].contains c.w && 2 ≤ c.cL && c.cL ≤ 18 && 2 ≤ c.cS && c.cS ≤ 18 && c.cL + c.cS ≤ c.w &&
    c.cnt != 0 && c.lo + c.cnt ≤ 2 * c.n - 1 && c.base + c.cnt ≤ c.digits

/-- GUARD (R302). -/
def execGuard (a b : Byte) (s : State) : Host.Outcome State Fault Refusal :=
  issue (.guard a b) (rulesWm [a, b] (isS a && isS b) (some 1))
    (wmBody fun w s =>
      let x := rd w a 0
      let y := rd w b 0
      let c := guardOf x y
      if x.extractLsb' 27 5 != 0 || y.extractLsb' 30 2 != 0 || (slotOf s c.fr).kind = 0 then illegal (.guard a b) s
      else if !c.valid then .fault 0x1A 0 0
      else .done (s.putMe { s.me with wm := { s.me.wm with cfg := some c } })) s

/-! ## The PACK family -/

/-- A coefficient of a slot: the slot and its value (R303). -/
structure Coef where
  slot : Nat
  val  : Int
  deriving DecidableEq, Repr

/-- The string of coefficients in slots of `w` bits (R303). -/
def packString (w : Nat) (cs : List Coef) : BitVec 2048 :=
  cs.foldl (fun o c => o ||| ((BitVec.ofInt w c.val).setWidth 2048 <<< (c.slot * w))) 0

/-- The lowest slot whose coefficient does not fit `c` bits (R303). -/
def outOfRange (c : Nat) (cs : List Coef) : Option Coef :=
  cs.foldl (fun b x =>
    if -(2 ^ (c - 1) : Int) ≤ x.val && x.val ≤ 2 ^ (c - 1) - 1 then b
    else match b with
      | some y => if x.slot < y.slot then some x else b
      | none => some x) none

/-- A string written to the lanes 0 to 63 of a register, whatever the mask; `skip` sets its mark (R303, R298). -/
def writeString (r : RegFile) (nl n : Nat) (o : BitVec 2048) (skip : Bool) : RegFile :=
  let r := putV r n (List.range (min 64 nl)) fun k => o.extractLsb' (32 * k) 32
  if skip then { r with skip := r.skip ||| BitVec.twoPow 192 n } else r

/-- The word of a source lane, 0 when it does not run (R303). -/
def srcWord (w : View) (x : Byte) (k : Nat) : Word := if k < w.nl && w.run.getLsbD k then rd w x k else 0

/-- Coefficients checked against `c` bits and written to `d` (R303). -/
def packInto (w : View) (s : State) (d : Byte) (width c : Nat) (cs : List Coef) : Eff :=
  match outOfRange c cs with
  | some x => .fault 0x19 (w32 x.slot) (BitVec.ofInt 32 x.val)
  | none => .done (s.putRegs (writeString w.regs w.nl d.toNat (packString width cs) false))

/-- Passes of a member of the family whose source lanes end below `n` (R303). -/
def packPasses (s : State) (n : Nat) : Option Nat := some (min s.me.info.grp ((max 64 n + 31) / 32))

/-- Slots of a team's configuration. -/
def cfgSlots (s : State) : Nat := (s.me.wm.cfg.map (·.n)).getD 64

def execPack (d a : Byte) (s : State) : Host.Outcome State Fault Refusal :=
  issue (.pack d a) (rulesWm [d, a] (isV d && isV a) (packPasses s (cfgSlots s)))
    (wmBody fun w s => withCfg s fun c =>
      packInto w s d c.w c.cL ((List.range c.n).map fun k => ⟨k, (srcWord w a k).toInt⟩)) s

def execPackr (d a : Byte) (s : State) : Host.Outcome State Fault Refusal :=
  issue (.packr d a) (rulesWm [d, a] (isV d && isV a) (packPasses s (cfgSlots s)))
    (wmBody fun w s => withCfg s fun c =>
      packInto w s d c.w c.cS ((List.range c.n).map fun k => ⟨c.n - 1 - k, (srcWord w a k).toInt⟩)) s

/-- The source lanes of PACKS: ceil(n/t) of them (R304). -/
def packsLanes (s : State) (b : Byte) : Nat :=
  let t := ((rd s.me.view b 0).extractLsb' 0 8).toNat
  if t = 0 then cfgSlots s else (cfgSlots s + t - 1) / t

/-- PACKS (R304): lane k fills slot k·t. -/
def execPacks (d a b : Byte) (s : State) : Host.Outcome State Fault Refusal :=
  issue (.packs d a b) (rulesWm [d, a, b] (isV d && isV a && isS b) (packPasses s (packsLanes s b)))
    (wmBody fun w s => withCfg s fun c =>
      let v := rd w b 0
      let t := (v.extractLsb' 0 8).toNat
      if t = 0 || v.extractLsb' 8 24 != 0 then illegal (.packs d a b) s
      else packInto w s d c.w c.cS ((List.range ((c.n + t - 1) / t)).map fun k => ⟨k * t, (srcWord w a k).toInt⟩)) s

/-- The predictor of R298. -/
def predictSkip (t : Int) (es : Int) (q e : Nat) : Bool :=
  t != -128 && (q = 0 || (e != 0xFF && es + q.log2 - 8 + ((e : Int) - 127) < t))

/-- PACKQ (R305): the missing configuration, cause 0x1A, comes before a slot that is not of KIND 1 (log 92). -/
def execPackq (d a b : Byte) (s : State) : Host.Outcome State Fault Refusal :=
  issue (.packq d a b) (rulesWm [d, a, b] (isV d && isV a && isS b) (packPasses s 64))
    (wmBody fun w s => withCfg s fun c =>
      let v := rd w b 0
      let blk := (v.extractLsb' 27 3).toNat
      let f := slotOf s (v.extractLsb' 24 3).toNat
      if v.extractLsb' 30 2 != 0 || f.kind != 1 then illegal (.packq d a b) s
      else if predictSkip f.thr (v.extractLsb' 16 8).toInt (v.extractLsb' 0 8).toNat (v.extractLsb' 8 8).toNat then
        let x := s.me
        .done (s.putMe { x with
          regs := writeString w.regs w.nl d.toNat 0 true, wm := { x.wm with skips := x.wm.skips + 1 } })
      else
        packInto w s d c.w c.cL ((List.range 64).map fun e =>
          let k := 8 * blk + e / 8
          ⟨e, if k < w.nl && w.run.getLsbD k then nq4 ((rd w a k).extractLsb' (4 * (e % 8)) 4).toNat else 0⟩)) s

/-- PACKA (R306). -/
def execPacka (d a b : Byte) (s : State) : Host.Outcome State Fault Refusal :=
  issue (.packa d a b) (rulesWm [d, a, b] (isV d && isV a && isSZ b) (packPasses s 64))
    (wmBody fun w s => withCfg s fun c =>
      let v := rd w b 0
      let e0 := (v.extractLsb' 16 8).toNat
      let m0 := (v.extractLsb' 0 8).toNat
      let m := if m0 = 0 then c.n else m0
      if v.extractLsb' 24 8 != 0 || v.extractLsb' 9 7 != 0 || c.n < m || 255 < e0 + m - 1 then illegal (.packa d a b) s
      else
        packInto w s d c.w c.cS ((List.range m).map fun j =>
          let e := e0 + j
          ⟨if v.getLsbD 8 then m - 1 - j else j, ((srcWord w a (e / 4)).extractLsb' (8 * (e % 4)) 8).toInt⟩)) s

/-! ## Streams -/

/-- The row at a position. -/
def streamRow (s : State) (h n pos : Nat) : BitVec 2048 :=
  match (s.harness h).stream n with
  | some x => BitVec.ofNat 2048 (leNat (memBytes (s.harness h).shared (x.base + 256 * (pos % x.rows)) 256))
  | none => 0

/-- Rows that every subscriber has passed are freed in order, each with an arrival on the free slot (R295). -/
def freeRows (h n : Nat) : Nat → State → State
  | 0, s => s
  | k + 1, s =>
    match (s.harness h).stream n, lowest (positions s h n) with
    | some x, some m =>
      if x.freed < m then
        freeRows h n k (slotUpdate (s.putHarness h ((s.harness h).putStream n { x with freed := x.freed + 1 })) h x.free true 0 none)
      else s
    | _, _ => s

/-- How many rows may be freed now. -/
def freeable (s : State) (h n : Nat) : Nat :=
  match (s.harness h).stream n, lowest (positions s h n) with
  | some x, some m => m - x.freed
  | _, _ => 0

/-- A team's position advanced by one row (R294, R295). -/
def advance (s : State) (t : Nat) : State :=
  let x := s.team t
  match x.wm.sub with
  | some (n, p) =>
    let s := s.putTeam t { x with wm := { x.wm with sub := some (n, p + 1) } }
    freeRows x.info.harness n (freeable s x.info.harness n) s
  | none => s

/-- STRM (R316). -/
def execStrm (d a : Byte) (s : State) : Host.Outcome State Fault Refusal :=
  issue (.strm d a) { rulesWm [a] (isS a) (some 1) with mode := fun _ => d.toNat < 8 }
    (wmBody fun w s =>
      let p := (rd w a 0).toNat
      match descFault' p with
      | some e => e
      | none =>
        let h := s.curHarness
        let m := (s.harness h).shared
        let base := (memWord m p).toNat
        let v := memWord m (p + 4)
        let win := (v.extractLsb' 16 16).toNat
        let rows := (v.extractLsb' 0 16).toNat
        let fill := (memWord m (p + 8)).toNat
        let free := (memWord m (p + 12)).toNat
        if base % 256 != 0 then .fault 0x03 (w32 base) 0
        else if fill % 16 != 0 then .fault 0x03 (w32 fill) 0
        else if free % 16 != 0 then .fault 0x03 (w32 free) 0
        else if Config.sharedBytes < base + 256 * rows then .fault 0x04 (w32 base) 0
        else if Config.sharedBytes ≤ fill then .fault 0x04 (w32 fill) 0
        else if Config.sharedBytes ≤ free then .fault 0x04 (w32 free) 0
        else if rows = 0 || 6144 < rows || win = 0 || rows < win || positions s h d.toNat != [] then illegal (.strm d a) s
        else
          .done (s.putHarness h ((s.harness h).putStream d.toNat
            { base := base, rows := rows, win := win, fill := fill, free := free, filled := 0, freed := 0 }))) s
where
  /-- The checks of the descriptor's address. -/
  descFault' (p : Nat) : Option Eff :=
    if p % 16 != 0 then some (.fault 0x03 (w32 p) 0)
    else if Config.sharedBytes < p + 16 then some (.fault 0x04 (w32 p) 0)
    else none

/-- SUBS (R317, R295). -/
def execSubs (d : Byte) (s : State) : Host.Outcome State Fault Refusal :=
  issue (.subs d) { rulesWm [] true (some 1) with mode := fun _ => d.toNat < 8 }
    (wmBody fun _ s =>
      match (s.harness s.curHarness).stream d.toNat, s.me.wm.sub with
      | some x, none => .done (s.putMe { s.me with wm := { s.me.wm with sub := some (d.toNat, x.freed) } })
      | _, _ => illegal (.subs d) s) s

/-- UNSUBS (R317, R295). -/
def execUnsubs (s : State) : Host.Outcome State Fault Refusal :=
  issue .unsubs (rulesWm [] true (some 1))
    (wmBody fun _ s =>
      match s.me.wm.sub with
      | some (n, _) =>
        let h := s.curHarness
        let s := s.putMe { s.me with wm := { s.me.wm with sub := none } }
        .done (freeRows h n (freeable s h n) s)
      | none => .done s) s

/-! ## Multiplying -/

/-- The exact digits of the window after the product (R307). -/
def windowSums (c : WmConfig) (a : BitVec 4096) (lop sop : BitVec 2048) : List Int :=
  let l := coeffs c.w c.cL lop
  let m := coeffs c.w c.cS sop
  (List.range c.cnt).map fun j => digit c.w a (c.base + j) + product c.n l m (c.lo + j)

/-- A sum that does not fit its digit (R307). -/
def digitFits (w : Nat) (t : Int) : Bool := -(2 ^ (w - 1) : Int) ≤ t && t ≤ 2 ^ (w - 1) - 1

/-- What a relaxed WMUL of team `t` writes for an exact digit: any low two bits (R299). -/
def relaxDigit (s : State) (t d : Nat) (v : Int) : Int := v / 4 * 4 + (Config.freeLow s.freeIx t d).toNat

/-- The sums written into the window by a multiply of team `t` (R307, R299). -/
def writeWindow (s : State) (t : Nat) (c : WmConfig) (rlx : Bool) (a : BitVec 4096) (ts : List Int) : BitVec 4096 :=
  clearSpare c.w ((List.range ts.length).foldl (fun a j =>
    let v := ts.getD j 0
    setDigit c.w a (c.base + j) (if rlx then relaxDigit s t j v else v)) a)

/-- The first digit of the window whose sum does not fit (R307). -/
def overflowAt (c : WmConfig) (ts : List Int) : Option Nat :=
  (List.range ts.length).find? fun j => !digitFits c.w (ts.getD j 0)

/-- The work of a multiply of team `t` that issues: its pair units and its WM credit, whether or not a digit then overflows
(R288, R436, R441). -/
def countWork (s : State) (t : Nat) (c : WmConfig) : State :=
  let i := (s.team t).info
  let h := s.harness i.harness
  let s := s.putHarness i.harness { h with
    pairs := h.pairs.set i.part (h.pairs.getD i.part 0 + BitVec.ofNat 64 c.units) }
  let k := s.core i.core
  let p := k.parts.getD i.part {}
  if (s.func (s.fnOf t)).wmw = 0 then s
  else s.putCore i.core { k with parts := k.parts.set i.part { p with credit := p.credit - 32 * c.cost } }

/-- The product added into the accumulator of team `t`, or on overflow the accumulator's digit (R307, log 16). -/
def multiply (s : State) (t n : Nat) (c : WmConfig) (lop sop : BitVec 2048) : Except Nat State :=
  let a := s.acc t n
  let ts := windowSums c a lop sop
  match overflowAt c ts with
  | some j => .error (c.base + j)
  | none =>
    let rlx := ((s.launchOf t).slots.getD c.fr {}).rlx
    .ok (startWm (s.putAcc t n (writeWindow s t c rlx a ts) false) t [BitVec.ofNat 8 (0xF0 + n)] (n / 2))

/-- The long operand of a team: from its latch when that holds register `a`, else from the register; with its skip mark. -/
def longOf (s : State) (t : Nat) (a : Byte) : BitVec 2048 × Bool :=
  let x := s.team t
  match x.wm.latch with
  | some l => if l.reg = a.toNat then (l.data, l.skip) else (operand x.view a, x.regs.skip.getLsbD a.toNat)
  | none => (operand x.view a, x.regs.skip.getLsbD a.toNat)

/-- The short operand of a team (R307, R294). -/
def shortOf (s : State) (t : Nat) (b : Byte) : BitVec 2048 :=
  let x := s.team t
  match isStrm b, x.wm.sub with
  | true, some (n, p) => streamRow s x.info.harness n p
  | _, _ => operand x.view b

/-- The latch after a multiply with long operand `a` (R307). -/
def latchAfter (s : State) (t : Nat) (keep : Bool) (a : Byte) (o : BitVec 2048 × Bool) : State :=
  let x := s.team t
  let new : Option Latch :=
    if keep then some { reg := a.toNat, data := o.1, skip := o.2 }
    else match x.wm.latch with
      | some l => if l.reg = a.toNat then none else some l
      | none => none
  s.putTeam t { x with wm := { x.wm with latch := new } }

/-- The guard-overflow fault of a team, with OVF set (R307, R318). -/
def overflowFault (s : State) (t d : Nat) : State :=
  let x := s.team t
  teamFault (s.putTeam t { x with wm := { x.wm with ovf := true } }) t 0x18 (w32 d) 0

/-- The checks of R307 before the operands are read, and the wait for a row of the stream (R294). -/
def mulChecks (i : Instr) (s : State) (d b : Byte) : Option Eff :=
  let x := s.me
  if x.wm.cfg.isNone then some (.fault 0x1A 0 0)
  else if s.form s.curTeam (accNo d) then some (illegal i s)
  else if isStrm b then
    match x.wm.sub with
    | none => some (illegal i s)
    | some (n, p) => if rowReady s x.info.harness n p then none else some (.wait s .retry)
  else none

/-- WMUL and WMULK (R307); one that overflows has occupied its WM, and counts in no counter (R9, R289). -/
def mulBody (i : Instr) (keep : Bool) (d a b : Byte) (_w : View) (s : State) : Eff :=
  match mulChecks i s d b, s.me.wm.cfg with
  | some e, _ => e
  | none, none => .fault 0x1A 0 0
  | none, some c =>
    let t := s.curTeam
    let o := longOf s t a
    let s := if o.2 then s else countWork s t c
    let res := if o.2 then .ok s else multiply s t (accNo d) c o.1 (shortOf s t b)
    match res with
    | .error k => .stop (overflowFault (holdWm s t (accNo d / 2)) t k)
    | .ok s =>
      let s := if isStrm b then advance s t else s
      .done (latchAfter s t keep a o)

/-- The operand bytes of the four multiplies (R300). -/
def mulLegal (d a b : Byte) : Bool := isAcc d && isV a && (isV b || isStrm b)

def execWmul (d a b : Byte) (s : State) : Host.Outcome State Fault Refusal :=
  issue (.wmul d a b) (rulesWm [d, a, b] (mulLegal d a b) (some 1)) (wmBody (mulBody (.wmul d a b) false d a b)) s
def execWmulk (d a b : Byte) (s : State) : Host.Outcome State Fault Refusal :=
  issue (.wmulk d a b) (rulesWm [d, a, b] (mulLegal d a b) (some 1)) (wmBody (mulBody (.wmulk d a b) true d a b)) s

/-! ## Gangs -/

/-- A member's part of a round that issues, its instruction `i` with it (R297, R309): overflow faults at its own instruction; a
held member goes on at its next word, as the one whose arrival completes the round, `t0`, does by itself. -/
def memberPart (i : Instr) (t0 : Nat) (c : WmConfig) (n : Nat) (o : BitVec 2048 × Bool) (s0 : State) (m : Nat × Byte × Byte) :
    State × List Nat :=
  let t := m.1
  let s := if o.2 then s0 else countWork s0 t c
  let res := if o.2 then .ok s else multiply s t n c o.1 (shortOf s t m.2.2)
  match res with
  | .error k =>
    let s := if t = t0 then s else wake s t (s.team t).flow.path .retry
    (overflowFault (holdWm s t (n / 2)) t k, [t])
  | .ok s =>
    let s := if isStrm m.2.2 then advance s t else s
    (if t = t0 then s else fallThrough i { passes := some 1 } s0 t (s0.team t).view s, [])

/-- The parts of all members in turn. The teams that faulted. -/
def memberParts (i : Instr) (t0 : Nat) (c : WmConfig) (n : Nat) (o : BitVec 2048 × Bool) :
    State → List (Nat × Byte × Byte) → State × List Nat
  | s, [] => (s, [])
  | s, m :: r =>
    let (s, f) := memberPart i t0 c n o s m
    let (s, g) := memberParts i t0 c n o s r
    (s, f ++ g)

/-- The round issues on every member (R297): the leader's long operand, its latch, and the rendezvous ended. -/
def issueRound (i : Instr) (s : State) (t h : Nat) (g : BitVec 13) (keep : Bool) (n : Nat) (c : WmConfig)
    (ms : List (Nat × Byte × Byte)) : Eff :=
  let lead := (gangTeams s h g).headD t
  let la := ((ms.find? fun m => m.1 == lead).map fun m => m.2.1).getD 0
  let o := longOf s lead la
  let s := s.putHarness h { s.harness h with gangs := (s.harness h).gangs.filter (·.gang != g) }
  let (s, bad) := memberParts i t c n o s ms
  let s := if bad.contains lead then s else latchAfter s lead keep la o
  if bad.contains t then .stop s else .done s

/-- Whether a team's instruction falls through beyond the code, which it does at its arrival already (R105, log 14). -/
def leavesCode (s : State) (t : Nat) : Bool :=
  let p := (s.team t).path
  let again : Bool := match p.mac with
    | some (ws, j) => !macroEnds ws (j + 1)
    | none => false
  !again && codeWords (s.launchOf t) ≤ p.pc + 1

/-- WMULG and WMULGK (R296, R309); a member's own checks come before those of the rendezvous (log 123). -/
def gangBody (i : Instr) (keep : Bool) (d a b : Byte) (_w : View) (s : State) : Eff :=
  let t := s.curTeam
  let x := s.me
  let h := x.info.harness
  let g := x.ctl.gang
  let ts := gangTeams s h g
  if gangN g = 0 || !ts.contains t then .fault 0x1B 0 0
  else
    match mulChecks i s d b, x.wm.cfg with
    | some e, _ => e
    | none, none => .fault 0x1A 0 0
    | none, some c =>
      let r := (roundOf s h g).getD { gang := g, keep := keep, acc := accNo d, cfg := c, strm := isStrm b, here := [] }
      if r.keep != keep || r.acc != accNo d || r.cfg != c || r.strm != isStrm b then .fault 0x1B 0 0
      else if leavesCode s t then .done s
      else
        let ms := r.here.filter (fun m => m.1 != t) ++ [(t, a, b)]
        if ms.length < ts.length then
          let rest := (s.harness h).gangs.filter (·.gang != g)
          .wait (s.putHarness h { s.harness h with gangs := rest ++ [{ r with here := ms }] }) .gang
        else issueRound i s t h g keep (accNo d) c ms

def execWmulg (d a b : Byte) (s : State) : Host.Outcome State Fault Refusal :=
  issue (.wmulg d a b) (rulesWm [d, a, b] (mulLegal d a b) (some 1)) (wmBody (gangBody (.wmulg d a b) false d a b)) s
def execWmulgk (d a b : Byte) (s : State) : Host.Outcome State Fault Refusal :=
  issue (.wmulgk d a b) (rulesWm [d, a, b] (mulLegal d a b) (some 1)) (wmBody (gangBody (.wmulgk d a b) true d a b)) s

/-- RLS (R310). -/
def execRls (s : State) : Host.Outcome State Fault Refusal :=
  issue .rls (rulesWm [] true (some 1)) (wmBody fun _ s => .done (s.putMe { s.me with wm := { s.me.wm with latch := none } })) s

/-! ## Digits read back -/

/-- Digit `e` of an accumulator, 0 beyond the last (R311, R312). -/
def digitOr0 (c : WmConfig) (a : BitVec 4096) (e : Nat) : Int := if e < c.digits then digit c.w a e else 0

/-- EXTR (R311). -/
def execExtr (d a : Byte) (s : State) : Host.Outcome State Fault Refusal :=
  issue (.extr d a) (rulesWm [d, a] (isV d && isAcc a) none)
    (wmBody fun w s => withCfg s fun c =>
      if s.form s.curTeam (accNo a) then illegal (.extr d a) s
      else
        let x := s.acc s.curTeam (accNo a)
        .done (holdWm (s.putRegs (wr w d fun k => BitVec.ofInt 32 (digitOr0 c x (c.base + k)))) s.curTeam (accNo a / 2))) s

/-- An integer as an exact value. -/
def intVal (n : Int) : FVal := .fin (n < 0) (Num.qInt n.natAbs)

/-- One scaled sum of R312 in a format. -/
def scaleAdd (w : View) (f : Fmt) (v : Nat) (g : Int) (b : Nat) : Nat :=
  let fl := mrFlush w.mr
  let m := mrRnd w.mr
  Num.flush fl f (Num.roundTo f m (Num.fadd m (Num.fmul (intVal g) (Num.fval f (Num.flush fl f b))) (Num.fval f (Num.flush fl f v))))

/-- The EXTS family: `n` elements of format `f` in each lane (R312). -/
def extsBody (i : Instr) (f : Fmt) (n : Nat) (d a b : Byte) (w : View) (s : State) : Eff :=
  withCfg s fun c =>
    let t := s.curTeam
    if s.form t (accNo a) then illegal i s
    else
      let x := s.acc t (accNo a)
      let r := wr w d fun k =>
        BitVec.ofNat 32 (packElems f.width n fun j =>
          scaleAdd w f (elemOf f.width ((rd w d k).setWidth 64) j) (digitOr0 c x (c.base + n * k + j))
            (elemOf f.width ((rd w b k).setWidth 64) j))
      .done (startWm (s.putRegs r) t [d] (accNo a / 2))

def execExtsF32 (d a b : Byte) (s : State) : Host.Outcome State Fault Refusal :=
  issue (.extsF32 d a b) (rulesWm [d, a, b] (isV d && isAcc a && isV b) none) (wmBody (extsBody (.extsF32 d a b) fmt32 1 d a b)) s
def execExtsBf16 (d a b : Byte) (s : State) : Host.Outcome State Fault Refusal :=
  issue (.extsBf16 d a b) (rulesWm [d, a, b] (isV d && isAcc a && isV b) none) (wmBody (extsBody (.extsBf16 d a b) fmtBf 2 d a b)) s
def execExtsF16 (d a b : Byte) (s : State) : Host.Outcome State Fault Refusal :=
  issue (.extsF16 d a b) (rulesWm [d, a, b] (isV d && isAcc a && isV b) none) (wmBody (extsBody (.extsF16 d a b) fmt16 2 d a b)) s

/-! ## Whole accumulators -/

/-- The value V of a digit-form accumulator (R207). -/
def accValue (c : WmConfig) (a : BitVec 4096) : Int :=
  (List.range c.digits).foldl (fun v e => v + digit c.w a e * 2 ^ (e * c.w)) 0

/-- NORM (R313, R292). -/
def execNorm (d : Byte) (s : State) : Host.Outcome State Fault Refusal :=
  issue (.norm d) (rulesWm [d] (isAcc d) (some 1))
    (wmBody fun _ s => withCfg s fun c =>
      let t := s.curTeam
      let n := accNo d
      let s := if s.form t n then s else s.putAcc t n (BitVec.ofInt 4096 (accValue c (s.acc t n))) true
      .done (startWm s t [d] (n / 2))) s

/-- ACLR (R313). -/
def execAclr (d : Byte) (s : State) : Host.Outcome State Fault Refusal :=
  issue (.aclr d) (rulesWm [d] (isAcc d) (some 1)) 
    (wmBody fun _ s => .done (holdWm (s.putAcc s.curTeam (accNo d) 0 false) s.curTeam (accNo d / 2))) s

/-- The checks of R314. -/
def imageFault (s : State) (store : Bool) (a : Nat) : Option Eff :=
  let h := s.harness s.curHarness
  if a % 64 != 0 then some (.fault 0x03 (w32 a) 0)
  else if Config.sharedBytes < a + 512 then some (.fault 0x04 (w32 a) 0)
  else if lockHit h.locks s.cur store a 512 != .free then some (.fault 0x05 (w32 a) 0)
  else if store && liveHit h a 512 then some (.fault 0x06 (w32 a) 0)
  else if store && readsLate s s.curMask then some (.wait s .retry)
  else none

/-- ACCST (R314): its words are written by its wave (R315), and it writes no register (R90); before the wave the team goes on only while no watchpoint of shared memory
is armed, whose trap would be taken at the boundary after the ACCST (R395, R435; log 128). -/
def execAccst (d a : Byte) (s : State) : Host.Outcome State Fault Refusal :=
  issue (.accst d a) (rulesWm [d, a] (isAcc d && isS a) (some 1))
    (wmBody fun w s =>
      let p := (rd w a 0).toNat
      match imageFault s true p with
      | some e => e
      | none =>
        let x := s.acc s.curTeam (accNo d)
        let s := laterWave s ((List.range 128).map fun j =>
          { lane := 0, addr := p + 4 * j, op := some .xchg, d := x.extractLsb' (32 * j) 32 }) none
        .done (holdFor (startWm s s.curTeam [] (accNo d / 2)) false s.nextId)) s

/-- ACCLD (R314): its words are read by its wave (R315). -/
def execAccld (d a b : Byte) (s : State) : Host.Outcome State Fault Refusal :=
  issue (.accld d a b) { rulesWm [d, a] (isAcc d && isS a) (some 1) with mode := fun _ => b.toNat ≤ 1 }
    (wmBody fun w s =>
      let p := (rd w a 0).toNat
      match imageFault s false p with
      | some e => e
      | none => .done (startWm (laterWave s [] (some (accNo d, b == 1, p))) s.curTeam [d] (accNo d / 2))) s

/-! ## Status -/

/-- SKIPQ (R318). -/
def execSkipq (d a : Byte) (s : State) : Host.Outcome State Fault Refusal :=
  issue (.skipq d a) { rulesWm [d] (isS d) (some 1) with mode := fun _ => a.toNat ≤ 1 }
    (wmBody fun w s =>
      let x := s.me
      .done (s.putMe { x with
        regs := wrS w.regs d x.wm.skips, wm := { x.wm with skips := if a = 1 then 0 else x.wm.skips } })) s

/-- The status word (R318). -/
def wmStatus (x : WmState) (form : Bool) : Word :=
  let l := match x.latch with
    | some l => l.skip.toNat * 2 ^ 16 + 2 ^ 15 + l.reg
    | none => 0
  w32 (form.toNat * 2 ^ 19 + x.cfg.isSome.toNat * 2 ^ 18 + x.ovf.toNat * 2 ^ 17 + l)

/-- The form bit of an accumulator after every operation on it that a team has issued: an ACCLD whose wave is to come sets it
(R315, R318). -/
def State.formSoon (s : State) (t n : Nat) : Bool :=
  let i := (s.team t).info
  let mine := s.late.filterMap fun x =>
    match x.party, x.image with
    | .team u, some (m, binary, _) =>
      if m = n ∧ (s.team u).info.harness = i.harness ∧ (s.team u).info.part = i.part then some binary else none
    | _, _ => none
  mine.getLast?.getD (s.form t n)

/-- WSTAT (R318). -/
def execWstat (d a : Byte) (s : State) : Host.Outcome State Fault Refusal :=
  issue (.wstat d a) (rulesWm [d, a] (isS d && isAcc a) (some 1))
    (wmBody fun w s =>
      let x := s.me
      .done (s.putMe { x with
        regs := wrS w.regs d (wmStatus x.wm (s.formSoon s.curTeam (accNo a))), wm := { x.wm with ovf := false } })) s

end Sys2Proof.Machine
end

