-- ==== Sys2Proof/Machine/Residence.lean ====
section
/-! DEFINITION. Which context is resident on a core: slices, the idle rule, pre-emption and restore (R77, R78, R409 to R411,
R440); replies to host-served faults and invalidations (R420 to R422); the end of service calls (R408). -/

namespace Sys2Proof.Machine

/-! ## The end of service calls -/

/-- The entries of a parked team, on the ring on which it called, all read DONE = 1, and no check has found them so (R408). -/
def callDone (s : State) (t : Nat) : Bool :=
  let x := s.team t
  let l := s.launchOf t
  match ringOf l x.svcOn with
  | none => false
  | some r => x.place == .parked && !x.svcFound &&
      x.svc.all fun e => (memWord (s.func l.f).qmem (entryAddr r (w32 e.1))).getLsbD 31

/-- HEAD over each unbroken run of freed entries (R408). -/
def advanceHead : Nat → SvcRing → SvcRing
  | 0, r => r
  | n + 1, r =>
    if r.freed.contains r.head.toNat then
      advanceHead n { r with head := r.head + 1, freed := r.freed.filter (· != r.head.toNat) }
    else r

/-- A served team resumes: results in v0 and v1 of the lanes that made entries, the entries freed, PARKED cleared (R408). -/
def endCall (s : State) (t : Nat) : State :=
  let x := s.team t
  let l := s.launchOf t
  match ringOf l x.svcOn with
  | none => s
  | some r =>
    let m := (s.func l.f).qmem
    let regs := x.svc.foldl (fun g e =>
      let a := entryAddr r (w32 e.1)
      putV (putV g 0 [e.2] fun _ => memWord m (a + 0x28)) 1 [e.2] fun _ => memWord m (a + 0x2C)) x.regs
    let r := advanceHead (r.freed.length + x.svc.length) { r with freed := r.freed ++ x.svc.map (·.1) }
    let s := s.putTeam t { x with regs := regs, svc := [], svcFound := false, ctl := { x.ctl with parked := false } }
    let s := s.putLaunch x.info.launch ((s.launch x.info.launch).putRing r)
    enterPending (putQmem s l.f (r.base + 4) (leBytes 4 r.head.toNat)) t

/-- A check finds the entries of a parked team done: its call ends 300 cycles later (R413). -/
def findCall (s : State) (t : Nat) : State :=
  let x : Late := { key := (s.time + 300) * 20000 + 15360, id := s.nextId, party := .none, path := 0, cycle := s.time, issued := 0, ask := some (.resume t) }
  let s := s.putTeam t { s.team t with svcFound := true }
  { s.fresh with late := lateIn x s.late }

/-- The check of the parked teams of a function (R408). -/
def checkCalls (s : State) (f : Nat) : State :=
  (List.range s.teams.length).foldl (fun s t => if s.fnOf t == f && callDone s t then findCall s t else s) s

/-- Whether a parked team's call has been found done. -/
def isFound (s : State) (t : Nat) : Bool := (s.team t).place == .parked && (s.team t).svcFound

/-- The call of a team ends, when its harness is resident; else that is due at the restore (R408). -/
def resumeCall (s : State) (t : Nat) : State :=
  if isFound s t && (s.core (s.team t).info.core).resident == some (s.team t).info.harness then endCall s t else s

/-- The calls of a restored harness that came to their end while it was away end now (R408, R411). -/
def resumeCalls (s : State) (h : Nat) : State :=
  (teamsOf s h).foldl (fun s t => if isFound s t && s.late.all (·.ask != some (.resume t)) then endCall s t else s) s

/-- DOORBELL, which the host writes, and SERVICE_RING_CHECK (R408, R445). -/
def execDoorbell (s : State) : Host.Outcome State Fault Refusal := .next (checkCalls (wakeModule s) s.ev.f)
def execServiceRingCheck (s : State) : Host.Outcome State Fault Refusal := .next (checkCalls s s.ev.f)

/-! ## Requests -/

/-- Cycles of a slice (R438, R440). -/
def sliceCycles (s : State) (h : Nat) : Nat :=
  let k := (s.func (s.launch (s.harness h).launch).f).slw.toNat
  (if k = 0 then 16 else k) * 125000

/-- The slice of the resident harness has run out, with no request made yet. -/
def sliceOver (s : State) (c : Nat) : Bool :=
  let k := s.core c
  match k.resident with
  | some h => !k.preempt && k.heldReq == [] && sliceCycles s h ≤ k.slice
  | none => false

/-- SLICE_EXPIRY (R440, R409). -/
def execSliceExpiry (s : State) : Host.Outcome State Fault Refusal :=
  .next <|
    if sliceOver s s.ev.core then askPreempt s s.ev.core else s

/-- The idle rule holds (R78). -/
def idleOver (s : State) (c : Nat) : Bool :=
  let k := s.core c
  4096 ≤ k.idle && !k.preempt && k.heldReq == [] && idleCore s 0 c k

/-- IDLE_DEPARTURE (R78). -/
def execIdleDeparture (s : State) : Host.Outcome State Fault Refusal :=
  .next <| if idleOver s s.ev.core then askPreempt s s.ev.core else s

/-! ## Pre-emption -/

/-- Whether an operation in flight belongs to harness `h`. -/
def ofHarness (s : State) (h : Nat) : Party → Bool
  | .team t => (s.team t).info.harness == h
  | .shuttle k _ => k == h
  | .none => false

/-- Every engine of the core has acknowledged: nothing of the harness is in flight (R409, R283). -/
def quiet (s : State) (h : Nat) : Bool :=
  (s.ops.all fun o => !ofHarness s h o.party) && (s.transfers.all fun x => x.h != h) && (s.graded.all fun x => x.h != h) &&
    (s.core (s.harness h).core).parts.all fun p => p.changes == []

/-- A wait that ends at its boundary and is evaluated afresh on return (R409); a SLEEP keeps its wake value (R411), a FETCHW
its place (R74), and a BWAIT whose slot was retired its fault (R331). -/
def endsWait : Dep → Bool
  | .sleep _ => false
  | .tile => false
  | .met => false
  | .lost _ => false
  | _ => true

/-- A path as it is saved: a macro stops between words, and its MCALL copies it again on return (R116, R409; log 86). -/
def Path.rest (p : Path) : Path :=
  let p := match p.mac with
    | some (_, j) => { p with mac := none, resume := j }
    | none => p
  match p.dep with
  | some d => if endsWait d then { p with dep := none } else p
  | none => p

def Team.rest (t : Team) : Team := { t with flow := { t.flow with paths := t.flow.paths.map fun p => p.map Path.rest } }

/-- Puts of a harness's teams and Shuttles leave the mailboxes' waiting lists (R409). -/
def dropPuts (s : State) (h : Nat) : State :=
  let f := (s.launch (s.harness h).launch).f
  let fn := s.func f
  s.putFunc f { fn with puts := fn.puts.filter fun e => match e.who with
    | .team t _ => (s.team t).info.harness != h
    | .shuttle k _ => k != h
    | .packet _ _ => true }

/-- Whether the function of a harness is in reset (R444). -/
def inReset (s : State) (h : Nat) : Bool :=
  let f := (s.launch (s.harness h).launch).f
  f < 64 && (s.func f).state == 2

/-- What a function leaves in the shared memory of a core (R70). -/
def leaveShared (s : State) (h : Nat) : State :=
  let x := s.harness h
  let k := s.core x.core
  s.putCore x.core { k with left := putAssoc k.left (s.launch x.launch).f x.shared }

/-- The waiting requests of a team leave the dispensers' queues. -/
def dropRequests (s : State) (t : Nat) : State :=
  let l := s.launchOf t
  s.putLaunch (s.team t).info.launch { l with fronts := l.fronts.map fun f => { f with waiters := f.waiters.filter (·.team != t) } }

/-- Holders of translations that are gone: no invalidation waits for them (R422). -/
def dropHolders (s : State) (ids : List Nat) : State := ids.foldl dropHolder s

/-- Rows of function `f` leave the batches not taken, and become void in the taken ones, in the row table too: bit 31 of word 0,
once (R444). -/
def voidRows (s : State) (f : Nat) : State :=
  let mine := fun (r : BfRow) => (s.launch r.launch).f == f
  let s' := s.batches.foldl (fun s b =>
    match b.taker with
    | some (_, h, a) =>
      (List.range b.rows.length).foldl (fun s i => match b.rows[i]? with
        | some r =>
          let l := Loc.shared h (a + 16 * i + 3)
          if mine r && !r.void then s.locStore l ((s.locBytes l 1).map (· ||| 0x80)) else s
        | none => s) s
    | none => s) s
  { s' with batches := s'.batches.filterMap fun b =>
      if b.taker.isSome then some { b with rows := b.rows.map fun r => if mine r then { r with void := true } else r }
      else
        let rows := b.rows.filter fun r => !mine r
        if rows = [] then none else some { b with rows := rows } }

/-- The fault records of a function freed without a retry (R444). -/
def freeFaults (s : State) (f : Nat) : State := { s with faults := s.faults.filter fun r => r.f != f }

/-- The fault records that a function in reset has come to have since its reset began go with each of its harnesses (R444). -/
def sweepReset (s : State) (h : Nat) : State :=
  if inReset s h then freeFaults s (s.launch (s.harness h).launch).f else s

/-- A harness discarded: its teams never issue again, its queued pieces, ordered adds and fault records are dropped, batches
its teams have taken leave the BFQ (R444, R452). -/
def discard (s : State) (h : Nat) : State :=
  let s := dropPuts s h
  let x := s.harness h
  let s := s.putHarness h { x with
    alive := false, copyq := [], gangs := [], dom := { x.dom with entries := [] }
    shuttles := x.shuttles.map fun u => { u with state := 0 } }
  let s := s.putLaunch x.launch { s.launch x.launch with
    xdom := { (s.launch x.launch).xdom with entries := (s.launch x.launch).xdom.entries.filter (·.cid != x.vcore) } }
  let s := dropHolders s ((s.copies.filter fun c => c.h = h && c.flying = 0).map (·.id))
  let s := (teamsOf s h).foldl (fun s t => dropRequests (s.putTeam t { s.team t with place := .ended }) t) s
  let s : State := { s with
    copies := s.copies.filterMap fun c => if c.h = h then (if c.flying = 0 then none else some { c with pieces := [], unread := c.unread - c.pieces.length }) else some c
    faults := s.faults.map fun r => { r with
      teams := r.teams.filter fun e => (s.team e.1).info.harness != h, shuttles := r.shuttles.filter fun e => e.1 != h }
    batches := s.batches.filter fun b => match b.taker with
      | some k => k.2.1 != h
      | none => true }
  sweepReset s h

/-- The resident harness saved and the core free (R409): its sets are kept, its gang rounds withdrawn (R410), its waits
ended. -/
def saveHarness (s : State) (c h : Nat) : State :=
  let k := s.core c
  let x := s.harness h
  let parts := (List.range 8).map fun p =>
    let q := k.parts.getD p {}
    { x.parts.getD p {} with active := q.active, pending := q.pending }
  let s := s.putHarness h { x with parts := parts, gangs := [] }
  let s := (teamsOf s h).foldl (fun s t => s.putTeam t (s.team t).rest) (dropPuts s h)
  let s := leaveShared s h
  let k := s.core c
  s.putCore c { k with
    resident := none, preempt := false, heldReq := [], idle := 0, lastRun := h + 1
    parts := k.parts.map fun q => { q with active := [], pending := [] } }

/-- Whether pre-emption of a core is complete: every engine has acknowledged, and no trap comes before it (R409, R412). -/
def canSave (s : State) (c : Nat) : Bool :=
  let k := s.core c
  match k.resident with
  | some h => k.preempt && quiet s h && (teamsOf s h).all fun t => (dueTrap s t).isNone
  | none => false

/-- PREEMPTION_COMPLETE (R409); a function reset discards the harness (R444). -/
def execPreemptionComplete (s : State) : Host.Outcome State Fault Refusal :=
  .next <|
    let c := s.ev.core
    match canSave s c, (s.core c).resident with
    | true, some h =>
      let s' := saveHarness s c h
      if inReset s h then discard s' h else s'
    | _, _ => s

/-! ## Restore -/

/-- The next runnable context of a core, round-robin in order of acceptance after the one that ran last (R77). -/
def nextContext (s : State) (c : Nat) : Option Nat :=
  let hs := (List.range s.harnesses.length).filter fun h => (s.harness h).core == c && (s.harness h).runnable && !inReset s h
  match hs.find? fun h => (s.core c).lastRun ≤ h with
  | some h => some h
  | none => hs.head?

def canRestore (s : State) (c : Nat) : Bool :=
  let k := s.core c
  k.resident.isNone && k.inService && s.svc.power == .run && (nextContext s c).isSome

/-- Shared memory at first residence: what the function last left there, the spill areas zero (R70, R69). -/
def firstShared (s : State) (h : Nat) : Memory :=
  let x := s.harness h
  let old := ((s.core x.core).left.lookup (s.launch x.launch).f).getD []
  let areas := (teamsOf s h).map fun t => (s.team t).ctl
  let bottom := areas.foldl (fun n c => if c.ssplim = 0 then n else min n c.sspBase.toNat) Config.sharedBytes
  old.filter fun e => e.1 < bottom

/-- The teams of a harness start: active or pending as placed (R68, R70). -/
def startTeams (s : State) (h : Nat) : State :=
  let ps := (s.harness h).parts
  (teamsOf s h).foldl (fun s t =>
    let x := s.team t
    let on := (ps.getD x.info.part {}).active.contains t
    s.putTeam t { x with place := if on then .active else .pending }) s

/-- A harness becomes resident (R77, R411, R440, R441): at its first residence its teams start (R70). -/
def restoreHarness (s : State) (c h : Nat) : State :=
  let x := s.harness h
  let s := if x.started then s else startTeams (s.putHarness h { x with started := true, shared := firstShared s h }) h
  let k := s.core c
  let parts := (List.range 8).map fun p =>
    let q := x.parts.getD p {}
    { k.parts.getD p {} with active := q.active, pending := q.pending, credit := 0 }
  let s := s.putCore c { k with resident := some h, slice := 0, idle := 0, parts := parts }
  let s := resumeCalls s h
  serveFront s x.launch (dieOf c)

/-- CONTEXT_RESTORE (R77, R411). -/
def execContextRestore (s : State) : Host.Outcome State Fault Refusal :=
  .next <|
    let c := s.ev.core
    match canRestore s c, nextContext s c with
    | true, some h => restoreHarness s c h
    | _, _ => s

/-! ## What acts later -/

/-- What is done for a party that has asked (R352, R356, R413): a query's word is written, and an SVC's entries and its parking come,
while the operation is listed. -/
def answerAsk (s : State) (id : Nat) : Ask → State
  | .refire k =>
    let l := s.curLaunch
    match (s.launch l).live, s.task l k with
    | true, some x => s.putTask l k x.refire
    | _, _ => s
  | .query k f d =>
    match s.ops.any (·.id == id), s.task s.curLaunch k with
    | true, some x => s.putRegs (wrS s.curRegs d (taskWord x f))
    | _, _ => s
  | .call n ring ks => if s.ops.any (·.id == id) then writeCall s s.curTeam n ring ks else s
  | .park => if s.ops.any (·.id == id) then parkTeam s s.curTeam else s
  | .resume t => resumeCall s t

/-- The image of an ACCLD enters its accumulator (R314, R315). -/
def loadImage (s : State) (n : Nat) (binary : Bool) (a : Nat) : State :=
  let i := (s.team s.curTeam).info
  let h := s.harness i.harness
  let p := h.parts.getD i.part {}
  let bit := BitVec.twoPow 16 n
  s.putHarness i.harness { h with
    parts := h.parts.set i.part { p with
      acc := sset 0 p.acc n (BitVec.ofNat 4096 (leNat (memBytes h.shared a 512)))
      form := if binary then p.form ||| bit else p.form &&& ~~~bit } }

/-- What is due acts, for the party that issued it; with the last of its operation the event that ends that is set (R229, R230,
R315, R392). A register of an operation that is no longer listed is not written. -/
def runLate (s : State) (x : Late) : State :=
  let cur := s.cur
  let s : State := { s with cur := x.party, late := s.late.filter (· != x) }
  let acts := if s.ops.any (·.id == x.id) then x.acts else x.acts.map fun a => { a with dst := none }
  let s := match x.image, x.ask with
    | some (n, binary, a), _ => loadImage s n binary a
    | none, some k => answerAsk s x.id k
    | none, none => runActs x.path x.issued x.scratch s acts
  let s : State := { s with cur := cur }
  match s.ops.find? (·.id == x.id) with
  | some o => s.postEnd o
  | none => s

/-- What stands before place `key` acts, in order. -/
def runDue (key : Nat) (s : State) : State := (s.late.takeWhile fun x => x.key < key).foldl runLate s

/-! ## Replies to faults -/

/-- Entries of a TLB that do not map any byte of `n` at `va` for function `f`. -/
def dropEntries (f va n : Nat) (l : List TlbEntry) : List TlbEntry :=
  l.filter fun e => e.f != f || va + n ≤ e.base || e.base + e.size ≤ va

/-- Every TLB entry that maps a byte of the range is dropped (R421, R422). -/
def dropTlb (s : State) (f va n : Nat) : State :=
  { s with
    ioTlb := dropEntries f va n s.ioTlb
    cores := s.cores.map fun c => { c with copyTlb := dropEntries f va n c.copyTlb, tlbs := c.tlbs.map (dropEntries f va n) } }

/-- Every walker complex drops its entries that serve a byte of the range (R422). -/
def dropWalked (s : State) (f va n : Nat) : State :=
  { s with dies := s.dies.map fun d => { d with
      walker := d.walker.filter fun e =>
        e.f != f || va + n ≤ e.tag * entrySpan e.lv || (e.tag + 1) * entrySpan e.lv ≤ va } }

/-- A team's fault is pending no more; its harness runs again once none of its teams' is (R404). -/
def clearPend (s : State) (t : Nat) : State :=
  let x := s.team t
  let s := s.putTeam t { x with ctl := { x.ctl with pflt := x.ctl.pflt &&& 0xFF } }
  let h := x.info.harness
  if (teamsOf s h).any fun u => (s.team u).ctl.pflt.getLsbD 8 then s
  else s.putHarness h { s.harness h with blocked := false }

/-- The record of function `f` with number `n`; none while the function is in reset (R444). -/
def faultRec (s : State) (f n : Nat) : Option FaultRec :=
  if f < 64 && (s.func f).state == 2 then none else s.faults.find? fun r => r.fid == n && r.f == f

/-- REPLY_SERVED (R421): the page's TLB entries drop, and what waits on the record issues again. -/
def replyServed (s : State) (f n : Nat) : State :=
  match faultRec s f n with
  | none => s
  | some r =>
    let s := dropTlb { s with faults := s.faults.filter (· != r) } f (65536 * r.page) 65536
    let s := r.teams.foldl (fun s e => clearPend s e.1) s
    r.shuttles.foldl (fun s e => s.putShuttle e.1 e.2 { s.shuttle e.1 e.2 with fault := false }) s

/-- REPLY_REFUSED (R421): what waits on the record fails (R404, R254). -/
def replyRefused (s : State) (f n : Nat) : State :=
  match faultRec s f n with
  | none => s
  | some r =>
    let s : State := { s with faults := s.faults.filter (· != r) }
    let s := r.teams.foldl (fun s e => refuseFault (clearPend s e.1) (.team e.1) r.cause e.2) s
    r.shuttles.foldl (fun s e => refuseFault s (.shuttle e.1 e.2) r.cause (s.shuttle e.1 e.2).faddr.toNat) s

def execReplyServed (s : State) : Host.Outcome State Fault Refusal := .next (replyServed (wakeModule s) s.ev.f s.ev.id)
def execReplyRefused (s : State) : Host.Outcome State Fault Refusal := .next (replyRefused (wakeModule s) s.ev.f s.ev.id)

/-- Whether held pages meet a range of a function. -/
def holds (f va n : Nat) (l : List (Nat × Nat × Nat)) : Bool := l.any fun p => p.1 == f && p.2.1 < va + n && va < p.2.1 + p.2.2

/-- An invalidation of `n` bytes at `va` (R422): the entries drop, and the holders of a dropped translation are noted. -/
def invalidate (s : State) (f va n : Nat) : State :=
  let ids := ((s.transfers.filter fun x => holds f va n x.pages).map (·.id)) ++
    ((s.copies.filter fun x => holds f va n x.pages).map (·.id)) ++ ((s.graded.filter fun x => holds f va n x.pages).map (·.id))
  let s := dropWalked (dropTlb s f va n) f va n
  s.putFunc f { s.func f with invals := (s.func f).invals ++ [ids] }

/-- INVALIDATE_PAGE (R420, R422): page number `n` in units of 64 KiB, SIZE `off`. -/
def invalidatePage (s : State) (f vpn size : Nat) : State :=
  if 3 ≤ size then s else invalidate s f (65536 * vpn / leafSize size * leafSize size) (leafSize size)

def execInvalidatePage (s : State) : Host.Outcome State Fault Refusal := .next (invalidatePage (wakeModule s) s.ev.f s.ev.n s.ev.off)

/-- INVALIDATE_FUNCTION (R422). -/
def execInvalidateFunction (s : State) : Host.Outcome State Fault Refusal := .next (invalidate (wakeModule s) s.ev.f 0 (2 ^ 57))

/-- INVALIDATION_COMPLETE (R422): the oldest one, once nothing holds a translation it dropped. -/
def execInvalidationComplete (s : State) : Host.Outcome State Fault Refusal :=
  .next <|
    let f := s.ev.f
    let fn := s.func f
    match fn.invals with
    | [] :: r => s.putFunc f { fn with invals := r, invseq := fn.invseq + 1 }
    | _ => s

end Sys2Proof.Machine
end

