-- ==== Sys2Proof/Machine/Sha.lean ====
section
/-! DEFINITION. SHA-256 and the check of an SLH-DSA-SHA2-128s signature, which R449 and R451 name and do not spell out: their
bodies are those of FIPS 180-4 and FIPS 205 (PRESUMED, log 10). Strings of bytes stand first byte first. -/

namespace Sys2Proof.Machine

/-- A string of bytes as a number, its first byte the highest. -/
def beNat (bs : List Byte) : Nat := bs.foldl (fun n b => n * 256 + b.toNat) 0

/-- `n` bytes of `x`, the highest first. -/
def beBytes (n x : Nat) : List Byte := (leBytes n x).reverse

/-! ## SHA-256 -/

def shaRoundWords : List Word := [
  0x428A2F98, 0x71374491, 0xB5C0FBCF, 0xE9B5DBA5, 0x3956C25B, 0x59F111F1, 0x923F82A4, 0xAB1C5ED5,
  0xD807AA98, 0x12835B01, 0x243185BE, 0x550C7DC3, 0x72BE5D74, 0x80DEB1FE, 0x9BDC06A7, 0xC19BF174,
  0xE49B69C1, 0xEFBE4786, 0x0FC19DC6, 0x240CA1CC, 0x2DE92C6F, 0x4A7484AA, 0x5CB0A9DC, 0x76F988DA,
  0x983E5152, 0xA831C66D, 0xB00327C8, 0xBF597FC7, 0xC6E00BF3, 0xD5A79147, 0x06CA6351, 0x14292967,
  0x27B70A85, 0x2E1B2138, 0x4D2C6DFC, 0x53380D13, 0x650A7354, 0x766A0ABB, 0x81C2C92E, 0x92722C85,
  0xA2BFE8A1, 0xA81A664B, 0xC24B8B70, 0xC76C51A3, 0xD192E819, 0xD6990624, 0xF40E3585, 0x106AA070,
  0x19A4C116, 0x1E376C08, 0x2748774C, 0x34B0BCB5, 0x391C0CB3, 0x4ED8AA4A, 0x5B9CCA4F, 0x682E6FF3,
  0x748F82EE, 0x78A5636F, 0x84C87814, 0x8CC70208, 0x90BEFFFA, 0xA4506CEB, 0xBEF9A3F7, 0xC67178F2]

/-- The eight words a digest grows from. -/
structure ShaState where
  a : Word := 0x6A09E667
  b : Word := 0xBB67AE85
  c : Word := 0x3C6EF372
  d : Word := 0xA54FF53A
  e : Word := 0x510E527F
  f : Word := 0x9B05688C
  g : Word := 0x1F83D9AB
  h : Word := 0x5BE0CD19
  deriving DecidableEq, Repr

/-- One round with the words `k` and `w`. -/
def shaRound (x : ShaState) (k w : Word) : ShaState :=
  let s1 := x.e.rotateRight 6 ^^^ x.e.rotateRight 11 ^^^ x.e.rotateRight 25
  let t1 := x.h + s1 + ((x.e &&& x.f) ^^^ (~~~x.e &&& x.g)) + k + w
  let s0 := x.a.rotateRight 2 ^^^ x.a.rotateRight 13 ^^^ x.a.rotateRight 22
  let t2 := s0 + ((x.a &&& x.b) ^^^ (x.a &&& x.c) ^^^ (x.b &&& x.c))
  { a := t1 + t2, b := x.a, c := x.b, d := x.c, e := x.d + t1, f := x.e, g := x.f, h := x.g }

/-- The word sixteen places after the first of `w`. -/
def shaNext (w : List Word) : Word :=
  let x := w.getD 1 0
  let y := w.getD 14 0
  w.getD 0 0 + (x.rotateRight 7 ^^^ x.rotateRight 18 ^^^ x >>> 3) + w.getD 9 0 +
    (y.rotateRight 17 ^^^ y.rotateRight 19 ^^^ y >>> 10)

def shaRounds : List Word → List Word → ShaState → ShaState
  | [], _, x => x
  | k :: ks, w, x => shaRounds ks (w.drop 1 ++ [shaNext w]) (shaRound x k (w.getD 0 0))

/-- The words of a block of bytes. -/
def shaWords (bs : List Byte) : List Word := (List.range 16).map fun i => BitVec.ofNat 32 (beNat ((bs.drop (4 * i)).take 4))

def shaBlock (x : ShaState) (bs : List Byte) : ShaState :=
  let y := shaRounds shaRoundWords (shaWords bs) x
  { a := x.a + y.a, b := x.b + y.b, c := x.c + y.c, d := x.d + y.d, e := x.e + y.e, f := x.f + y.f, g := x.g + y.g, h := x.h + y.h }

/-- `n` blocks of a padded message. -/
def shaBlocks : Nat → List Byte → ShaState → ShaState
  | 0, _, x => x
  | n + 1, bs, x => shaBlocks n (bs.drop 64) (shaBlock x (bs.take 64))

def ShaState.bytes (x : ShaState) : List Byte := [x.a, x.b, x.c, x.d, x.e, x.f, x.g, x.h].flatMap fun w => beBytes 4 w.toNat

/-- The message, a one bit, zeros up to 8 bytes before a whole block, and its length in bits. -/
def shaPad (m : List Byte) : List Byte :=
  m ++ 0x80 :: (List.replicate ((119 - m.length % 64) % 64) 0 ++ beBytes 8 (8 * m.length))

/-- The SHA-256 digest of a message, 32 bytes. -/
def sha256 (m : List Byte) : List Byte := (shaBlocks ((m.length + 72) / 64) (shaPad m) {}).bytes

/-! ## SLH-DSA-SHA2-128s -/

/-- `k` numbers of `b` bits each, from the highest bits of `x` down. -/
def baseDigits (x : List Byte) (b k : Nat) : List Nat :=
  (List.range k).map fun i => beNat x / 2 ^ (8 * x.length - b * (i + 1)) % 2 ^ b

/-- Which hash of the scheme: the bytes of an address, compressed: layer, tree, type and three words. -/
structure SlhAddress where
  layer : Nat := 0
  tree  : Nat := 0
  type  : Nat := 0
  w1    : Nat := 0
  w2    : Nat := 0
  w3    : Nat := 0
  deriving DecidableEq, Repr

def SlhAddress.bytes (a : SlhAddress) : List Byte :=
  beBytes 1 a.layer ++ beBytes 8 a.tree ++ beBytes 1 a.type ++ beBytes 4 a.w1 ++ beBytes 4 a.w2 ++ beBytes 4 a.w3

/-- The hash of values under an address (F, H and T of FIPS 205). -/
def slhHash (seed : List Byte) (a : SlhAddress) (m : List Byte) : List Byte :=
  (sha256 (seed ++ List.replicate 48 0 ++ a.bytes ++ m)).take 16

/-- Value `i` of a list of 16-byte values. -/
def slhPart (x : List Byte) (i : Nat) : List Byte := (x.drop (16 * i)).take 16

/-- The root above `node`, leaf `i` of a tree, with the values beside its path. -/
def slhRoot (seed : List Byte) (a : SlhAddress) (i : Nat) (node path : List Byte) (height : Nat) : List Byte :=
  (List.range height).foldl (fun x j =>
    let y := slhPart path j
    slhHash seed { a with w2 := j + 1, w3 := i / 2 ^ (j + 1) } (if i / 2 ^ j % 2 = 0 then x ++ y else y ++ x)) node

/-- The public key of the one-time signature of a 16-byte value. -/
def slhWots (seed : List Byte) (layer tree leaf : Nat) (m sig : List Byte) : List Byte :=
  let d := baseDigits m 4 32
  let sum := (d.map fun x => 15 - x).sum
  let ds := d ++ baseDigits (beBytes 2 (16 * sum)) 4 3
  let ends := (List.range 35).flatMap fun i =>
    let x := ds.getD i 0
    (List.range (15 - x)).foldl (fun v j => slhHash seed { layer, tree, type := 0, w1 := leaf, w2 := i, w3 := x + j } v) (slhPart sig i)
  slhHash seed { layer, tree, type := 1, w1 := leaf } ends

/-- The root of a tree of one-time keys: key `leaf` signs `m`. -/
def slhXmss (seed : List Byte) (layer tree leaf : Nat) (m sig : List Byte) : List Byte :=
  slhRoot seed { layer, tree, type := 2 } leaf (slhWots seed layer tree leaf m sig) (sig.drop 560) 9

/-- The root of the top tree: each layer signs the root below it. -/
def slhTop (seed sig : List Byte) (tree leaf : Nat) (m : List Byte) : List Byte :=
  ((List.range 7).foldl (fun (x : List Byte × Nat × Nat) j =>
    (slhXmss seed j x.2.1 x.2.2 x.1 (sig.drop (704 * j)), x.2.1 / 512, x.2.1 % 512)) (m, tree, leaf)).1

/-- The public key of the few-time signature of the digest `md`. -/
def slhFors (seed : List Byte) (tree leaf : Nat) (md sig : List Byte) : List Byte :=
  let roots := (List.range 14).flatMap fun i =>
    let n := 4096 * i + (baseDigits md 12 14).getD i 0
    let x := sig.drop (208 * i)
    let a : SlhAddress := { tree, type := 3, w1 := leaf }
    slhRoot seed a n (slhHash seed { a with w3 := n } (x.take 16)) (x.drop 16) 12
  slhHash seed { tree, type := 4, w1 := leaf } roots

/-- Whether `sig` is a signature of `m`, with an empty context, under the public key (R449). -/
def slhVerifies (key sig m : List Byte) : Bool :=
  if key.length != 32 || sig.length != 7856 then false
  else
    let seed := key.take 16
    let root := key.drop 16
    let r := sig.take 16
    let d := sha256 (r ++ seed ++ sha256 (r ++ seed ++ root ++ 0 :: 0 :: m) ++ beBytes 4 0)
    let tree := beNat ((d.drop 21).take 7) % 2 ^ 54
    let leaf := beNat ((d.drop 28).take 2) % 2 ^ 9
    slhTop seed (sig.drop 2928) tree leaf (slhFors seed tree leaf (d.take 21) (sig.drop 16)) == root

end Sys2Proof.Machine
end

