-- ==== Sys2Proof/Machine/Services.lean ====
section
/-! DEFINITION. The function table and function reset (R438, R444), attestation (R451), power, temperature and telemetry
(R445 to R448), bring-up (R449, R450), and ECC errors (R436, R452). -/

namespace Sys2Proof.Machine

/-! ## The function table -/

/-- Why an enable fails (R438). -/
def enableReason (fn : Func) : Nat :=
  if fn.ccnt = 0 then 1 else if 2048 < fn.sbase.toNat + fn.slen.toNat then 2 else 0

/-- Enable (R438). -/
def functionEnable (s : State) (f : Nat) : State :=
  let fn := s.func f
  if 64 ≤ f || fn.state != 0 then s
  else if enableReason fn = 0 then s.putFunc f { fn with state := 1 }
  else sendEvent s 64 0xD [w32 f, 1, w32 (enableReason fn)]

/-- Steps 1 and 2 of a function reset (R444): event messages that are still to be sent are not, and harnesses are pre-empted and discarded,
or at once when they are away. -/
def beginReset (s : State) (f : Nat) (disable : Bool) : State :=
  let fn := s.func f
  if 64 ≤ f || fn.state != 1 then s
  else
    let s := freeFaults (s.putFunc f { fn with state := 2, disable := disable, swept := false, evwait := [] }) f
    (List.range s.harnesses.length).foldl (fun s h =>
      let x := s.harness h
      if (s.launch x.launch).f != f || !x.alive then s
      else if (s.core x.core).resident = some h then askPreempt s x.core
      else discard s h) s

def execFunctionEnable (s : State) : Host.Outcome State Fault Refusal := .next (functionEnable (wakeModule s) s.ev.f)
def execFunctionReset (s : State) : Host.Outcome State Fault Refusal := .next (beginReset (wakeModule s) s.ev.f false)
def execFunctionDisable (s : State) : Host.Outcome State Fault Refusal := .next (beginReset (wakeModule s) s.ev.f true)

/-- Whether an accepted packet's action is with an engine, which completes it; a put that waits for room in a mailbox is with none
(R64, R444; log 129). -/
def Packet.engaged (p : Packet) : Bool := p.goesOn && (p.done || p.type != 5)

/-- Whether nothing is left of steps 2 and 3 of a reset but the queues (R444): the harnesses are discarded, and what was in flight
or with an engine is complete. -/
def resetStill (s : State) (f : Nat) : Bool :=
  let mine := fun (h : Nat) => (s.launch (s.harness h).launch).f == f
  f < 64 && (s.func f).state == 2 &&
    ((List.range s.harnesses.length).all fun h => !mine h || !(s.harness h).alive) &&
    (s.transfers.all fun x => !mine x.h) && (s.copies.all fun x => !mine x.h) && (s.graded.all fun x => !mine x.h) &&
    ((s.func f).queues.all fun e => e.2.accepted.all fun p => !p.engaged)

/-- Whether the rest of step 3 and step 4 of a reset are due (R444). -/
def resetSweeps (s : State) (f : Nat) : Bool := resetStill s f && !(s.func f).swept

/-- Every queue of the function is off, what its packets had still to do is abandoned, and its rows leave the BFQ (R444). -/
def sweepFunction (s : State) (f : Nat) : State :=
  let fn := s.func f
  voidRows (s.putFunc f { fn with
    swept := true, queues := fn.queues.map fun e => (e.1, { e.2 with state := 0, taken := none, accepted := [] }) }) f

/-- Whether step 5 is due (R444): the steps before it are over, and every batch with a row of the function has retired. -/
def resetOver (s : State) (f : Nat) : Bool :=
  resetStill s f && (s.func f).swept && s.batches.all fun b => b.rows.all fun r => (s.launch r.launch).f != f

/-- A launch of a function that has been reset: the Sequencer's state and the egress entries are gone (R444). -/
def Launch.clear (l : Launch) : Launch :=
  { l with
    live := false, xdom := {}, notices := [], fronts := List.replicate 4 {}, reports := [], pool := none, egress := [], rings := [], trace := none }

/-- Step 5 (R444): the function's state and data cleared. -/
def clearFunction (s : State) (f : Nat) : State :=
  let fn := s.func f
  let lo := 65536 * fn.sbase.toNat
  let hi := lo + 65536 * fn.slen.toNat
  let s : State := { s with
    launches := s.launches.map fun l => if l.f = f then l.clear else l
    dies := s.dies.map fun d => { d with scratch := d.scratch.filter fun e => e.1 < lo || hi ≤ e.1 }
    cores := s.cores.map fun c => { c with left := c.left.filter fun e => e.1 != f } }
  s.putFunc f { fn with
    state := if fn.disable then 0 else 1, disable := false, swept := false, mbox := [], puts := [], evtNum := 0, evreqs := [] }

/-- FUNCTION_RESET_COMPLETE (R444): the end of step 3 and step 4, and once they are over steps 5 and 6: STATE leaves 2, and the TYPE
0x0B message has number 0. -/
def execFunctionResetComplete (s : State) : Host.Outcome State Fault Refusal :=
  .next <|
    let s := if resetSweeps s s.ev.f then sweepFunction s s.ev.f else s
    if resetOver s s.ev.f then sendEvent (clearFunction s s.ev.f) s.ev.f 0xB [0] else s

/-! ## Attestation -/

/-- The bytes of the in-service mask (R452). -/
def serviceMask (s : State) : Nat :=
  (List.range 256).foldl (fun n c => if (s.core c).inService then n + 2 ^ c else n) 0

/-- A write to ATTREQ (R451). -/
def attestRequest (s : State) (f : Nat) (v : BitVec 64) : State :=
  let fn := s.func f
  if v.extractLsb' 57 7 != 0 || v.extractLsb' 0 8 != 0 || fn.attest.isSome then s
  else s.putFunc f { fn with attest := some (v.toNat, fn.nonce) }

def execAttestationRequest (s : State) : Host.Outcome State Fault Refusal := .next (attestRequest (wakeModule s) s.ev.f s.ev.v)

/-- Bytes 0x000 to 0x0FF of a report (R451). -/
def reportHead (s : State) (f : Nat) (nonce : BitVec 256) : List Byte :=
  leBytes 4 0x54414E46 ++ leBytes 4 (if f < 64 then f else 0xFFFFFFFF) ++ leBytes 32 nonce.toNat ++ leBytes 32 s.svc.digest.toNat ++
    leBytes 8 s.svc.version.toNat ++ leBytes 8 s.svc.fused.toNat ++ leBytes 32 (serviceMask s) ++ List.replicate 136 0

/-- Whether a port still holds the report of a function (R365, R451). -/
def reportOut (s : State) (fn : Func) : Bool := fn.report.any fun k => s.portWrites.any (·.id == k)

/-- ATTESTATION_REPORT (R451): the report is sent, its signature an input (log 10); a second such step, once the host has it, sends
the event message. -/
def execAttestationReport (s : State) : Host.Outcome State Fault Refusal :=
  .next <|
    let f := s.ev.f
    let fn := s.func f
    match fn.attest, fn.report with
    | none, _ => s
    | some (a, n), none =>
      let head := reportHead s f n
      let sig := (List.range 16224).map (Config.signature (leNat head))
      (s.putFunc f { fn with report := some s.nextId }).ioStore none (.host a) (head ++ sig)
    | some _, some _ =>
      if reportOut s fn then s else sendEvent (s.putFunc f { fn with attest := none, report := none }) f 0xC [16480]

/-! ## Power and temperature -/

/-- IDLE_ENTRY (R445). -/
def execIdleEntry (s : State) : Host.Outcome State Fault Refusal :=
  .next <|
    if s.svc.power = .run ∧ 1000000 ≤ s.svc.idle ∧ idleModule s then { s with svc := { s.svc with power := .idle } } else s

/-- IDLE_EXIT (R445): a notify, remote access or sideband request. -/
def execIdleExit (s : State) : Host.Outcome State Fault Refusal :=
  .next <| if s.svc.power = .idle then { s with svc := { s.svc with power := .run, idle := 0 } } else s

/-- Off: nothing on the module is kept but its fuses (R445, R449); hosts, peers and the model's own schedule go on. -/
def powerOff (s : State) : State :=
  { State.reset with
    ev := s.ev, schedule := s.schedule, ticks := s.ticks, freeIx := s.freeIx, time := s.time, nextId := s.nextId
    host := s.host, peers := s.peers, peerTags := s.peerTags, outbox := s.outbox
    svc := { power := .off, fused := s.svc.fused, keyDigest := s.svc.keyDigest, peerId := s.svc.peerId, stateRead := .off } }

/-- POWER_LOSS and THERMAL_SHUTDOWN (R445, R447). -/
def execPowerLoss (s : State) : Host.Outcome State Fault Refusal := .next (powerOff s)
def execThermalShutdown (s : State) : Host.Outcome State Fault Refusal :=
  .next <| if s.svc.power = .off then s else powerOff s

/-- POWER_WINDOW (R446): the average of a window, in watts. -/
def execPowerWindow (s : State) : Host.Outcome State Fault Refusal :=
  .next <|
    if 1600 < s.ev.n then { s with svc := { s.svc with throttle := true } }
    else if s.ev.n < 1550 then { s with svc := { s.svc with throttle := false } }
    else s

/-- OVER_TEMPERATURE (R447): a die above 95 °C. -/
def execOverTemperature (s : State) : Host.Outcome State Fault Refusal :=
  .next <| if s.svc.hot.contains s.ev.die then s else { s with svc := { s.svc with hot := s.svc.hot ++ [s.ev.die] } }

/-- DIE_TEMPERATURE_FALLS (R447): every die is at 95 °C or below. -/
def execDieTemperatureFalls (s : State) : Host.Outcome State Fault Refusal := .next { s with svc := { s.svc with hot := [] } }

/-- TELEMETRY_REFRESH (R448): power, die temperatures and coolant temperatures as measured, and the power state. -/
def execTelemetryRefresh (s : State) : Host.Outcome State Fault Refusal :=
  .next { s with svc := { s.svc with
    reading := s.ev.n, dieTemps := s.ev.nums, coolant := s.ev.pairs.map (·.2), stateRead := s.svc.power } }

/-! ## Bring-up -/

/-- Fields of the header of a firmware image, and the image (R449). -/
def FwImage.length (i : FwImage) : Nat := leNat ((i.bytes.drop 4).take 4)
def FwImage.version (i : FwImage) : BitVec 64 := BitVec.ofNat 64 (leNat ((i.bytes.drop 8).take 8))
def FwImage.key (i : FwImage) : List Byte := (i.bytes.drop 0x10).take 32
def FwImage.signature (i : FwImage) : List Byte := (i.bytes.drop 0x30).take 7856
def FwImage.image (i : FwImage) : List Byte := (i.bytes.drop 0x1EE0).take i.length

/-- A digest as State holds it: its first byte the lowest. -/
def digestOf (bs : List Byte) : BitVec 256 := BitVec.ofNat 256 (leNat (sha256 bs))

/-- The four conditions under which the ROM accepts an image (R449); the length is looked at first, as no slot that ends before
the image's last byte holds the image (log 10). -/
def FwImage.ok (i : FwImage) (keyDigest : BitVec 256) (fused : BitVec 64) : Bool :=
  i.length ≤ 2 ^ 26 && i.image.length == i.length && !i.version.ult fused && digestOf i.key == keyDigest &&
    slhVerifies i.key i.signature i.image

/-- Bring-up with an accepted image: the cores `fail` fail their test, the CXL capacity is `cap`, and firmware populates
`room` bytes of each queue memory (R449, R450, R43). -/
def bringUp (s : State) (i : FwImage) (fail : List Nat) (cap room : Nat) : State :=
  let o := powerOff s
  { o with
    cores := (List.range 256).map fun c => { inService := !fail.contains c }
    svc := { o.svc with
      power := .run, stateRead := .run, digest := digestOf i.image, version := i.version
      fused := if s.svc.fused.ult i.version then i.version else s.svc.fused, cxlCap := min cap (2 ^ 43)
      qmemLen := min room (2 ^ 26) } }

/-- The first of the two slots of the board flash that the ROM accepts (R449). -/
def acceptedImage (s : State) : Option FwImage :=
  [s.ev.image0, s.ev.image1].find? (·.ok s.svc.keyDigest s.svc.fused)

/-- POWER_GOOD (R450): the first slot that the ROM accepts; with neither, the module stays in step 2. -/
def execPowerGood (s : State) : Host.Outcome State Fault Refusal :=
  .next <|
    if s.svc.power = .run ∨ s.svc.power = .idle then s
    else
      match acceptedImage s with
      | some i => bringUp s i s.ev.nums s.ev.n s.ev.off
      | none => { powerOff s with svc := { (powerOff s).svc with power := .bringup, stateRead := .bringup } }

/-! ## ECC errors -/

/-- A team halted with cause 0x30 (R398, R396). -/
def eccHalt (s : State) (t : Nat) (lo : Word) : State :=
  if (s.team t).ctl.inh then doubleFault s t 0x30 else haltFault s t 0x30 lo 0

/-- A core leaves service: its harnesses are discarded, its teams reported halted (R452). -/
def leaveService (s : State) (c : Nat) (lo : Word) (told : List Nat) : State :=
  let k := s.core c
  let s := s.putCore c { k with
    inService := false, resident := none, preempt := false, heldReq := []
    parts := k.parts.map fun q => { q with active := [], pending := [], changes := [], busy := List.replicate 8 none } }
  (List.range s.harnesses.length).foldl (fun s h =>
    let x := s.harness h
    if x.core != c || !x.alive then s
    else
      let ts := teamsOf s h
      let s := (ts.filter fun t => !told.contains t && (s.team t).place != .ended).foldl (fun s t => eccHalt s t lo) s
      let s := dropHolders s (((s.transfers.filter (·.h == h)).map (·.id)) ++ ((s.graded.filter (·.h == h)).map (·.id)) ++
        ((s.copies.filter (·.h == h)).map (·.id)))
      let s : State := { s with
        ops := s.ops.filter fun o => !ofHarness s h o.party, transfers := s.transfers.filter (·.h != h)
        graded := s.graded.filter (·.h != h), copies := s.copies.filter (·.h != h) }
      discard s h) s

/-- UNCORRECTABLE_DATA_ERROR (R398, R452): an event on core `core` that affects teams `nums`; `n` is the address or the
register byte. The second event of a power-on takes the core out of service. -/
def execUncorrectableDataError (s : State) : Host.Outcome State Fault Refusal :=
  .next <|
    let c := s.ev.core
    let lo := w32 s.ev.n
    let ts := s.ev.nums.filter fun t => (s.team t).info.core == c && (s.team t).place != .ended
    let k := s.core c
    if !k.inService then s
    else
      let s := s.putCore c { k with uncorr := k.uncorr + 1 }
      let s := ts.foldl (fun s t => eccHalt s t lo) s
      if 2 ≤ k.uncorr + 1 then leaveService s c lo ts else s

/-- CORRECTED_ECC_ERROR (R436). -/
def execCorrectedEccError (s : State) : Host.Outcome State Fault Refusal :=
  .next <|
    let k := s.core s.ev.core
    let d := s.die s.ev.die
    match s.ev.place with
    | .shared => s.putCore s.ev.core { k with eccShared := k.eccShared + 1 }
    | .regs => s.putCore s.ev.core { k with eccRegs := k.eccRegs + 1 }
    | .scratch => s.putDie s.ev.die { d with eccScratch := d.eccScratch + 1 }
    | .hbm => s.putDie s.ev.die { d with eccHbm := d.eccHbm + 1 }

end Sys2Proof.Machine
end

