-- ==== Sys2Proof/Machine/Remote.lean ====
section
/-! DEFINITION. A function's aperture (R43, R44): its windows, remote writes, reads and atomic adds, and what a write to each
register does (R45, R51, R420, R431, R438, R451, R452). -/

namespace Sys2Proof.Machine

/-- The windows of an aperture (R43). -/
inductive Window where
  | queues (q part : Nat)
  | events (off : Nat)
  | notify | reply | invseq | dbgcmd | dbgdata | attreq
  | nonce (part : Nat)
  | funcs (f part : Nat)
  | service (part : Nat)
  | cxl
  | qmem (off : Nat)
  | mbox (off : Nat)
  deriving DecidableEq, Repr

/-- The window of an aligned 8-byte part below the device-memory window; none outside every listed window, and beyond the
`n` populated bytes of queue memory (log 87). -/
def windowOf (n f o : Nat) : Option Window :=
  let pf := decide (64 ≤ f)
  if o < 0x10000 then some (.queues (o / 32) (o % 32 / 8))
  else if o < 0x20000 then some (.events (o - 0x10000))
  else if o = 0x20000 then some .notify
  else if o = 0x20008 then some .reply
  else if o = 0x20010 then some .invseq
  else if o = 0x20018 then some .dbgcmd
  else if o = 0x20020 then some .dbgdata
  else if o = 0x20030 then some .attreq
  else if 0x20040 ≤ o ∧ o < 0x20060 then some (.nonce ((o - 0x20040) / 8))
  else if pf ∧ 0x30000 ≤ o ∧ o < 0x30800 then some (.funcs ((o - 0x30000) / 32) (o % 32 / 8))
  else if pf ∧ 0x30800 ≤ o ∧ o < 0x30820 then some (.service ((o - 0x30800) / 8))
  else if pf ∧ o = 0x30820 then some .cxl
  else if 0x1000000 ≤ o ∧ o < 0x1000000 + n then some (.qmem (o - 0x1000000))
  else if 0x8000000 ≤ o ∧ o < 0x9000000 then some (.mbox (o - 0x8000000))
  else none

/-! ## Registers -/

/-- Two words as the low and high half of 8 bytes. -/
def pair64 (lo hi : Word) : BitVec 64 := hi ++ lo

/-- Words 0 to 7 of a queue entry in pairs (R45). -/
def readQueue (x : Queue) (part : Nat) : BitVec 64 :=
  match part with
  | 0 => pair64 (w32 (x.state * 2 ^ 24 + x.logn * 2 ^ 16)) x.ringoff
  | 1 => pair64 x.lastacc x.lastcomp
  | 2 => pair64 x.rdidx x.nextseq
  | _ => 0

/-- Words 0 to 7 of a function-table entry in pairs (R438). -/
def readFunc (x : Func) (part : Nat) : BitVec 64 :=
  match part with
  | 0 => x.root.setWidth 64
  | 1 => pair64 (w32 (x.slw.toNat * 2 ^ 24 + x.wmw.toNat * 2 ^ 16 + x.bfgrp.toNat * 2 ^ 12 + x.ccnt.toNat))
      (w32 (x.cbase.toNat * 2 ^ 24 + x.slen.toNat * 2 ^ 12 + x.sbase.toNat))
  | 2 => x.evtaddr
  | _ => (w32 (x.state * 16)).setWidth 64

/-- Eight bytes of a memory. -/
def part64 (m : Memory) (a : Nat) : BitVec 64 := BitVec.ofNat 64 (leNat (memBytes m a 8))

/-- What an 8-byte part reads as (R43, R51). -/
def readPart (s : State) (f : Nat) : Window → BitVec 64
  | .queues q p => readQueue (s.queue f q) p
  | .events o => BitVec.ofNat 64 ((sget 0 (s.func f).evlog (o / 32)).toNat / 2 ^ (8 * (o % 32)))
  | .invseq => (s.func f).invseq
  | .dbgdata => (s.func f).dbgdata
  | .nonce p => (s.func f).nonce.extractLsb' (64 * p) 64
  | .funcs g p => readFunc (s.func g) p
  | .service p => BitVec.ofNat 64 (serviceMask s / 2 ^ (64 * p))
  | .cxl => BitVec.ofNat 64 s.svc.cxlCap
  | .qmem o => part64 (s.func f).qmem o
  | .mbox o => part64 (s.func f).mbox o
  | .notify => 0
  | .reply => 0
  | .dbgcmd => 0
  | .attreq => 0

/-- A queue entry with the RW fields of a part written, where its STATE lets them be (R45). -/
def writeQueue (x : Queue) (part : Nat) (v : BitVec 64) : Queue :=
  if x.state != 0 && x.state != 2 && x.state != 3 then x
  else
    match part with
    | 0 => { x with logn := (v.extractLsb' 16 5).toNat, ringoff := v.extractLsb' 32 32 }
    | 2 => { x with nextseq := v.extractLsb' 32 32 }
    | _ => x

/-- A function-table entry with the fields of a part written, while its STATE is 0 (R438). -/
def writeFunc (x : Func) (part : Nat) (v : BitVec 64) : Func :=
  if x.state != 0 then x
  else
    match part with
    | 0 => { x with root := (v.extractLsb' 17 40 ++ (0 : BitVec 17)) }
    | 1 => { x with
        slw := v.extractLsb' 24 8, wmw := v.extractLsb' 16 8, bfgrp := v.extractLsb' 12 4, ccnt := v.extractLsb' 0 9
        cbase := v.extractLsb' 56 8, slen := v.extractLsb' 44 12, sbase := v.extractLsb' 32 12 }
    | 2 => { x with evtaddr := v.extractLsb' 5 59 ++ (0 : BitVec 5) }
    | _ => x

/-- The fields without behaviour of their own that a part holds take the value `v` (R45, R431, R438, R451). -/
def writePlain (s : State) (f : Nat) (w : Window) (v : BitVec 64) : State :=
  match w with
  | .queues q p => if q < 2048 then s.putQueue f q (writeQueue (s.queue f q) p v) else s
  | .dbgdata => s.putFunc f { s.func f with dbgdata := v }
  | .nonce p =>
    let n := (s.func f).nonce
    let keep := n &&& ~~~((BitVec.allOnes 64).setWidth 256 <<< (64 * p))
    s.putFunc f { s.func f with nonce := keep ||| (v.setWidth 256 <<< (64 * p)) }
  | .funcs g p => s.putFunc g (writeFunc (s.func g) p v)
  | _ => s

/-- The debug command of a write to DBGCMD, with its fields (R431). -/
def debugEvent (f : Nat) (v : BitVec 64) : Option (Instr × EvArgs) :=
  let ev : EvArgs :=
    { f := f, lane := (v.extractLsb' 36 10).toNat, opnd := (v.extractLsb' 28 8).toNat, ctl := v.getLsbD 27
      cid := (v.extractLsb' 18 9).toNat, role := (v.extractLsb' 16 2).toNat, tid := (v.extractLsb' 8 8).toNat
      path := (v.extractLsb' 4 4).toNat }
  if v.extractLsb' 46 18 != 0 then none
  else
    match (v.extractLsb' 0 4).toNat with
    | 1 => some (.debugHalt, ev)
    | 2 => some (.debugResume, ev)
    | 3 => some (.debugStepPath, ev)
    | 4 => some (.debugHoldPath, ev)
    | 5 => some (.debugReleasePath, ev)
    | 6 => some (.debugRead, ev)
    | 7 => some (.debugWrite, ev)
    | _ => none

/-- A reply or an invalidation (R420). -/
def replyWrite (s : State) (f : Nat) (v : BitVec 64) : State :=
  if v.extractLsb' 57 7 != 0 || v.extractLsb' 14 2 != 0 then s
  else
    match (v.extractLsb' 0 2).toNat with
    | 0 => replyServed s f (v.extractLsb' 2 10).toNat
    | 1 => replyRefused s f (v.extractLsb' 2 10).toNat
    | 2 => invalidatePage s f (v.extractLsb' 16 41).toNat (v.extractLsb' 12 2).toNat
    | _ => invalidate s f 0 (2 ^ 57)

/-- What a write of `v` to a part commands, after its fields are written (R45, R46, R51, R420, R431, R438, R451). -/
def writeCommand (s : State) (f : Nat) (w : Window) (v : BitVec 64) : State :=
  match w with
  | .queues q 0 =>
    match (v.extractLsb' 0 8).toNat with
    | 1 => queueCreate s f q
    | 2 => queueDestroy s f q
    | 3 => queueResume s f q
    | _ => s
  | .notify => notify s f (v.extractLsb' 0 11).toNat (v.extractLsb' 32 32)
  | .reply => replyWrite s f v
  | .dbgcmd =>
    match debugEvent f v with
    | some (i, ev) => s.post i ev
    | none => s
  | .attreq => attestRequest s f v
  | .funcs g 3 =>
    match (v.extractLsb' 0 4).toNat with
    | 1 => functionEnable s g
    | 2 => beginReset s g false
    | 3 => beginReset s g true
    | _ => s
  | _ => s

/-! ## Parts -/

/-- The bytes of one aligned 8-byte part that an access covers: part offset, value and mask of the bytes written. -/
def partsOf (off : Nat) (bs : List Byte) : List (Nat × BitVec 64 × BitVec 64) :=
  (List.range ((off + bs.length + 7) / 8 - off / 8)).map fun j =>
    let o := (off / 8 + j) * 8
    let at' := fun (i : Nat) => if off ≤ o + i then bs[o + i - off]? else none
    let sum := fun (g : Byte → Nat) => BitVec.ofNat 64 ((List.range 8).foldl (fun n i => match at' i with
      | some b => n + g b * 2 ^ (8 * i)
      | none => n) 0)
    (o, sum (·.toNat), sum fun _ => 255)

/-- The window of a part of an aperture of the module. -/
def State.windowOf (s : State) (f o : Nat) : Option Window := Sys2Proof.Machine.windowOf s.svc.qmemLen f o

/-- Whether an access of `n` bytes at `off` lies in listed windows, and for a write outside the event log (R43). -/
def windowsOk (s : State) (f off n : Nat) (write : Bool) : Bool :=
  n != 0 && (List.range ((off + n + 7) / 8 - off / 8)).all fun j =>
    match s.windowOf f ((off / 8 + j) * 8) with
    | some (.events _) => !write
    | some _ => true
    | none => false

/-- The words of a mailbox that hosts may change: HEAD, TAIL and the slots (R388). -/
def mboxMask (o : Nat) : BitVec 64 := if 8 ≤ o % 256 ∧ o % 256 < 32 then 0 else BitVec.allOnes 64

/-- Whether a write to a part of queue memory covers the DOORBELL of a bound ring of the function (R405, R408). -/
def ringsDoorbell (s : State) (f o : Nat) (mask : BitVec 64) : Bool :=
  mask.extractLsb' 0 32 != 0 && s.launches.any fun l => l.live && l.f == f && l.rings.any fun r => r.base + 8 == o

/-- The fields of one part written (R44): memory windows take the bytes, registers their fields. -/
def writeFields (s : State) (f o : Nat) (v mask : BitVec 64) : State :=
  match s.windowOf f o with
  | some (.qmem a) => putQmem s f a (leBytes 8 ((part64 (s.func f).qmem a &&& ~~~mask) ||| (v &&& mask)).toNat)
  | some (.mbox a) =>
    let m := mask &&& mboxMask a
    putMbox s f a (leBytes 8 ((part64 (s.func f).mbox a &&& ~~~m) ||| (v &&& m)).toNat)
  | some w => writePlain s f w ((readPart s f w &&& ~~~mask) ||| (v &&& mask))
  | none => s

/-- What one part written commands: a register's command, a doorbell's check, room in a mailbox (R45, R389, R408). -/
def writeEffect (s : State) (f o : Nat) (v mask : BitVec 64) : State :=
  match s.windowOf f o with
  | some (.qmem a) => if ringsDoorbell s f a mask then checkCalls s f else s
  | some (.mbox a) => if a % 256 = 0 then mboxServe s f (a / 256) else s
  | some w => writeCommand s f w (v &&& mask)
  | none => s

/-- One part written: its fields, then its command (R45). -/
def writePart (s : State) (f o : Nat) (v mask : BitVec 64) : State := writeEffect (writeFields s f o v mask) f o v mask

/-- The parts of one write in ascending order: the fields of all of them before any command (R45; log 91). -/
def writeParts (s : State) (f : Nat) (l : List (Nat × BitVec 64 × BitVec 64)) : State :=
  l.foldl (fun s p => writeEffect s f p.1 p.2.1 p.2.2) (l.foldl (fun s p => writeFields s f p.1 p.2.1 p.2.2) s)

/-! ## Remote accesses -/

/-- An aperture answers: after bring-up, for the physical function and a virtual one that is not disabled (R450, R438). -/
def answers (s : State) (f : Nat) : Bool := (s.svc.power == .run || s.svc.power == .idle) && (64 ≤ f || (s.func f).state != 0)

def answer (s : State) (a : Answer) : State := { s with outbox := s.outbox ++ [a] }

/-- Start of the device-memory window (R43). -/
def deviceWindow : Nat := 2 ^ 32

/-- A remote write (R43, R44); one to a page of a peer or of host memory goes out through a port (R365, R424). It wakes an idle
module, be it refused or not (R445). -/
def remoteWrite (s0 : State) (f off : Nat) (bs : List Byte) : State :=
  let s := wakeModule s0
  let bad := answer s (.transportError f off)
  if !answers s f then bad
  else if deviceWindow ≤ off then
    let (s, r) := resolve s .io f .write (off - deviceWindow) bs.length
    match r.chk with
    | .ok => answer (ioPlaces none s r.locs bs) (.ok f off)
    | _ => answer s (.transportError f off)
  else if windowsOk s f off bs.length true then
    answer (writeParts s f (partsOf off bs)) (.ok f off)
  else bad

/-- A remote read (R43), of a peer or of host memory through a port (R365, R424). -/
def remoteRead (s0 : State) (f off n : Nat) : State :=
  let s := wakeModule s0
  let bad := answer s (.transportError f off)
  if !answers s f then bad
  else if deviceWindow ≤ off then
    let (s, r) := resolve s .io f .read (off - deviceWindow) n
    match r.chk with
    | .ok => answer s (.data f off (r.locs.flatMap fun e => s.ioBytes e.1 e.2))
    | _ => answer s (.transportError f off)
  else if windowsOk s f off n false then
    let parts := (List.range ((off + n + 7) / 8 - off / 8)).flatMap fun j =>
      match s.windowOf f ((off / 8 + j) * 8) with
      | some w => leBytes 8 (readPart s f w).toNat
      | none => []
    answer s (.data f off ((parts.drop (off % 8)).take n))
  else bad

/-- A remote atomic add on an aligned 64-bit word (R43); the answer holds the old value. The word's home adds: on a peer or in host
memory that is when its port's message arrives, and the answer comes with the acknowledgement (R365, R424; log 103). -/
def remoteAdd (s0 : State) (f off : Nat) (v : BitVec 64) : State :=
  let s := wakeModule s0
  let bad := answer s (.transportError f off)
  if !answers s f || off % 8 != 0 then bad
  else if deviceWindow ≤ off then
    let (s, r) := resolve s .io f .write (off - deviceWindow) 8
    match r.chk, r.locs with
    | .ok, (l, _) :: _ =>
      match portAt ioDie (freestPort s) l with
      | none => answer (s.addWord l v) (.data f off (leBytes 8 (s.word64 l).toNat))
      | some _ => sendWrite s { id := s.nextId, port := freestPort s, loc := l, bytes := [], add := some v, reply := some (f, off) }
    | _, _ => answer s (.transportError f off)
  else if windowsOk s f off 8 true then
    match s.windowOf f off with
    | some w =>
      let old := readPart s f w
      answer (writePart s f off (old + v) (BitVec.allOnes 64)) (.data f off (leBytes 8 old.toNat))
    | none => bad
  else bad

/-- REMOTE_WRITE, REMOTE_READ and REMOTE_ATOMIC_ADD (R43): function `f`, aperture offset `off`. -/
def execRemoteWrite (s : State) : Host.Outcome State Fault Refusal := .next (remoteWrite s s.ev.f s.ev.off s.ev.bytes)
def execRemoteRead (s : State) : Host.Outcome State Fault Refusal := .next (remoteRead s s.ev.f s.ev.off s.ev.n)
def execRemoteAtomicAdd (s : State) : Host.Outcome State Fault Refusal := .next (remoteAdd s s.ev.f s.ev.off s.ev.v)

/-- REGISTER_WRITE (R45, R431, R438, R451): the fields that have no behaviour of their own take the bytes. -/
def execRegisterWrite (s : State) : Host.Outcome State Fault Refusal :=
  .next <|
    let f := s.ev.f
    (partsOf s.ev.off s.ev.bytes).foldl (init := wakeModule s) fun s p => match s.windowOf f p.1 with
      | some w => writePlain s f w ((readPart s f w &&& ~~~p.2.2) ||| (p.2.1 &&& p.2.2))
      | none => s

end Sys2Proof.Machine
end

