-- ==== Sys2Proof/Machine/Background.lean ====
section
/-! DEFINITION. The steps without a word that the machine takes by itself when the schedule and the agenda name none: the
first of them whose condition holds (log 2). What comes from outside (host accesses, power, errors) stands in the schedule. -/

namespace Sys2Proof.Machine

/-- The first `some` of a list of candidates. -/
def firstOf (l : List (Option (Instr × EvArgs))) : Option (Instr × EvArgs) := l.findSome? id

def when (b : Bool) (i : Instr) (ev : EvArgs) : Option (Instr × EvArgs) := if b then some (i, ev) else none

/-- A step of one path of a team that waits. -/
def pathEvent (s : State) (t i : Nat) : Option (Instr × EvArgs) :=
  let x := s.team t
  match x.flow.paths.getD i none with
  | none => none
  | some p =>
    let ev : EvArgs := { team := t, path := i }
    match p.join with
    | some ⟨some d⟩ => when (d ≤ x.ctl.tmr.toNat && !p.held) .joinTimeout ev
    | some ⟨none⟩ => none
    | none =>
      match p.dep with
      | some (.sleep n) => when (n ≤ x.ctl.tmr.toNat) .sleepExpiry ev
      | some (.value a sc c v) => when (depMet s t (.value a sc c v)) .waitvPoll ev
      | some (.start n _ _) => when (canStart s x.info.harness n && coreRuns s x.info.harness) .shuttleProgramStart ev
      | _ => none

/-- A step of a team: a halt, a trap, the end of a quantum, of a service call, of the team; then its paths. -/
def teamEvent' (s : State) (t : Nat) : Option (Instr × EvArgs) :=
  let x := s.team t
  let ev : EvArgs := { team := t, f := s.fnOf t }
  firstOf
    [when (x.due.halt && !x.path.isOver && x.place != .ended) .debugHaltTaken ev,
     when (atPathBoundary s t && x.path.step) .stepTrap ev,
     when (atPathBoundary s t && (x.path.watch.head?.any (watchOver s t))) .watchpointTrap ev,
     when (atBoundary (trapPath s t) t && !x.pathTrap && x.due.shuttle != []) .shuttleFaultTrap ev,
     when (atBoundary (trapPath s t) t && !x.pathTrap && x.due.timer) .timerTrap ev,
     when (coreRuns s x.info.harness && quantumOver x && x.place == .active) .pathQuantumExpiry ev,
     when (teamOver x && (s.core x.info.core).resident == some x.info.harness) .teamEnd ev,
     when (callDone s t) .serviceRingCheck ev,
     if x.place == .active || x.place == .pending then (List.range 16).findSome? (pathEvent s t) else none]

/-- A step of a core: its slice, the idle rule, pre-emption, restore, then its partitions. -/
def coreEvent (s : State) (c : Nat) : Option (Instr × EvArgs) :=
  let ev : EvArgs := { core := c }
  firstOf
    [when (canSave s c) .preemptionComplete ev,
     when (canRestore s c) .contextRestore ev,
     when (sliceOver s c) .sliceExpiry ev,
     when (idleOver s c) .idleDeparture ev,
     if (s.core c).resident.isNone && (s.core c).parts.all (·.taken == []) then none
     else (List.range 8).findSome? fun p =>
       firstOf
         [when ((s.part c p).taken != []) .stallSample { core := c, part := p },
          when (!(s.core c).preempt && (wantedChange s c p).isSome) .setChange { core := c, part := p }]]

/-- A step of a harness: a piece of its copy queue taken, its ordered-add round closed. -/
def harnessEvent (s : State) (h : Nat) : Option (Instr × EvArgs) :=
  firstOf
    [(List.range 4).findSome? fun n => when (takesPiece s h n) .copyPieceTake { id := h, n := n },
     when (roundCloses s false h (s.harness h).launch) .roundClose { id := h, launch := (s.harness h).launch }]

/-- A step of a transfer that has not ended. -/
def transferEvent (s : State) (x : Transfer) : Option (Instr × EvArgs) :=
  if x.data.isNone then when (!readWaits s x) .lastSourceByteRead { id := x.id }
  else when (match x.held s with | some y => !sentBefore s y | none => !heldBack s x) .transferComplete { id := x.id }

/-- A step of a graded instruction in flight. -/
def gradedEvent (s : State) (x : GradedFlight) : Option (Instr × EvArgs) :=
  if x.kind.isNone then when (!readsLeft s x.party x.id) .ggetLanding { id := x.id }
  else when (match x.held s with | some y => !sentBefore s y | none => !gradedHeld s x.party x.id) .gradedWriteComplete { id := x.id }

/-- A step of a launch: tiles, reports, its ordered-add round, egress. -/
def launchEvent (s : State) (l : Nat) : Option (Instr × EvArgs) :=
  let x := s.launch l
  if !x.live then none
  else
    firstOf
      [(List.range 4).findSome? fun d => when ((x.fronts.getD d {}).transit != []) .dealtTileArrival { launch := l, die := d },
       when (canDeal s l) .tileDeal { launch := l },
       x.reports.findSome? fun r => when (!r.after.any (inProgress s)) .taskendReport { launch := l, id := r.id },
       when (roundCloses s true 0 l) .roundClose { ctl := true, launch := l },
       x.egress.findSome? fun e => when ((noteDue s e).isSome || (departs s l e).isSome) .egressDeparture { launch := l, n := e.stream }]

/-- The step of a GRAPHOP of an operation. -/
def graphopInstr (op : Nat) : Instr :=
  match op with
  | 1 => .graphopSetPriority
  | 2 => .graphopAppendTask
  | 3 => .graphopRemoveTask
  | 4 => .graphopDefinePool
  | 5 => .graphopBindEgress
  | 6 => .graphopBindServiceRing
  | _ => .graphopBindTraceRing

/-- The step that starts the action of a packet. -/
def packetInstr (p : Packet) : Instr :=
  match p.type with
  | 1 => .launch
  | 2 => .waitall
  | 3 => .waitany
  | 4 => .signal
  | 5 => .mbox
  | 6 => .gputPacket
  | 7 => .cancel
  | 8 => .copy
  | 9 => .qfence
  | 10 => graphopInstr (p.w 4).toNat
  | 11 => .eventreq
  | _ => .qprog

/-- The step that starts the packet at hand, its fields as its queue's program leaves them. -/
def startInstr (s : State) (f q : Nat) (p : Packet) : Instr :=
  match (qProgram s f (s.queue f q) p.words).2 with
  | .pass r => packetInstr { p with words := r.words }
  | _ => packetInstr p

/-- Whether an accepted packet that waits can go on. -/
def packetGoesOn (s : State) (f q : Nat) (p : Packet) : Bool :=
  match p.type with
  | 2 => match (comparisons f s ((List.range p.count).map p.entry)).2 with
    | some bs => bs.all id
    | none => true
  | 3 => match (comparisons f s ((List.range p.count).map p.entry)).2 with
    | some bs => bs.any id
    | none => true
  | 5 => (p.after.any fun ids => !stillOut s ids) && (s.func f).puts.all (·.who != .packet q p.id)
  | _ => true

/-- A step of a queue: a completion, an action, a packet read. -/
def queueEvent (s : State) (f q : Nat) : Option (Instr × EvArgs) :=
  let x := s.queue f q
  firstOf
    [x.accepted.findSome? fun p => when (p.started && p.done && p.settled s f q) .packetCompletion { f := f, q := q, seq := p.seq },
     x.accepted.findSome? fun p =>
       let ev : EvArgs := { f := f, q := q, seq := p.seq }
       if (packetFor s f q p.seq p.type).isNone then none
       else when (packetGoesOn s f q p) (if p.type = 2 ∨ p.type = 3 then .waitEvaluation else packetInstr p) ev,
     x.held.bind fun p => when (hasTurn s f q) (packetInstr p) { f := f, q := q, seq := p.seq },
     x.taken.bind fun p => when (hasTurn s f q) (startInstr s f q p) { f := f, q := q, seq := p.seq },
     when (canRead s f q && match validPacket s f q with
       | some p => p.seq != x.nextseq || !mayStart x.accepted p || hasTurn s f q
       | none => false) .packetAccept { f := f, q := q }]

/-- A step of a function: its queues, event requests, invalidations, attestation, the end of its reset. -/
def funcEvent (s : State) (f : Nat) : Option (Instr × EvArgs) :=
  let fn := s.func f
  firstOf
    [fn.queues.findSome? fun e => queueEvent s f e.1,
     if fnUp s f then
       (List.range fn.evreqs.length).findSome? fun i => match fn.evreqs[i]? with
         | some r => when (eventHolds s f r) .eventreqConditionHolds { f := f, n := i }
         | none => none
     else none,
     when (fn.invals.head? == some []) .invalidationComplete { f := f },
     when (fn.attest.isSome && !reportOut s fn) .attestationReport { f := f },
     when (resetSweeps s f || resetOver s f) .functionResetComplete { f := f }]

/-! ## Time -/

/-- The cycles of one step: the traps that come before a swap asked for in the cycle that ends, how the teams stand, the samples taken
in them, what passes, the writes that homes apply, and how the teams then stand; in off no clock runs (R445). -/
def pass (n : Nat) (s : State) : State :=
  if s.svc.power = .off then s
  else
    let asked := s.cores.any fun k => (askedNow s k).isSome
    let s := noteStandings (if asked && n != 0 then endCycle s else s)
    noteStandings (applySent (passTime n { s with cores := s.cores.map (sampleCore s n) }))

/-- Whether a step without a word can happen in the present power state: in off nothing on the module runs, and in bring-up
it answers accesses with transport errors and reports on the sideband (R445, R449, R450). -/
def awake (s : State) (i : Instr) : Bool :=
  match s.svc.power with
  | .run => true
  | .idle => true
  | .off => i == .powerGood
  | .bringup =>
    [Instr.powerGood, .remoteWrite, .remoteRead, .remoteAtomicAdd, .powerLoss, .thermalShutdown, .telemetryRefresh].contains i

/-- The time of one step: then the passes and waves act that come before its turn (R229; log 2, log 6). -/
def tick (turn : Turn) (s : State) : State :=
  let s := pass (turnCycles turn s) s
  let s := runDue (s.time * 20000 + turnPlace s turn) s
  { s with ticks := s.ticks + 1, freeIx := s.freeIx + 1, sweep := turnEnd s turn }

/-- The step that the machine takes by itself, if any. -/
def background (s : State) : Option (Instr × EvArgs) :=
  if s.svc.power = .off ∨ s.svc.power = .bringup then none
  else
    firstOf
      [s.transfers.findSome? (transferEvent s),
       s.graded.findSome? (gradedEvent s),
       s.ops.findSome? fun o => when (o.slot.isSome && !fenced s o.after) .storePerformed { id := o.id },
       s.portWrites.findSome? fun x => when (!sentBefore s x.held) .transferComplete { id := x.id },
       (List.range s.teams.length).findSome? (teamEvent' s),
       (List.range s.harnesses.length).findSome? (harnessEvent s),
       (List.range s.launches.length).findSome? (launchEvent s),
       s.batches.findSome? fun b => when (windowOver s b) .batchWindowExpiry { launch := b.group, seq := b.no },
       (List.range 256).findSome? (coreEvent s),
       (List.range 65).findSome? (funcEvent s),
       when (s.svc.power == .run && 1000000 ≤ s.svc.idle && idleModule s) .idleEntry {},
       when (s.svc.power == .idle && !idleModule s) .idleExit {}]

end Sys2Proof.Machine
end

