-- ==== Sys2Proof/Machine/Shuttles.lean ====
section
/-! DEFINITION. Row 0xB: the instructions of Shuttle programs (R243, R270 to R282). -/

namespace Sys2Proof.Machine

/-- What R98 and R270 need of an instruction of row 0xB. -/
def rulesRowB (ok : Bool) : Rules where
  team := false
  shuttle := true
  legal := fun _ => ok

/-- c0 to c3. -/
def isC (x : Byte) : Bool := 0xF0 ≤ x.toNat && x.toNat < 0xF4
/-- p0 to p3. -/
def isP4 (x : Byte) : Bool := 0xE0 ≤ x.toNat && x.toNat < 0xE4

/-- The issuing Shuttle and its replacement. -/
def State.mine (s : State) : Nat × Nat :=
  match s.cur with
  | .shuttle h n => (h, n)
  | _ => (s.harnesses.length, 0)

def State.sh (s : State) : Shuttle := s.shuttle s.mine.1 s.mine.2
def State.putSh (s : State) (x : Shuttle) : State := s.putShuttle s.mine.1 s.mine.2 x

/-- A cursor of the issuing Shuttle, none when it is empty (R243). -/
def cursorOf (s : State) (c : Byte) : Option Cursor := s.sh.cursors.getD (c.toNat - 0xF0) none

/-- A wait that SHSTAT shows as STATE 2 (R256). -/
def pause (s : State) : Eff := .wait (waiting s) .retry

/-! ## Transfers -/

/-- The checks of a barrier operand at issue (R248). -/
def barrierFault (b : Option Nat) : Option Eff :=
  match b with
  | some x =>
    if x % 16 != 0 then some (.fault 0x03 (w32 x) 0)
    else if Config.sharedBytes ≤ x then some (.fault 0x04 (w32 x) 0)
    else none
  | none => none

/-- A barrier operand that may be zero. -/
def barrierOf (w : View) (b : Byte) : Option Nat := if isZero b then none else some (rd w b 0).toNat

/-- A transfer whose operands and alignment have passed: ranges, live slots, pages, and the waits of R246. -/
def issueTransfer (s : State) (add : Bool) (barrier : Option Nat) (runs : List Run) : Eff :=
  let (h, n) := s.mine
  let f := s.curFn
  match rangeFault s f runs with
  | some e => e
  | none =>
    match liveFault (s.harness h) runs with
    | some e => e
    | none =>
      let (s, m) := resolveRuns (.shuttle h n) f h add s runs
      match m.chk.eff s with
      | some e => e
      | none =>
        let locks := lockEntries s.nextId (some n) m.segs
        let hh := s.harness h
        if !flightRoom s h n (segBytes m.segs) || 64 < hh.locks.length + locks.length then .wait s .retry
        else
          let x : Transfer :=
            { id := s.nextId, h := h, shuttle := n, segs := m.segs, add := add, barrier := barrier, copy := none
              data := none, reg := none, word := none, pages := m.pages }
          .done (startTransfer (s.fresh.putHarness h { hh with locks := hh.locks ++ locks }) x)

/-- The run between shared memory at `a` and a cursor's space at `p`. -/
def cursorRun (c : Cursor) (toShared : Bool) (a : Nat) (p : Int) : Run :=
  if toShared then ⟨spaceOf c.space, p, .shared, a, c.run⟩ else ⟨.shared, a, spaceOf c.space, p, c.run⟩

/-- The body of TLD, TST and TADD (R273, R276). -/
def moveBody (i : Instr) (toShared add : Bool) (d a b : Byte) (w : View) (s : State) : Eff :=
  match cursorOf s a with
  | none => illegal i s
  | some c =>
    let p := (rd w d 0).toNat
    if p % 4 != 0 then .fault 0x03 (w32 p) 0
    else
      match barrierFault (barrierOf w b) with
      | some e => e
      | none => issueTransfer s add (barrierOf w b) [cursorRun c toShared p c.addr]

def execTld (d a b : Byte) (s : State) : Host.Outcome State Fault Refusal :=
  issue (.tld d a b) (rulesRowB (isS d && isC a && isSZ b)) (moveBody (.tld d a b) true false d a b) s
def execTst (d a b : Byte) (s : State) : Host.Outcome State Fault Refusal :=
  issue (.tst d a b) (rulesRowB (isS d && isC a && isSZ b)) (moveBody (.tst d a b) false false d a b) s
def execTadd (d a b : Byte) (s : State) : Host.Outcome State Fault Refusal :=
  issue (.tadd d a b) (rulesRowB (isS d && isC a && isSZ b)) (moveBody (.tadd d a b) false true d a b) s

/-- The body of TGAT and TSCA (R274). -/
def rowsBody (i : Instr) (toShared : Bool) (d a b : Byte) (w : View) (s : State) : Eff :=
  match cursorOf s a with
  | none => illegal i s
  | some c =>
    let p := (rd w d 0).toNat
    let list := (rdS w b 0).toNat
    let n := (rdS w b 1).toNat
    let bar := (rdS w b 2).toNat
    if c.ndim < 2 then illegal i s
    else if p % 4 != 0 then .fault 0x03 (w32 p) 0
    else if list % 4 != 0 then .fault 0x03 (w32 list) 0
    else if bar % 16 != 0 then .fault 0x03 (w32 bar) 0
    else if n = 0 || 65536 < n * c.run then .fault 0x04 (w32 n) 0
    else if Config.sharedBytes < list + 4 * n then .fault 0x04 (w32 list) 0
    else if Config.sharedBytes ≤ bar then .fault 0x04 (w32 bar) 0
    else
      let idx := (List.range n).map fun j => memWord (s.harness s.curHarness).shared (list + 4 * j)
      match idx.find? fun x => c.cnt.getD 0 0 ≤ x.toNat with
      | some x => .fault 0x04 x 0
      | none =>
        issueTransfer s false (some bar) ((List.range n).map fun j =>
          cursorRun c toShared (p + j * c.run) (c.addr + (idx.getD j 0).toNat * c.str.getD 0 0))

def execTgat (d a b : Byte) (s : State) : Host.Outcome State Fault Refusal :=
  issue (.tgat d a b) (rulesRowB (isS d && isC a && isS b && b.toNat ≤ 0xDD)) (rowsBody (.tgat d a b) true d a b) s
def execTsca (d a b : Byte) (s : State) : Host.Outcome State Fault Refusal :=
  issue (.tsca d a b) (rulesRowB (isS d && isC a && isS b && b.toNat ≤ 0xDD)) (rowsBody (.tsca d a b) false d a b) s

/-- TZERO (R275). -/
def execTzero (d a b : Byte) (s : State) : Host.Outcome State Fault Refusal :=
  issue (.tzero d a b) (rulesRowB (isS d && isS a && isSZ b))
    (fun w s =>
      let p := (rd w d 0).toNat
      let n := (rd w a 0).toNat
      if p % 4 != 0 then .fault 0x03 (w32 p) 0
      else if n % 4 != 0 then .fault 0x03 (w32 n) 0
      else
        match barrierFault (barrierOf w b) with
        | some e => e
        | none =>
          if n < 4 || 65536 < n then .fault 0x04 (w32 n) 0
          else if Config.sharedBytes < p + n then .fault 0x04 (w32 p) 0
          else if liveHit (s.harness s.curHarness) p n then .fault 0x06 (w32 p) 0
          else
            let (h, k) := s.mine
            let hh := s.harness h
            let segs : List Seg := [⟨.zero, .shared h p, n⟩]
            let locks := lockEntries s.nextId (some k) segs
            if !flightRoom s h k n || 64 < hh.locks.length + 1 then .wait s .retry
            else
              let x : Transfer :=
                { id := s.nextId, h := h, shuttle := k, segs := segs, add := false, barrier := barrierOf w b, copy := none
                  data := none, reg := none, word := none }
              .done (startTransfer (s.fresh.putHarness h { hh with locks := hh.locks ++ locks }) x)) s

/-- The far word of XLD and XST: its checks, then the transfer (R277). -/
def farWord (s : State) (va : Nat) (store : Option Word) (reg : Byte) : Eff :=
  let (h, n) := s.mine
  if va % 4 != 0 then .fault 0x03 (w32 va) 0
  else if 2 ^ 57 ≤ va then .fault 0x04 (w32 va) 0
  else
    let (s, r) := resolve s (.shuttle h n) s.curFn (if store.isSome then .write else .read) va 4
    match r.chk.eff s with
    | some e => e
    | none =>
      if !flightRoom s h n 4 then .wait s .retry
      else
        let l := (r.locs.head?.map (·.1)).getD .zero
        let seg : Seg := if store.isSome then ⟨.zero, l, 4⟩ else ⟨l, .zero, 4⟩
        let x : Transfer :=
          { id := s.nextId, h := h, shuttle := n, segs := [seg], add := false, barrier := none, copy := none
            data := store.map fun v => leBytes 4 v.toNat, reg := if store.isSome then none else some (reg, 0)
            word := store, pages := r.pages }
        let s := s.fresh
        let y := s.sh
        let s := if store.isSome then s else s.putSh { y with marks := y.marks ++ marksFor y.pc x.id [reg] }
        .done (startTransfer s x)

/-- The far address of XLD and XST. -/
def farAddr (w : View) (a b : Byte) : Nat := (rdS w a 1 ++ rdS w a 0).toNat + (rd w b 0).toNat

def execXld (d a b : Byte) (s : State) : Host.Outcome State Fault Refusal :=
  issue (.xld d a b) (rulesRowB (isS d && isBase 2 a && isSZ b)) (fun w s => farWord s (farAddr w a b) none d) s
def execXst (d a b : Byte) (s : State) : Host.Outcome State Fault Refusal :=
  issue (.xst d a b) (rulesRowB (isS d && isBase 2 a && isSZ b)) (fun w s => farWord s (farAddr w a b) (some (rd w d 0)) d) s

/-! ## Cursors and loops -/

/-- TCUR (R271). -/
def execTcur (d a : Byte) (s : State) : Host.Outcome State Fault Refusal :=
  issue (.tcur d a) (rulesRowB (isC d && isS a))
    (fun w s =>
      let p := (rd w a 0).toNat
      match descFault p 64 64 with
      | some e => e
      | none =>
        let x := readTensor (s.harness s.curHarness).shared p
        if !x.ok false || x.ssp = 0 || 65536 < x.run then illegal (.tcur d a) s
        else
          match x.misaligned false p with
          | some b => .fault 0x03 (w32 b) 0
          | none =>
            let c : Cursor :=
              { space := x.ssp, src := x.src, run := x.run, ndim := x.ndim, cnt := x.cnt, str := x.sstr, idx := [0, 0, 0, 0]
                addr := x.src }
            .done (s.putSh { s.sh with cursors := s.sh.cursors.set (d.toNat - 0xF0) (some c) })) s

/-- The loop of R272 from dimension `d` on, with its wrap. -/
def stepCursor (c : Cursor) : Nat → Nat → Cursor × Bool
  | 0, _ => (c, false)
  | k + 1, d =>
    let i := c.idx.getD (d - 1) 0 + 1
    let n := c.cnt.getD (d - 1) 0
    let st := c.str.getD (d - 1) 0
    let c : Cursor := { c with idx := c.idx.set (d - 1) i, addr := c.addr + st }
    if i < n then (c, false)
    else
      let c : Cursor := { c with idx := c.idx.set (d - 1) 0, addr := c.addr - n * st }
      if d = c.ndim - 1 then (c, true) else stepCursor c k (d + 1)

/-- TSTEP (R272). -/
def execTstep (d a b : Byte) (s : State) : Host.Outcome State Fault Refusal :=
  issue (.tstep d a b) (rulesRowB (isP4 d && isC a))
    (fun w s =>
      match cursorOf s a with
      | none => illegal (.tstep d a b) s
      | some c =>
        if b = 0 || c.ndim ≤ b.toNat then illegal (.tstep d a b) s
        else
          let (c, wrap) := stepCursor c 4 b.toNat
          let x := s.sh
          .done (s.putSh { x with
            cursors := x.cursors.set (a.toNat - 0xF0) (some c), regs := wrQ w d fun _ => wrap })) s

/-- LPSET (R278). -/
def execLpset (d a b : Byte) (s : State) : Host.Outcome State Fault Refusal :=
  issue (.lpset d a b) (rulesRowB (d.toNat < 4 && isS a))
    (fun w s =>
      let x := s.sh
      if rd w a 0 = 0 then branchTo s b.toNat
      else .done (s.putSh { x with loops := x.loops.set d.toNat { count := rd w a 0, start := x.pc + 1, active := true } })) s

/-- LPEND (R278). -/
def execLpend (d : Byte) (s : State) : Host.Outcome State Fault Refusal :=
  issue (.lpend d) (rulesRowB (d.toNat < 4))
    (fun _ s =>
      let x := s.sh
      let l := x.loops.getD d.toNat {}
      if !l.active then illegal (.lpend d) s
      else if l.count - 1 = 0 then .done (s.putSh { x with loops := x.loops.set d.toNat { l with count := 0, active := false } })
      else .goto (s.putSh { x with loops := x.loops.set d.toNat { l with count := l.count - 1 } }) l.start) s

/-! ## Arrivals, waits and the end -/

/-- ARRIVE (R279): it waits for the Shuttle's earlier accesses and XSTs. -/
def execArrive (d a : Byte) (s : State) : Host.Outcome State Fault Refusal :=
  issue (.arrive d a) (rulesRowB (isS d && isSZ a))
    (fun w s =>
      let slot := (rd w d 0).toNat
      match slotFault s false slot with
      | some e => e
      | none =>
        let (h, n) := s.mine
        if s.sh.accesses != 0 || (inFlight s h n).any (·.word.isSome) then .wait s .retry
        else .done (slotUpdate s h slot true (-((rd w a 0).toNat : Int)) none)) s

/-- SHWAIT (R280). -/
def execShwait (d : Byte) (s : State) : Host.Outcome State Fault Refusal :=
  issue (.shwait d) (rulesRowB (d.toNat < 16))
    (fun _ s => if d.toNat < flights s s.mine.1 s.mine.2 then pause s else .done s) s

/-- SHPOST (R281, R389). -/
def execShpost (d a : Byte) (s : State) : Host.Outcome State Fault Refusal :=
  issue (.shpost d a) (rulesRowB (isBase 8 d && isS a))
    (fun w s =>
      let m := (rd w a 0).toNat
      let f := s.curFn
      if 65536 ≤ m then illegal (.shpost d a) s
      else if flights s s.mine.1 s.mine.2 != 0 || s.sh.accesses != 0 then .wait s .retry
      else if s.sh.posted then .done (s.putSh { s.sh with posted := false })
      else
        let msg := (List.range 8).map (rdS w d)
        if putWaits s f m then pause (joinPuts s f m s.putter msg) else .done (mboxPut s f m msg)) s

/-- SHEND (R282). -/
def execShend (s : State) : Host.Outcome State Fault Refusal :=
  issue .shend (rulesRowB true)
    (fun _ s => if flights s s.mine.1 s.mine.2 = 0 then .stop (s.putSh { s.sh with state := 0 }) else pause s) s

end Sys2Proof.Machine
end

