-- ==== Sys2Proof/Machine/Dispatch.lean ====
section
/-! DEFINITION. The meaning of every instruction: one arm for each constructor, each a direct call. -/

namespace Sys2Proof.Machine

def exec (i : Instr) (s : State) : Host.Outcome State Fault Refusal :=
  match i with
  | .jmp k => Sys2Proof.Machine.execJmp k s
  | .brs d k => Sys2Proof.Machine.execBrs d k s
  | .brp d k => Sys2Proof.Machine.execBrp d k s
  | .ifP d k => Sys2Proof.Machine.execIfP d k s
  | .elseP k => Sys2Proof.Machine.execElseP k s
  | .loop k => Sys2Proof.Machine.execLoop k s
  | .endloop k => Sys2Proof.Machine.execEndloop k s
  | .breakP d a => Sys2Proof.Machine.execBreakP d a s
  | .contP d a => Sys2Proof.Machine.execContP d a s
  | .join d k => Sys2Proof.Machine.execJoin d k s
  | .jtab d a b => Sys2Proof.Machine.execJtab d a b s
  | .call k => Sys2Proof.Machine.execCall k s
  | .ret a => Sys2Proof.Machine.execRet a s
  | .mcall d a b => Sys2Proof.Machine.execMcall d a b s
  | .wait k => Sys2Proof.Machine.execWait k s
  | .trap k => Sys2Proof.Machine.execTrap k s
  | .svc k => Sys2Proof.Machine.execSvc k s
  | .bkpt k => Sys2Proof.Machine.execBkpt k s
  | .mode k => Sys2Proof.Machine.execMode k s
  | .modex d a b => Sys2Proof.Machine.execModex d a b s
  | .rdcr d k => Sys2Proof.Machine.execRdcr d k s
  | .wrcr d k => Sys2Proof.Machine.execWrcr d k s
  | .rdtm d a => Sys2Proof.Machine.execRdtm d a s
  | .trace d k => Sys2Proof.Machine.execTrace d k s
  | .sleep k => Sys2Proof.Machine.execSleep k s
  | .gang a => Sys2Proof.Machine.execGang a s
  | .pathq d a b => Sys2Proof.Machine.execPathq d a b s
  | .add d a b => Sys2Proof.Machine.execAdd d a b s
  | .sub d a b => Sys2Proof.Machine.execSub d a b s
  | .mul d a b => Sys2Proof.Machine.execMul d a b s
  | .mulh d a b => Sys2Proof.Machine.execMulh d a b s
  | .mad d a b => Sys2Proof.Machine.execMad d a b s
  | .min d a b => Sys2Proof.Machine.execMin d a b s
  | .max d a b => Sys2Proof.Machine.execMax d a b s
  | .abs d a => Sys2Proof.Machine.execAbs d a s
  | .neg d a => Sys2Proof.Machine.execNeg d a s
  | .addc d a b => Sys2Proof.Machine.execAddc d a b s
  | .subb d a b => Sys2Proof.Machine.execSubb d a b s
  | .divn d a b => Sys2Proof.Machine.execDivn d a b s
  | .remn d a b => Sys2Proof.Machine.execRemn d a b s
  | .addi d k => Sys2Proof.Machine.execAddi d k s
  | .muli d k => Sys2Proof.Machine.execMuli d k s
  | .clamp d a b => Sys2Proof.Machine.execClamp d a b s
  | .and d a b => Sys2Proof.Machine.execAnd d a b s
  | .or d a b => Sys2Proof.Machine.execOr d a b s
  | .xor d a b => Sys2Proof.Machine.execXor d a b s
  | .andn d a b => Sys2Proof.Machine.execAndn d a b s
  | .not d a => Sys2Proof.Machine.execNot d a s
  | .shl d a b => Sys2Proof.Machine.execShl d a b s
  | .shr d a b => Sys2Proof.Machine.execShr d a b s
  | .sha d a b => Sys2Proof.Machine.execSha d a b s
  | .rotl d a b => Sys2Proof.Machine.execRotl d a b s
  | .shli d k => Sys2Proof.Machine.execShli d k s
  | .shri d k => Sys2Proof.Machine.execShri d k s
  | .shai d k => Sys2Proof.Machine.execShai d k s
  | .popc d a => Sys2Proof.Machine.execPopc d a s
  | .clz d a => Sys2Proof.Machine.execClz d a s
  | .brev d a => Sys2Proof.Machine.execBrev d a s
  | .bfe d a b => Sys2Proof.Machine.execBfe d a b s
  | .mov d a => Sys2Proof.Machine.execMov d a s
  | .lit d k => Sys2Proof.Machine.execLit d k s
  | .lih d k => Sys2Proof.Machine.execLih d k s
  | .sel d a b => Sys2Proof.Machine.execSel d a b s
  | .setpEq d a b => Sys2Proof.Machine.execSetpEq d a b s
  | .setpNe d a b => Sys2Proof.Machine.execSetpNe d a b s
  | .setpLt d a b => Sys2Proof.Machine.execSetpLt d a b s
  | .setpLe d a b => Sys2Proof.Machine.execSetpLe d a b s
  | .setpGt d a b => Sys2Proof.Machine.execSetpGt d a b s
  | .setpGe d a b => Sys2Proof.Machine.execSetpGe d a b s
  | .pand d a b => Sys2Proof.Machine.execPand d a b s
  | .por d a b => Sys2Proof.Machine.execPor d a b s
  | .pnot d a => Sys2Proof.Machine.execPnot d a s
  | .bfi d a b => Sys2Proof.Machine.execBfi d a b s
  | .shfl d a b => Sys2Proof.Machine.execShfl d a b s
  | .shflx d a b => Sys2Proof.Machine.execShflx d a b s
  | .bcast d a b => Sys2Proof.Machine.execBcast d a b s
  | .lread d a b => Sys2Proof.Machine.execLread d a b s
  | .lwrite d a b => Sys2Proof.Machine.execLwrite d a b s
  | .vany d a => Sys2Proof.Machine.execVany d a s
  | .vall d a => Sys2Proof.Machine.execVall d a s
  | .ballot d a b => Sys2Proof.Machine.execBallot d a b s
  | .redadd d a => Sys2Proof.Machine.execRedadd d a s
  | .redmin d a => Sys2Proof.Machine.execRedmin d a s
  | .redmax d a => Sys2Proof.Machine.execRedmax d a s
  | .scanadd d a => Sys2Proof.Machine.execScanadd d a s
  | .lanecnt d => Sys2Proof.Machine.execLanecnt d s
  | .ffs d a => Sys2Proof.Machine.execFfs d a s
  | .lea d a b => Sys2Proof.Machine.execLea d a b s
  | .movp d a => Sys2Proof.Machine.execMovp d a s
  | .addp d a b => Sys2Proof.Machine.execAddp d a b s
  | .rand d a b => Sys2Proof.Machine.execRand d a b s
  | .fadd d a b => Sys2Proof.Machine.execFadd d a b s
  | .fsub d a b => Sys2Proof.Machine.execFsub d a b s
  | .fmul d a b => Sys2Proof.Machine.execFmul d a b s
  | .fma d a b => Sys2Proof.Machine.execFma d a b s
  | .fmin d a b => Sys2Proof.Machine.execFmin d a b s
  | .fmax d a b => Sys2Proof.Machine.execFmax d a b s
  | .fabs d a => Sys2Proof.Machine.execFabs d a s
  | .fneg d a => Sys2Proof.Machine.execFneg d a s
  | .frcp d a => Sys2Proof.Machine.execFrcp d a s
  | .frsq d a => Sys2Proof.Machine.execFrsq d a s
  | .fexp2 d a => Sys2Proof.Machine.execFexp2 d a s
  | .flog2 d a => Sys2Proof.Machine.execFlog2 d a s
  | .fscale d a b => Sys2Proof.Machine.execFscale d a b s
  | .frnd d a => Sys2Proof.Machine.execFrnd d a s
  | .fclass d a => Sys2Proof.Machine.execFclass d a s
  | .fsinpi d a => Sys2Proof.Machine.execFsinpi d a s
  | .cvt d a b => Sys2Proof.Machine.execCvt d a b s
  | .cvtw d a b => Sys2Proof.Machine.execCvtw d a b s
  | .cvti2f d a => Sys2Proof.Machine.execCvti2f d a s
  | .cvtf2i d a => Sys2Proof.Machine.execCvtf2i d a s
  | .cvtr d a b => Sys2Proof.Machine.execCvtr d a b s
  | .qenc d a b => Sys2Proof.Machine.execQenc d a b s
  | .qdec d a b => Sys2Proof.Machine.execQdec d a b s
  | .bscl d a b => Sys2Proof.Machine.execBscl d a b s
  | .pkn d a b => Sys2Proof.Machine.execPkn d a b s
  | .upkn d a b => Sys2Proof.Machine.execUpkn d a b s
  | .pkb d a b => Sys2Proof.Machine.execPkb d a b s
  | .upkb d a b => Sys2Proof.Machine.execUpkb d a b s
  | .pkh d a b => Sys2Proof.Machine.execPkh d a b s
  | .upkh d a b => Sys2Proof.Machine.execUpkh d a b s
  | .redamax d a => Sys2Proof.Machine.execRedamax d a s
  | .fexpd d a b => Sys2Proof.Machine.execFexpd d a b s
  | .lds d a b => Sys2Proof.Machine.execLds d a b s
  | .sts d a b => Sys2Proof.Machine.execSts d a b s
  | .lds2 d a b => Sys2Proof.Machine.execLds2 d a b s
  | .sts2 d a b => Sys2Proof.Machine.execSts2 d a b s
  | .lds4 d a b => Sys2Proof.Machine.execLds4 d a b s
  | .sts4 d a b => Sys2Proof.Machine.execSts4 d a b s
  | .spill a b => Sys2Proof.Machine.execSpill a b s
  | .fill d b => Sys2Proof.Machine.execFill d b s
  | .atomsAdd d a b => Sys2Proof.Machine.execAtomsAdd d a b s
  | .atomsMin d a b => Sys2Proof.Machine.execAtomsMin d a b s
  | .atomsMax d a b => Sys2Proof.Machine.execAtomsMax d a b s
  | .atomsAnd d a b => Sys2Proof.Machine.execAtomsAnd d a b s
  | .atomsOr d a b => Sys2Proof.Machine.execAtomsOr d a b s
  | .atomsXchg d a b => Sys2Proof.Machine.execAtomsXchg d a b s
  | .atomsCas d a b => Sys2Proof.Machine.execAtomsCas d a b s
  | .fatomsAdd d a b => Sys2Proof.Machine.execFatomsAdd d a b s
  | .ldx d a b => Sys2Proof.Machine.execLdx d a b s
  | .stx d a b => Sys2Proof.Machine.execStx d a b s
  | .ldx2 d a b => Sys2Proof.Machine.execLdx2 d a b s
  | .stx2 d a b => Sys2Proof.Machine.execStx2 d a b s
  | .ldx4 d a b => Sys2Proof.Machine.execLdx4 d a b s
  | .stx4 d a b => Sys2Proof.Machine.execStx4 d a b s
  | .atomxAdd d a b => Sys2Proof.Machine.execAtomxAdd d a b s
  | .atomxMin d a b => Sys2Proof.Machine.execAtomxMin d a b s
  | .atomxMax d a b => Sys2Proof.Machine.execAtomxMax d a b s
  | .atomxXchg d a b => Sys2Proof.Machine.execAtomxXchg d a b s
  | .atomxCas d a b => Sys2Proof.Machine.execAtomxCas d a b s
  | .fatomxAdd d a b => Sys2Proof.Machine.execFatomxAdd d a b s
  | .ticket d a b => Sys2Proof.Machine.execTicket d a b s
  | .fence d a b => Sys2Proof.Machine.execFence d a b s
  | .waitv d a b => Sys2Proof.Machine.execWaitv d a b s
  | .ldaq d a b => Sys2Proof.Machine.execLdaq d a b s
  | .cpy a => Sys2Proof.Machine.execCpy a s
  | .cpyt a => Sys2Proof.Machine.execCpyt a s
  | .cpyg a => Sys2Proof.Machine.execCpyg a s
  | .cpys a => Sys2Proof.Machine.execCpys a s
  | .cpya a => Sys2Proof.Machine.execCpya a s
  | .seal d => Sys2Proof.Machine.execSeal d s
  | .shrun d a b => Sys2Proof.Machine.execShrun d a b s
  | .shstat d a => Sys2Proof.Machine.execShstat d a s
  | .shstop a => Sys2Proof.Machine.execShstop a s
  | .gput a => Sys2Proof.Machine.execGput a s
  | .gget a b => Sys2Proof.Machine.execGget a b s
  | .amend a => Sys2Proof.Machine.execAmend a s
  | .final a => Sys2Proof.Machine.execFinal a s
  | .gqry d a => Sys2Proof.Machine.execGqry d a s
  | .release d a b => Sys2Proof.Machine.execRelease d a b s
  | .egress a b => Sys2Proof.Machine.execEgress a b s
  | .tld d a b => Sys2Proof.Machine.execTld d a b s
  | .tst d a b => Sys2Proof.Machine.execTst d a b s
  | .tgat d a b => Sys2Proof.Machine.execTgat d a b s
  | .tsca d a b => Sys2Proof.Machine.execTsca d a b s
  | .tcur d a => Sys2Proof.Machine.execTcur d a s
  | .tstep d a b => Sys2Proof.Machine.execTstep d a b s
  | .xld d a b => Sys2Proof.Machine.execXld d a b s
  | .xst d a b => Sys2Proof.Machine.execXst d a b s
  | .lpset d a b => Sys2Proof.Machine.execLpset d a b s
  | .lpend d => Sys2Proof.Machine.execLpend d s
  | .arrive d a => Sys2Proof.Machine.execArrive d a s
  | .tzero d a b => Sys2Proof.Machine.execTzero d a b s
  | .tadd d a b => Sys2Proof.Machine.execTadd d a b s
  | .shwait d => Sys2Proof.Machine.execShwait d s
  | .shpost d a => Sys2Proof.Machine.execShpost d a s
  | .guard a b => Sys2Proof.Machine.execGuard a b s
  | .pack d a => Sys2Proof.Machine.execPack d a s
  | .packr d a => Sys2Proof.Machine.execPackr d a s
  | .packq d a b => Sys2Proof.Machine.execPackq d a b s
  | .packa d a b => Sys2Proof.Machine.execPacka d a b s
  | .packs d a b => Sys2Proof.Machine.execPacks d a b s
  | .wmul d a b => Sys2Proof.Machine.execWmul d a b s
  | .wmulk d a b => Sys2Proof.Machine.execWmulk d a b s
  | .wmulg d a b => Sys2Proof.Machine.execWmulg d a b s
  | .wmulgk d a b => Sys2Proof.Machine.execWmulgk d a b s
  | .extr d a => Sys2Proof.Machine.execExtr d a s
  | .extsF32 d a b => Sys2Proof.Machine.execExtsF32 d a b s
  | .extsBf16 d a b => Sys2Proof.Machine.execExtsBf16 d a b s
  | .extsF16 d a b => Sys2Proof.Machine.execExtsF16 d a b s
  | .norm d => Sys2Proof.Machine.execNorm d s
  | .aclr d => Sys2Proof.Machine.execAclr d s
  | .strm d a => Sys2Proof.Machine.execStrm d a s
  | .subs d => Sys2Proof.Machine.execSubs d s
  | .skipq d a => Sys2Proof.Machine.execSkipq d a s
  | .wstat d a => Sys2Proof.Machine.execWstat d a s
  | .accst d a => Sys2Proof.Machine.execAccst d a s
  | .accld d a b => Sys2Proof.Machine.execAccld d a b s
  | .bfjoin d a => Sys2Proof.Machine.execBfjoin d a s
  | .bftake d a b => Sys2Proof.Machine.execBftake d a b s
  | .bfdone a => Sys2Proof.Machine.execBfdone a s
  | .specpg d a => Sys2Proof.Machine.execSpecpg d a s
  | .commit d a b => Sys2Proof.Machine.execCommit d a b s
  | .mbxput a b => Sys2Proof.Machine.execMbxput a b s
  | .mbxget d a b => Sys2Proof.Machine.execMbxget d a b s
  | .cancelq d a => Sys2Proof.Machine.execCancelq d a s
  | .binit a b => Sys2Proof.Machine.execBinit a b s
  | .barr a => Sys2Proof.Machine.execBarr a s
  | .bexp a b => Sys2Proof.Machine.execBexp a b s
  | .bwait a b => Sys2Proof.Machine.execBwait a b s
  | .btry d a b => Sys2Proof.Machine.execBtry d a b s
  | .bret a => Sys2Proof.Machine.execBret a s
  | .bgrd d a => Sys2Proof.Machine.execBgrd d a s
  | .fetchw d => Sys2Proof.Machine.execFetchw d s
  | .tryw d => Sys2Proof.Machine.execTryw d s
  | .taskend a b => Sys2Proof.Machine.execTaskend a b s
  | .taskq d a b => Sys2Proof.Machine.execTaskq d a b s
  | .refire a => Sys2Proof.Machine.execRefire a s
  | .retire a => Sys2Proof.Machine.execRetire a s
  | .gwait a => Sys2Proof.Machine.execGwait a s
  | .dispq d a => Sys2Proof.Machine.execDispq d a s
  | .tmrset a => Sys2Proof.Machine.execTmrset a s
  | .cswr d a b => Sys2Proof.Machine.execCswr d a b s
  | .csrd d a => Sys2Proof.Machine.execCsrd d a s
  | .watch d a => Sys2Proof.Machine.execWatch d a s
  | .unwatch d => Sys2Proof.Machine.execUnwatch d s
  | .perfrd d a => Sys2Proof.Machine.execPerfrd d a s
  | .prec a => Sys2Proof.Machine.execPrec a s
  | .eccq d a => Sys2Proof.Machine.execEccq d a s
  | .dot4 d a b => Sys2Proof.Machine.execDot4 d a b s
  | .dot2 d a b => Sys2Proof.Machine.execDot2 d a b s
  | .fdot2 d a b => Sys2Proof.Machine.execFdot2 d a b s
  | .madw d a b => Sys2Proof.Machine.execMadw d a b s
  | .dbgmsg a b => Sys2Proof.Machine.execDbgmsg a b s
  | .nop => Sys2Proof.Machine.execNop s
  | .endif => Sys2Proof.Machine.execEndif s
  | .yield => Sys2Proof.Machine.execYield s
  | .exit => Sys2Proof.Machine.execExit s
  | .rtt => Sys2Proof.Machine.execRtt s
  | .shend => Sys2Proof.Machine.execShend s
  | .rls => Sys2Proof.Machine.execRls s
  | .unsubs => Sys2Proof.Machine.execUnsubs s
  | .mret => Sys2Proof.Machine.execMret s
  | .iflush => Sys2Proof.Machine.execIflush s
  | .prio => Sys2Proof.Machine.execPrio s
  | .udf => Sys2Proof.Machine.execUdf s
  | .notify => Sys2Proof.Machine.execNotify s
  | .queueCreate => Sys2Proof.Machine.execQueueCreate s
  | .queueDestroy => Sys2Proof.Machine.execQueueDestroy s
  | .queueResume => Sys2Proof.Machine.execQueueResume s
  | .registerWrite => Sys2Proof.Machine.execRegisterWrite s
  | .remoteWrite => Sys2Proof.Machine.execRemoteWrite s
  | .remoteRead => Sys2Proof.Machine.execRemoteRead s
  | .remoteAtomicAdd => Sys2Proof.Machine.execRemoteAtomicAdd s
  | .packetPoll => Sys2Proof.Machine.execPacketPoll s
  | .packetAccept => Sys2Proof.Machine.execPacketAccept s
  | .launch => Sys2Proof.Machine.execLaunch s
  | .waitall => Sys2Proof.Machine.execWaitall s
  | .waitany => Sys2Proof.Machine.execWaitany s
  | .waitEvaluation => Sys2Proof.Machine.execWaitEvaluation s
  | .signal => Sys2Proof.Machine.execSignal s
  | .mbox => Sys2Proof.Machine.execMbox s
  | .gputPacket => Sys2Proof.Machine.execGputPacket s
  | .cancel => Sys2Proof.Machine.execCancel s
  | .copy => Sys2Proof.Machine.execCopy s
  | .qfence => Sys2Proof.Machine.execQfence s
  | .graphopSetPriority => Sys2Proof.Machine.execGraphopSetPriority s
  | .graphopAppendTask => Sys2Proof.Machine.execGraphopAppendTask s
  | .graphopRemoveTask => Sys2Proof.Machine.execGraphopRemoveTask s
  | .graphopDefinePool => Sys2Proof.Machine.execGraphopDefinePool s
  | .graphopBindEgress => Sys2Proof.Machine.execGraphopBindEgress s
  | .graphopBindServiceRing => Sys2Proof.Machine.execGraphopBindServiceRing s
  | .graphopBindTraceRing => Sys2Proof.Machine.execGraphopBindTraceRing s
  | .eventreq => Sys2Proof.Machine.execEventreq s
  | .eventreqConditionHolds => Sys2Proof.Machine.execEventreqConditionHolds s
  | .qprog => Sys2Proof.Machine.execQprog s
  | .packetCompletion => Sys2Proof.Machine.execPacketCompletion s
  | .queueProcessorLost => Sys2Proof.Machine.execQueueProcessorLost s
  | .replyServed => Sys2Proof.Machine.execReplyServed s
  | .replyRefused => Sys2Proof.Machine.execReplyRefused s
  | .invalidatePage => Sys2Proof.Machine.execInvalidatePage s
  | .invalidateFunction => Sys2Proof.Machine.execInvalidateFunction s
  | .invalidationComplete => Sys2Proof.Machine.execInvalidationComplete s
  | .debugHalt => Sys2Proof.Machine.execDebugHalt s
  | .debugHaltTaken => Sys2Proof.Machine.execDebugHaltTaken s
  | .debugResume => Sys2Proof.Machine.execDebugResume s
  | .debugStepPath => Sys2Proof.Machine.execDebugStepPath s
  | .debugHoldPath => Sys2Proof.Machine.execDebugHoldPath s
  | .debugReleasePath => Sys2Proof.Machine.execDebugReleasePath s
  | .debugRead => Sys2Proof.Machine.execDebugRead s
  | .debugWrite => Sys2Proof.Machine.execDebugWrite s
  | .attestationRequest => Sys2Proof.Machine.execAttestationRequest s
  | .attestationReport => Sys2Proof.Machine.execAttestationReport s
  | .functionEnable => Sys2Proof.Machine.execFunctionEnable s
  | .functionReset => Sys2Proof.Machine.execFunctionReset s
  | .functionDisable => Sys2Proof.Machine.execFunctionDisable s
  | .functionResetComplete => Sys2Proof.Machine.execFunctionResetComplete s
  | .doorbell => Sys2Proof.Machine.execDoorbell s
  | .serviceRingCheck => Sys2Proof.Machine.execServiceRingCheck s
  | .tileDeal => Sys2Proof.Machine.execTileDeal s
  | .dealtTileArrival => Sys2Proof.Machine.execDealtTileArrival s
  | .taskendReport => Sys2Proof.Machine.execTaskendReport s
  | .gradedWriteComplete => Sys2Proof.Machine.execGradedWriteComplete s
  | .ggetLanding => Sys2Proof.Machine.execGgetLanding s
  | .transferComplete => Sys2Proof.Machine.execTransferComplete s
  | .copyPieceTake => Sys2Proof.Machine.execCopyPieceTake s
  | .shuttleProgramStart => Sys2Proof.Machine.execShuttleProgramStart s
  | .shuttleFaultTrap => Sys2Proof.Machine.execShuttleFaultTrap s
  | .loadReturn => Sys2Proof.Machine.execLoadReturn s
  | .storePerformed => Sys2Proof.Machine.execStorePerformed s
  | .setChange => Sys2Proof.Machine.execSetChange s
  | .setChangeComplete => Sys2Proof.Machine.execSetChangeComplete s
  | .pathQuantumExpiry => Sys2Proof.Machine.execPathQuantumExpiry s
  | .joinTimeout => Sys2Proof.Machine.execJoinTimeout s
  | .sleepExpiry => Sys2Proof.Machine.execSleepExpiry s
  | .waitvPoll => Sys2Proof.Machine.execWaitvPoll s
  | .timerTrap => Sys2Proof.Machine.execTimerTrap s
  | .watchpointTrap => Sys2Proof.Machine.execWatchpointTrap s
  | .stepTrap => Sys2Proof.Machine.execStepTrap s
  | .sliceExpiry => Sys2Proof.Machine.execSliceExpiry s
  | .idleDeparture => Sys2Proof.Machine.execIdleDeparture s
  | .preemptionComplete => Sys2Proof.Machine.execPreemptionComplete s
  | .contextRestore => Sys2Proof.Machine.execContextRestore s
  | .teamEnd => Sys2Proof.Machine.execTeamEnd s
  | .roundClose => Sys2Proof.Machine.execRoundClose s
  | .batchWindowExpiry => Sys2Proof.Machine.execBatchWindowExpiry s
  | .egressDeparture => Sys2Proof.Machine.execEgressDeparture s
  | .stallSample => Sys2Proof.Machine.execStallSample s
  | .idleEntry => Sys2Proof.Machine.execIdleEntry s
  | .idleExit => Sys2Proof.Machine.execIdleExit s
  | .powerLoss => Sys2Proof.Machine.execPowerLoss s
  | .powerWindow => Sys2Proof.Machine.execPowerWindow s
  | .overTemperature => Sys2Proof.Machine.execOverTemperature s
  | .thermalShutdown => Sys2Proof.Machine.execThermalShutdown s
  | .telemetryRefresh => Sys2Proof.Machine.execTelemetryRefresh s
  | .powerGood => Sys2Proof.Machine.execPowerGood s
  | .uncorrectableDataError => Sys2Proof.Machine.execUncorrectableDataError s
  | .wmOperationComplete => Sys2Proof.Machine.execWmOperationComplete s
  | .lastSourceByteRead => Sys2Proof.Machine.execLastSourceByteRead s
  | .peerGradedWrite => Sys2Proof.Machine.execPeerGradedWrite s
  | .correctedEccError => Sys2Proof.Machine.execCorrectedEccError s
  | .dieTemperatureFalls => Sys2Proof.Machine.execDieTemperatureFalls s

end Sys2Proof.Machine
end

