-- ==== Sys2Proof/Machine/Step.lean ====
section
/-! DEFINITION. One step of the machine: the turn, the time it takes, the word fetched and decoded, and its meaning. -/

namespace Sys2Proof.Machine

/-- The turn of a step and the state with that turn taken from its list: the schedule first, then the agenda, then what the
machine does by itself, then a party that can issue (log 2). -/
def nextTurn (s : State) : Turn × State :=
  match s.schedule with
  | t :: r => (t, { s with schedule := r })
  | [] =>
    match s.agenda with
    | (i, ev) :: r => (.event i ev, { s with agenda := r })
    | [] =>
      match background s with
      | some (i, ev) => (.event i ev, s)
      | none => (.issue (pickParty s), s)

/-- The state in which a party's word issues: path chosen, a Shuttle's wait over, the party and its word in place. -/
def prepare (s : State) (p : Party) : State :=
  match p with
  | .team t =>
    let s := settle s t
    { s with cur := p, ir := wordFor s p }
  | .shuttle h n => { wakeShuttle s h n with cur := p, ir := wordFor s p }
  | .none => { s with cur := p, ir := wordFor s p }

/-- The instruction of a word; a word that is none is UDF's case, the illegal instruction (R98, R100). -/
def instrOf (w : Word) : Instr := (decode w).getD .udf

/-- A host or a peer writes its own memory, and a peer the tags of its cells from that place on (log 81). -/
def outside (s : State) (l : Loc) (bytes : List Byte) (tags : List (Nat × Byte)) : State :=
  match l with
  | .host _ => s.locStore l bytes
  | .peer p a => tags.foldl (fun s e => putTagAt s 0 0 (.peer p (a + 256 * e.1)) e.2) (s.locStore l bytes)
  | _ => s

/-- One step. -/
def step (s : State) : Host.Outcome State Fault Refusal :=
  let (turn, s) := nextTurn s
  let s := tick turn s
  match turn with
  | .event i ev => if awake s i then exec i { s with ev := ev } else .next s
  | .outside l bytes tags => .next (outside s l bytes tags)
  | .issue p => if partyCan s p then noted (prepare s p) (exec (instrOf (prepare s p).ir) (prepare s p)) else .next s

/-- `s` with a new launch of one role, its harness resident on core 0, one team of 32 lanes and one Shuttle program, both
at the word `w`, and the next turn given to the team, or to the Shuttle for row 0xB (R102, R103). -/
def State.withFetchWord (s : State) (_nbits w : Nat) : State :=
  let word : Word := BitVec.ofNat 32 w
  let t := s.teams.length
  let h := s.harnesses.length
  let l := s.launches.length
  let codeAt := hbmSize - 65536
  let bytes := leBytes 4 word.toNat
  let code : Memory := memStore [] 0 bytes
  let sh := opOf word / 16 = 0xB
  let role : Role := { cpr := true, bud := 24, trapv := 16 }
  let launch : Launch :=
    { fpol := 0xF, codebase := 0, codesize := 4096, codeMap := [(.hbm codeAt, 4096)]
      roles := [role], slots := List.replicate 8 {} }
  let team : Team :=
    { info := { harness := h, launch := l, grp := 1, budget := 192, cpr := true }
      place := .active
      flow := { paths := some { mask := lanesMask 1 } :: List.replicate 15 none }
      ctl := { tvec := 16 } }
  let shuttle : Shuttle := { state := if sh then 1 else 0, starter := some t }
  let harness : Harness :=
    { launch := l, started := true, code := code, shuttles := shuttle :: List.replicate 3 {} }
  let c0 := s.core 0
  let p0 : CPart := c0.parts.getD 0 {}
  let s := { s with
    teams := s.teams ++ [team]
    harnesses := s.harnesses ++ [harness]
    launches := s.launches ++ [launch]
    hbm := memStore s.hbm codeAt bytes
    svc := { s.svc with power := .run }
    schedule := [.issue (if sh then .shuttle h 0 else .team t)] }
  s.putCore 0 { c0 with resident := some h, preempt := false, inService := true, parts := c0.parts.set 0 { p0 with active := [t] } }

end Sys2Proof.Machine
end

