-- ==== Sys2Proof/Safety.lean ====
section
/-! DEFINITION. Safe runs, the invariant of the machine's memories, and the words in which claims speak of an
instruction that issues normally and of the state it leaves. -/

namespace Sys2Proof.Machine

/-- A step that neither faults nor refuses. -/
def State.steps (s : State) : Bool := match step s with | .next _ => true | _ => false

/-! ## Memories -/

/-- The memories of a function. -/
def Func.memWf (f : Func) : Bool := Memory.wf f.qmem && Memory.wf f.mbox

/-- The memories of a harness. -/
def Harness.memWf (h : Harness) : Bool := Memory.wf h.shared && Memory.wf h.code

/-- The shared memories that functions left on a core. -/
def Core.memWf (c : Core) : Bool := c.left.all fun e => Memory.wf e.2

/-- Every memory of the module is in its canonical form. -/
def State.memWf (s : State) : Bool :=
  Memory.wf s.hbm && Memory.wf s.cxl && Memory.wf s.host && (s.peers.all fun e => Memory.wf e.2) &&
    (s.dies.all fun d => Memory.wf d.scratch) && s.harnesses.all Harness.memWf && s.cores.all Core.memWf &&
    s.funcs.all Func.memWf && s.pf.memWf

/-- One byte of the memory that a place lies in. -/
def State.byteAt (s : State) (l : Loc) : Byte := memByte (s.memAt l).1 (s.memAt l).2

/-! ## Registers -/

/-- The canonical form of a register file: each of its maps is in it. -/
def RegFile.wf (r : RegFile) : Bool := sparseWf 0 r.v && sparseWf 0 r.s && sparseWf 0 r.p

/-- Every register file of the module is in canonical form. -/
def State.regsWf (s : State) : Bool :=
  (s.teams.all fun x => x.regs.wf) && s.harnesses.all fun h => h.shuttles.all fun x => x.regs.wf

/-- The invariant of the module's storage: memories and register files. -/
def State.wf (s : State) : Bool := s.memWf && s.regsWf

/-! ## An instruction of a team that issues normally -/

/-- The words that the current path still has to run in its macro buffer (R115). -/
def Path.inMacro (p : Path) : Bool :=
  match p.mac with
  | some (ws, j) => !macroEnds ws (j + 1)
  | none => false

/-- A word with the needs `r` passes every check that comes before its own rule (R81, R98, R99, R156) when team `t` has
the turn. -/
structure State.Passes (s : State) (t : Nat) (r : Rules) : Prop where
  turn   : s.cur = .team t
  here   : t < s.teams.length
  path   : (s.team t).flow.path < (s.team t).flow.paths.length
  plain  : (s.team t).path.resume = 0
  team   : r.team = true
  legal  : r.legal (s.team t).view = true
  mode   : r.mode (s.team t).view = true
  awake  : (s.team t).dormant = false ∨ r.counter = true
  rights : r.copy = true → (s.team t).info.cpr = true
  budget : overBudget r (s.team t).view = none

/-- The word is not the last of the code, or its macro has another one (R105). -/
def State.goesOn (s : State) (t : Nat) : Prop :=
  (s.team t).path.inMacro = true ∨ (s.team t).path.pc + 1 < codeWords (s.launchOf t)

/-- A word that passes its checks and falls through. -/
structure State.Normal (s : State) (t : Nat) (r : Rules) : Prop extends State.Passes s t r where
  next : s.goesOn t

/-- The state in which team `t` goes on at its next word, with the effect `s1` of the instruction with the needs `r` and what
every instruction counts (R105, R115, R160, R395, R436). -/
def State.after (s : State) (t : Nat) (r : Rules) (s1 : State) : State :=
  let x := s.team t
  let y := s1.team t
  let p := y.path
  match x.path.inMacro, p.mac with
  | true, some (ws, j) =>
    countIssue x (passesOf r x.view) false (s1.putTeam t (y.putPath { p with mac := some (ws, j + 1), dep := none })) t
  | _, _ =>
    countIssue x (passesOf r x.view) true
      (s1.putTeam t (y.putPath { p with pc := x.path.pc + 1, mac := none, resume := 0, dep := none })) t

/-- The same, at another word of the code (R105, R165). -/
def State.jumped (s : State) (t : Nat) (r : Rules) (s1 : State) (target : Nat) : State :=
  let x := s.team t
  let y := s1.team t
  countIssue x (passesOf r x.view) true
    (s1.putTeam t (y.putPath { y.path with pc := target, mac := none, resume := 0, dep := none })) t

/-- A word with the needs `r` passes its checks when Shuttle `n` of harness `h` has the turn (R103, R104). -/
structure State.ShPasses (s : State) (h n : Nat) (r : Rules) : Prop where
  turn    : s.cur = .shuttle h n
  here    : h < s.harnesses.length
  there   : n < (s.harness h).shuttles.length
  shuttle : r.shuttle = true
  legal   : r.legal (s.shuttle h n).view = true
  mode    : r.mode (s.shuttle h n).view = true

/-- The same for a word that falls through and is not the last of the code. -/
structure State.ShNormal (s : State) (h n : Nat) (r : Rules) : Prop extends State.ShPasses s h n r where
  next : (s.shuttle h n).pc + 1 < codeWords (s.launch (s.harness h).launch)

/-- The state in which a Shuttle goes on at its next word, with the effect `s1`. -/
def State.shAfter (s : State) (h n : Nat) (s1 : State) : State :=
  s1.putShuttle h n { s1.shuttle h n with pc := (s.shuttle h n).pc + 1, state := 1 }

/-- The same, at another word. -/
def State.shJumped (_s : State) (h n : Nat) (s1 : State) (target : Nat) : State :=
  s1.putShuttle h n { s1.shuttle h n with pc := target, state := 1 }

end Sys2Proof.Machine
end

