-- ==== Sys2Proof/Certificates/Slice0/Obligations.lean ====
section
/-! DEFINITION. The statements for the provers: each `Obligations.<Name>` says what its name says, in the words of
Sys2Proof/Safety.lean. `s.Normal t r` reads: team `t` has the turn and the word, whose operands and modes are those of `r`,
passes every check of R98 and falls through; `s.after t r s1`: the state `s1` of the instruction's own effect, with the path
at the next word and what every instruction counts. -/

namespace Sys2Proof.Claims
open Sys2Proof.Machine

/-! ## Encoding -/

/-- The 96 steps that no word names. -/
def isEvent : Instr → Bool
  | .notify | .queueCreate | .queueDestroy | .queueResume | .registerWrite | .remoteWrite | .remoteRead
    | .remoteAtomicAdd | .packetPoll | .packetAccept | .launch | .waitall | .waitany | .waitEvaluation | .signal | .mbox
    | .gputPacket | .cancel | .copy | .qfence | .graphopSetPriority | .graphopAppendTask | .graphopRemoveTask
    | .graphopDefinePool | .graphopBindEgress | .graphopBindServiceRing | .graphopBindTraceRing | .eventreq
    | .eventreqConditionHolds | .qprog | .packetCompletion | .queueProcessorLost | .replyServed | .replyRefused
    | .invalidatePage | .invalidateFunction | .invalidationComplete | .debugHalt | .debugHaltTaken | .debugResume
    | .debugStepPath | .debugHoldPath | .debugReleasePath | .debugRead | .debugWrite | .attestationRequest
    | .attestationReport | .functionEnable | .functionReset | .functionDisable | .functionResetComplete | .doorbell
    | .serviceRingCheck | .tileDeal | .dealtTileArrival | .taskendReport | .gradedWriteComplete | .ggetLanding
    | .transferComplete | .copyPieceTake | .shuttleProgramStart | .shuttleFaultTrap | .loadReturn | .storePerformed
    | .setChange | .setChangeComplete | .pathQuantumExpiry | .joinTimeout | .sleepExpiry | .waitvPoll | .timerTrap
    | .watchpointTrap | .stepTrap | .sliceExpiry | .idleDeparture | .preemptionComplete | .contextRestore | .teamEnd
    | .roundClose | .batchWindowExpiry | .egressDeparture | .stallSample | .idleEntry | .idleExit | .powerLoss
    | .powerWindow | .overTemperature | .thermalShutdown | .telemetryRefresh | .powerGood | .uncorrectableDataError
    | .wmOperationComplete | .lastSourceByteRead | .peerGradedWrite | .correctedEccError | .dieTemperatureFalls => true
  | _ => false

/-- Words written out bit by bit from the encoding tables of the spec, opcode, D, A and B, with what they stand for. -/
def sampleWords : List (Word × Instr) :=
  [ (0b00100000_00000100_00000100_00000011, .add 4 4 3),
    (0b01100011_00000110_00000010_00000011, .fma 6 2 3),
    (0b01010110_11000010_00000101_00000000, .redadd 0xC2 5),
    (0b01010101_11000011_11100010_00000001, .ballot 0xC3 0xE2 1),
    (0b00111001_00000010_00000000_00000001, .shli 2 1),
    (0b01000001_11000001_00001000_00011000, .lit 0xC1 0x0818),
    (0b11111001_00001000_00000010_00000011, .dot4 8 2 3),
    (0b00010011_00000000_00000000_01000010, .trap 0x42),
    (0b00010101_00000000_00000000_00000000, .rtt),
    (0b11101111_00000000_11000101_00000000, .tmrset 0xC5) ]

/-- The opcodes whose low byte is reserved. -/
def lowReserved : List Nat :=
  [0x00, 0x06, 0x09, 0x0A, 0x0E, 0x11, 0x12, 0x15, 0x1B, 0x1E, 0x27, 0x28, 0x34, 0x3C, 0x3D, 0x3E, 0x40, 0x4C, 0x53, 0x54, 0x56,
   0x57, 0x58, 0x59, 0x5A, 0x5B, 0x5D, 0x66, 0x67, 0x68, 0x69, 0x6A, 0x6B, 0x6D, 0x6E, 0x6F, 0x72, 0x73, 0x7E, 0xA0, 0xA1, 0xA2,
   0xA3, 0xA4, 0xA5, 0xA7, 0xA8, 0xA9, 0xAB, 0xAC, 0xAD, 0xB4, 0xB9, 0xBA, 0xBD, 0xBE, 0xBF, 0xC1, 0xC2, 0xCA, 0xCE, 0xCF, 0xD0,
   0xD1, 0xD2, 0xD3, 0xD4, 0xD5, 0xD6, 0xD8, 0xDA, 0xDB, 0xDF, 0xE1, 0xE5, 0xE6, 0xE7, 0xE8, 0xEB, 0xEC, 0xED, 0xEE, 0xEF, 0xF1,
   0xF2, 0xF3, 0xF4, 0xF5, 0xF6, 0xF7, 0xF8, 0xFE]

end Sys2Proof.Claims

open Sys2Proof Sys2Proof.Machine Sys2Proof.Claims

/-- Every well-formed instruction that a word names has a word, which decodes to it, whatever its operands and immediates;
UDF and PRIO have it for the immediate 0 (log 11). The steps without a word have none. -/
def Obligations.EncodeDecodeRoundTrip : Prop :=
  ∀ i : Instr, i.wellFormed = true →
    (isEvent i = false → ∃ w, encode i = some w ∧ decode w = some i) ∧ (isEvent i = true → encode i = none)

/-- A word that decodes gives a well-formed instruction, and is that instruction's own word, bit for bit; UDF and PRIO
carry an immediate of their own. -/
def Obligations.DecodeIsCanonical : Prop :=
  ∀ (w : Word) (i : Instr), decode w = some i →
    i.wellFormed = true ∧ isEvent i = false ∧ (i = .udf ∨ i = .prio ∨ encode i = some w)

/-- A word with a bit set in a low byte that its opcode reserves is no instruction; every word of opcode 0xFF is UDF; every
other opcode has a word that is an instruction. -/
def Sys2Proof.Claims.ReservedBitsRefused : Prop :=
  (∀ op d a b : Byte, op.toNat ∈ lowReserved → b ≠ 0 → decode (op ++ d ++ a ++ b) = none) ∧
  (∀ d a b : Byte, decode ((0xFF : Byte) ++ d ++ a ++ b) = some .udf) ∧
  (∀ op : Byte, (decode (op ++ (0 : Byte) ++ (0 : Byte) ++ (0 : Byte))).isSome = true)

/-- The words of `sampleWords` decode to the instructions they stand for. -/
def Obligations.SampleWordsDecode : Prop := ∀ p ∈ sampleWords, decode p.1 = some p.2

/-! ## One step -/

/-- When the next turn is a party's, which can issue, and the word it has fetched decodes, the step is the meaning of that
instruction in the prepared state, in which a Shuttle whose wait is over runs again, after the step's time, with what every issue
leaves noted. The turns, their time, and that a
party that cannot issue gives its turn up are the model's (logs 2, 6, 78), as is what a host or a peer does to its own memory
(log 81); a step without a word is its own meaning wherever the power state lets it happen. -/
def Obligations.StepRunsDecoded : Prop :=
  ∀ s : State,
    let u := tick (nextTurn s).1 (nextTurn s).2
    (∀ p i, (nextTurn s).1 = .issue p → partyCan u p = true → decode (prepare u p).ir = some i →
      step s = noted (prepare u p) (exec i (prepare u p))) ∧
    (∀ p, (nextTurn s).1 = .issue p → partyCan u p = false → step s = .next u) ∧
    (∀ (v : State) (h n : Nat), (v.shuttle h n).state = 2 → prepare v (.shuttle h n) =
      { v.putShuttle h n { v.shuttle h n with state := 1 } with cur := .shuttle h n, ir := wordFor v (.shuttle h n) }) ∧
    (∀ i ev, (nextTurn s).1 = .event i ev → step s = if awake u i = true then exec i { u with ev := ev } else .next u) ∧
    (∀ l bytes tags, (nextTurn s).1 = .outside l bytes tags → step s = .next (outside u l bytes tags))

/-- A word that is no instruction, and UDF with any immediate, raises the illegal-instruction fault of the team or Shuttle that issues
it, whatever its view, with the word in TADDR or FADDR. -/
def Sys2Proof.Claims.UndefinedWordIsIllegal : Prop :=
  (∀ w, decode w = none → instrOf w = .udf) ∧ (∀ d a b : Byte, instrOf ((0xFF : Byte) ++ d ++ a ++ b) = .udf) ∧
  (∀ (s : State) (t : Nat), s.cur = .team t → exec .udf s = .next (teamFault s t 0x01 s.ir 0)) ∧
  (∀ (s : State) (h n : Nat), s.cur = .shuttle h n → exec .udf s = .next (shuttleFault s h n 0x01 s.ir 0))

/-- The state after reset: 256 cores and 4 dies with nothing resident, 64 virtual functions in STATE 0, no team, harness, launch
or queue, and no byte of any memory listed: HBM, CXL, host, peers, die scratch, shared memory, queue memory and mailboxes,
each byte of which reads 0, the model's value where the spec gives none (log 4), as is the 0 of CYC (log 3). -/
def Obligations.ResetValues : Prop :=
  State.reset.cores.length = 256 ∧ State.reset.dies.length = 4 ∧ State.reset.funcs.length = 64 ∧
  (∀ f, f < 64 → (State.reset.func f).state = 0) ∧
  (∀ c, (State.reset.core c).resident = none ∧ (State.reset.core c).cyc = 0 ∧ (State.reset.core c).left = []) ∧
  State.reset.hbm = [] ∧ State.reset.cxl = [] ∧ State.reset.host = [] ∧ State.reset.peers = [] ∧
  (∀ d, (State.reset.die d).scratch = []) ∧ (∀ h, (State.reset.harness h).shared = []) ∧
  (∀ f, (State.reset.func f).qmem = [] ∧ (State.reset.func f).mbox = []) ∧ (∀ l, State.reset.byteAt l = 0) ∧
  State.reset.teams = [] ∧ State.reset.harnesses = [] ∧ State.reset.launches = [] ∧
  (∀ f q, (State.reset.func f).queues.lookup q = none)

/-- Every step keeps every memory and every register file of the module in its canonical form, from any state that has it. -/
def Obligations.StepKeepsCanonicalForm : Prop :=
  ∀ s s' : State, s.wf = true → step s = .next s' → s'.wf = true

/-- The state after reset has it. -/
def Obligations.ResetCanonicalForm : Prop := State.reset.wf = true

/-! ## Registers -/

/-- A result is written in the running lanes of a vector register, once to a scalar register, and nowhere for any other
destination; every other lane, register and predicate reads as before. -/
def Sys2Proof.Claims.RegisterWrite : Prop :=
  ∀ (w : View) (d : Byte) (g : Nat → Word), w.regs.wf = true → w.nl ≤ 1024 →
    let r := wr w d g
    (∀ n k, k < 1024 →
      getV r n k = if isV d = true ∧ n = d.toNat ∧ k < w.nl ∧ w.run.getLsbD k = true then g k else getV w.regs n k) ∧
    (∀ n, getS r n = if isS d = true ∧ n + 0xC0 = d.toNat then g 0 else getS w.regs n) ∧
    (∀ n, getP r n = getP w.regs n) ∧ r.wf = true

/-- A predicate result is written in the running lanes; p0 discards it and reads true. -/
def Sys2Proof.Claims.PredicateWrite : Prop :=
  ∀ (w : View) (d : Byte) (g : Nat → Bool), w.regs.wf = true → w.nl ≤ 1024 →
    let r := wrQ w d g
    (∀ n k, k < 1024 →
      (getP r n).getLsbD k =
        if n + 0xE0 = d.toNat ∧ 0 < n ∧ n < 8 ∧ k < w.nl ∧ w.run.getLsbD k = true then g k else (getP w.regs n).getLsbD k) ∧
    (∀ k, k < 1024 → (getP r 0).getLsbD k = true) ∧
    (∀ n k, getV r n k = getV w.regs n k) ∧ (∀ n, getS r n = getS w.regs n)

/-- A 64-bit result is written to the pair: its low half in the even register, its high half in the next one. -/
def Sys2Proof.Claims.PairWrite : Prop :=
  ∀ (w : View) (d : Byte) (g : Nat → BitVec 64), w.regs.wf = true → w.nl ≤ 1024 →
    let r := wr64 w d g
    (∀ n k, k < 1024 →
      getV r n k =
        if isV d = true ∧ k < w.nl ∧ w.run.getLsbD k = true ∧ n = d.toNat then (g k).setWidth 32
        else if isV d = true ∧ k < w.nl ∧ w.run.getLsbD k = true ∧ n = d.toNat + 1 then (g k).extractLsb' 32 32
        else getV w.regs n k) ∧
    (∀ n,
      getS r n =
        if isS d = true ∧ n + 0xC0 = d.toNat then (g 0).setWidth 32
        else if isS d = true ∧ n + 0xBF = d.toNat then (g 0).extractLsb' 32 32
        else getS w.regs n)

/-- What an operand byte reads: a vector register its lane, a scalar register the same word in every lane, lid the lane, gid
its group, tid, cid, role and tmr those of the team, zero 0. -/
def Sys2Proof.Claims.OperandReads : Prop :=
  ∀ (w : View) (k : Nat),
    (∀ x, isV x = true → rd w x k = getV w.regs x.toNat k) ∧
    (∀ x, isS x = true → rd w x k = getS w.regs (x.toNat - 0xC0)) ∧
    rd w 0xE8 k = BitVec.ofNat 32 k ∧ rd w 0xE9 k = BitVec.ofNat 32 (k / 32) ∧ rd w 0xEA k = w.tid ∧ rd w 0xEB k = w.cid ∧
    rd w 0xEC k = w.role ∧ rd w 0xEE k = w.tmr ∧ rd w 0xEF k = 0

/-! ## The checks before an instruction's own rule -/

namespace Sys2Proof.Claims
open Sys2Proof.Machine

/-- What each instruction word asks for before its own rule, from the encoding tables of the spec: who may issue it (R100,
R102, R103), copy rights (R99), the kinds of its operand bytes (R170, R175, R208, R225, R260, R270, R300, R326, R339, R374,
R399, R429), the element types and immediates it takes (R172, R97), and the bytes that name registers, in the order D, A, B. -/
def needs (s : State) : Instr → Option Rules
  | .jmp _ | .call _ | .fence _ _ _ | .nop => some { shuttle := true }
  | .brs d _ => some { shuttle := true, legal := fun _ => isS d, regs := [d] }
  | .brp d _ => some { legal := fun w => isQ w.shuttle d, regs := [d], passes := some 1 }
  | .ifP d _ | .breakP d _ | .contP d _ =>
    some { counter := true, legal := fun w => isQ w.shuttle d, regs := [d], passes := some 1 }
  | .elseP _ | .loop _ | .endloop _ | .endif => some { counter := true }
  | .join d _ => some { mode := fun _ => d.toNat < 16 }
  | .jtab d a b | .lwrite d a b => some { legal := fun _ => isV d && isS a && isS b, regs := [d, a, b], passes := some 1 }
  | .ret a => some { shuttle := true, legal := fun _ => isS a, regs := [a] }
  | .mcall d _ _ => some { mode := fun _ => d.toNat < 64 }
  | .wait _ | .trap _ | .svc _ | .bkpt _ | .mode _ | .sleep _ | .yield | .exit | .rtt | .mret => some {}
  | .modex d a b => some { legal := fun _ => isSZ d && isS a && isS b, regs := [d, a, b] }
  | .rdcr d i => some { legal := fun _ => isSZ d, mode := fun _ => i.toNat ≤ 0x14, regs := [d] }
  | .wrcr d i => some { legal := fun _ => isS d, mode := fun _ => (crWidth i.toNat).isSome, regs := [d] }
  | .rdtm d a => some { legal := fun _ => isS d && evenReg d, mode := fun _ => a.toNat ≤ 1, regs := [d] }
  | .trace d _ => some (rulesDebug [d] (isSZ d))
  | .gang a | .tmrset a => some { legal := fun _ => isS a, regs := [a] }
  | .pathq d a b =>
    some { legal := fun _ => isSZ d, mode := fun _ => a.toNat ≤ 2 && b.toNat ≤ 15 && (b == 0 || a == 1), regs := [d] }
  | .add d a b | .sub d a b | .mul d a b | .mad d a b | .min d a b | .max d a b | .clamp d a b =>
    some (rulesDXY true true intMode d a b)
  | .mulh d a b => some (rulesDXY true true (etIn [0, 1, 2, 3, 4, 5]) d a b)
  | .abs d a | .neg d a => some (rulesDX true true intMode d a)
  | .addc d a b | .subb d a b => some (rulesCarry d a b)
  | .divn d a b | .remn d a b | .and d a b | .or d a b | .xor d a b | .andn d a b | .shl d a b | .shr d a b | .sha d a b
    | .rotl d a b | .bfe d a b | .bfi d a b => some (rulesDXY true false anyMode d a b)
  | .addi d _ | .muli d _ => some (rulesDI true (etIn [0, 1, 9]) d)
  | .not d a | .popc d a | .clz d a | .brev d a => some (rulesDX true false anyMode d a)
  | .shli d _ | .shri d _ | .shai d _ | .lit d _ | .lih d _ => some (rulesDI false anyMode d)
  | .mov d a =>
    some { shuttle := true, legal := fun w => legalDX w d a || (isQ w.shuttle d && isQ w.shuttle a), regs := [d, a] }
  | .sel d a b => some { shuttle := true, legal := fun w => legalDXY w d a b && (w.shuttle || !isS d), regs := [d, a, b] }
  | .setpEq d a b | .setpNe d a b | .setpLt d a b | .setpLe d a b | .setpGt d a b | .setpGe d a b => some (rulesSetp d a b)
  | .pand d a b | .por d a b => some (rulesQ d a b)
  | .pnot d a => some (rulesQ d a a)
  | .shfl d a b | .shflx d a b => some (rulesShuffle d a b)
  | .bcast d a b => some { legal := fun _ => isV d && isV a && isS b, regs := [d, a, b] }
  | .lread d a b => some { legal := fun _ => isS d && isV a && isS b, regs := [d, a, b] }
  | .vany d a | .vall d a | .ffs d a => some (rulesVote d a)
  | .ballot d a b => some { legal := fun w => isS d && isQ w.shuttle a, mode := fun _ => b.toNat ≤ 31, regs := [d, a] }
  | .redadd d a | .redmin d a | .redmax d a => some (rulesRed d a)
  | .scanadd d a =>
    some { legal := fun w => isV d && isV a && pairsOk w.mr [d, a], mode := etIn [0, 1, 2, 3, 4, 5, 6, 7, 8, 9], regs := [d, a] }
  | .lanecnt d => some { legal := fun _ => isS d, regs := [d] }
  | .lea d a b | .rand d a b | .cvtr d a b | .qenc d a b | .qdec d a b => some (rulesDXY false false anyMode d a b)
  | .movp d a => some { legal := fun w => (isV d && isQ w.shuttle a) || (isQ w.shuttle d && isV a), regs := [d, a] }
  | .addp d a b =>
    some { legal := fun w => ((isV d && isV a) || (isS d && isS a)) && isX w.shuttle b && scalarOk d [b] && evenReg d && evenReg a, regs := [d, a, b] }
  | .fadd d a b | .fsub d a b | .fmul d a b | .fma d a b | .fmin d a b | .fmax d a b =>
    some (rulesDXY false false floatMode d a b)
  | .fabs d a | .fneg d a | .frnd d a | .fclass d a => some (rulesDX false false floatMode d a)
  | .frcp d a | .frsq d a | .fexp2 d a | .flog2 d a | .fsinpi d a => some (rulesDX false false (etIn [6]) d a)
  | .fscale d a b => some (rulesDXY false false (etIn [6]) d a b)
  | .cvt d a b =>
    some { legal := fun w => legalDX w d a, mode := fun _ => cvtSrc b ≤ 4 && cvtDst b ≤ 4 && cvtPart b < cvtParts b, regs := [d, a] }
  | .cvtw d a b | .fdot2 d a b => some (rulesDXY false false (etIn [7, 8]) d a b)
  | .cvti2f d a => some { legal := fun w => legalDX w d a && pairsOk w.mr [a], mode := etIn [0, 1, 9], regs := [d, a] }
  | .cvtf2i d a => some { legal := fun w => legalDX w d a && pairsOk w.mr [d], mode := etIn [0, 1, 9], regs := [d, a] }
  | .bscl d a b =>
    some { legal := fun w => legalDX w d a, mode := fun _ => (slotOf s b.toNat).kind == 1 || (slotOf s b.toNat).kind == 2, regs := [d, a] }
  | .pkn d a b | .upkn d a b => some (rulesPk 4 d a b)
  | .pkb d a b | .upkb d a b => some (rulesPk 8 d a b)
  | .pkh d a b | .upkh d a b => some (rulesPk 16 d a b)
  | .redamax d a => some { legal := fun _ => isS d && isV a, regs := [d, a] }
  | .fexpd d a b => some { legal := fun w => legalDXY w d a b && evenReg d, regs := [d, a, b] }
  | .lds d a b | .ldx d a b | .ldaq d a b => some (rulesMem true true 1 d a b)
  | .sts d a b | .stx d a b => some (rulesMem true false 1 d a b)
  | .lds2 d a b | .ldx2 d a b => some (rulesMem false true 2 d a b)
  | .sts2 d a b | .stx2 d a b => some (rulesMem false false 2 d a b)
  | .lds4 d a b | .ldx4 d a b => some (rulesMem false true 4 d a b)
  | .sts4 d a b | .stx4 d a b => some (rulesMem false false 4 d a b)
  | .spill a b => some (rulesSpill s.me.info.grp a b)
  | .fill d b => some (rulesSpill s.me.info.grp d b)
  | .atomsAdd d a b | .atomsAnd d a b | .atomsOr d a b | .atomsXchg d a b => some (rulesAtom false false false d a b)
  | .atomsMin d a b | .atomsMax d a b => some (rulesAtom false true false d a b)
  | .atomsCas d a b => some (rulesAtom false false true d a b)
  | .fatomsAdd d a b | .fatomxAdd d a b => some (rulesMem false false 1 d a b)
  | .atomxAdd d a b | .atomxXchg d a b | .ticket d a b => some (rulesAtom true false false d a b)
  | .atomxMin d a b | .atomxMax d a b => some (rulesAtom true true false d a b)
  | .atomxCas d a b => some (rulesAtom true false true d a b)
  | .waitv d a b =>
    some { legal := fun _ => isS d && isS a && b.toNat < 16, mode := fun _ => b.toNat % 8 != 4 && b.toNat % 8 != 5, regs := [d, a] }
  | .cpy a | .cpya a => some (rulesCopy [a] (isBase 4 a))
  | .cpyt a | .cpyg a | .cpys a | .shstop a => some (rulesCopy [a] (isS a))
  | .seal d => some (rulesCopy [d] (isS d))
  | .shrun d a b => some (rulesCopy [d, a, b] (isS d && isS a && isS b))
  | .shstat d a => some (rulesCopy [d, a] (isS d && isS a))
  | .gput a | .amend a | .final a => some (rulesGraded [a] (isBase 4 a))
  | .gget a b => some (rulesGraded [a, b] (isBase 4 a && isS b))
  | .gqry d a => some (rulesGraded [d, a] (isS d && isBase 4 a))
  | .release d a b => some (rulesToken true [d, a, b] (isS d && isS a && isS b))
  | .egress a b => some (rulesToken true [a, b] (isBase 4 a && isS b))
  | .tld d a b | .tst d a b | .tadd d a b => some (rulesRowB (isS d && isC a && isSZ b))
  | .tgat d a b | .tsca d a b => some (rulesRowB (isS d && isC a && isS b && b.toNat ≤ 0xDD))
  | .tcur d a => some (rulesRowB (isC d && isS a))
  | .tstep d a _ => some (rulesRowB (isP4 d && isC a))
  | .xld d a b | .xst d a b => some (rulesRowB (isS d && isBase 2 a && isSZ b))
  | .lpset d a _ => some (rulesRowB (d.toNat < 4 && isS a))
  | .lpend d => some (rulesRowB (d.toNat < 4))
  | .arrive d a => some (rulesRowB (isS d && isSZ a))
  | .tzero d a b => some (rulesRowB (isS d && isS a && isSZ b))
  | .shwait d => some (rulesRowB (d.toNat < 16))
  | .shpost d a => some (rulesRowB (isBase 8 d && isS a))
  | .guard a b => some (rulesWm [a, b] (isS a && isS b) (some 1))
  | .pack d a | .packr d a => some (rulesWm [d, a] (isV d && isV a) (packPasses s (cfgSlots s)))
  | .packq d a b => some (rulesWm [d, a, b] (isV d && isV a && isS b) (packPasses s 64))
  | .packa d a b => some (rulesWm [d, a, b] (isV d && isV a && isSZ b) (packPasses s 64))
  | .packs d a b => some (rulesWm [d, a, b] (isV d && isV a && isS b) (packPasses s (packsLanes s b)))
  | .wmul d a b | .wmulk d a b | .wmulg d a b | .wmulgk d a b => some (rulesWm [d, a, b] (mulLegal d a b) (some 1))
  | .extr d a => some (rulesWm [d, a] (isV d && isAcc a) none)
  | .extsF32 d a b | .extsBf16 d a b | .extsF16 d a b => some (rulesWm [d, a, b] (isV d && isAcc a && isV b) none)
  | .norm d | .aclr d => some (rulesWm [d] (isAcc d) (some 1))
  | .strm d a => some { rulesWm [a] (isS a) (some 1) with mode := fun _ => d.toNat < 8 }
  | .subs d => some { rulesWm [] true (some 1) with mode := fun _ => d.toNat < 8 }
  | .skipq d a => some { rulesWm [d] (isS d) (some 1) with mode := fun _ => a.toNat ≤ 1 }
  | .wstat d a => some (rulesWm [d, a] (isS d && isAcc a) (some 1))
  | .accst d a => some (rulesWm [d, a] (isAcc d && isS a) (some 1))
  | .accld d a b => some { rulesWm [d, a] (isAcc d && isS a) (some 1) with mode := fun _ => b.toNat ≤ 1 }
  | .bfjoin d a => some (rulesToken false [d, a] (isS d && isBase 4 a))
  | .bftake d a b => some (rulesToken false [d, a, b] (isBase 2 d && isS a && isS b))
  | .bfdone a => some (rulesToken false [a] (isS a))
  | .specpg d a | .cancelq d a => some (rulesToken false [d, a] (isS d && isS a))
  | .commit d a b => some (rulesToken false [d, a, b] (isS d && isS a && isS b))
  | .mbxput a b => some (rulesToken false [a, b] (isBase 8 a && isS b))
  | .mbxget d a b => some (rulesToken false [d, a, b] (isBase 8 d && isS a && isS b))
  | .binit a b | .bexp a b => some (rulesBarrier [a, b] (isS a && isS b))
  | .barr a | .bret a => some (rulesBarrier [a] (isS a))
  | .bwait a b => some (rulesBarrier [a, b] (isS a && isSZ b))
  | .btry d a b => some (rulesBarrier [d, a, b] (isS d && isS a && isSZ b))
  | .bgrd d a => some (rulesBarrier [d, a] (isS d && evenReg d && isS a))
  | .fetchw d | .tryw d => some (rulesTask [d] (isBase 4 d))
  | .taskend a b => some (rulesTask [a, b] (isBase 4 a && isSZ b))
  | .taskq d a b => some { rulesTask [d, a] (isS d && isS a) with mode := fun _ => b.toNat ≤ 2 }
  | .refire a => some (rulesTask [a] (isS a))
  | .retire a | .gwait a => some (rulesTask [a] (isBase 4 a))
  | .dispq d a => some { rulesTask [d] (isS d) with mode := fun _ => a.toNat ≤ 2 }
  | .cswr d a b => some { legal := fun _ => isS d && isS a && isS b, regs := [d, a, b] }
  | .csrd d a => some { legal := fun _ => isS d && evenReg d && isS a, regs := [d, a] }
  | .watch d a => some { rulesDebug [a] (isBase 4 a) with mode := fun _ => d.toNat ≤ 3 }
  | .unwatch d => some { rulesDebug [] true with mode := fun _ => d.toNat ≤ 3 }
  | .perfrd d a => some (rulesDebug [d, a] (isS d && evenReg d && isS a))
  | .prec a => some (rulesDebug [a] (isBase 4 a))
  | .eccq d a => some (rulesDebug [d, a] (isS d && isS a))
  | .dot4 d a b => some (rulesDXY false false (etIn [4, 5]) d a b)
  | .dot2 d a b => some (rulesDXY false false (etIn [2, 3]) d a b)
  | .madw d a b => some { legal := fun w => legalDXY w d a b && evenReg d, mode := etIn [0, 1], regs := [d, a, b] }
  | .dbgmsg a b => some (rulesDebug [a, b] (isS a && isS b))
  | .shend => some (rulesRowB true)
  | .rls | .unsubs => some (rulesWm [] true (some 1))
  | .iflush => some (rulesDebug [] true)
  | .prio => some { legal := fun _ => s.ir.extractLsb' 0 16 == 0, mode := fun _ => s.ir.extractLsb' 18 6 == 0 }
  | .udf => some { shuttle := true, legal := fun _ => false }
  | _ => none

/-- The opcodes a Shuttle executes (R103), and UDF, which faults there too (R100). -/
def shuttleOps : List Nat :=
  [0x00, 0x01, 0x02, 0x0D, 0x0E] ++ (List.range 32).map (· + 0x20) ++ [0x40, 0x41, 0x42, 0x43, 0x44, 0x45, 0x46, 0x47, 0x48, 0x49,
    0x4A, 0x4B, 0x4C, 0x4D, 0x80, 0x81, 0x90, 0x91, 0x96, 0x97, 0x98, 0x99, 0x9A, 0x9C, 0x9D, 0x9F, 0xA9, 0xAA, 0xAB, 0xAC, 0xAD,
    0xFF] ++ (List.range 16).map (· + 0xB0)

/-- The word that TADDR shows: that of the instruction; for UDF and PRIO, whose immediate is not in the constructor, the word
issued. -/
def shown (i : Instr) (s : State) : Word := if i = .udf ∨ i = .prio then s.ir else (encode i).getD 0

/-- The first operand byte that names a vector register, `span` of them from it on, at or above the budget. -/
def overByte (budget span : Nat) : List Byte → Option Byte
  | [] => none
  | x :: r => if isV x && decide (budget < x.toNat + span) then some x else overByte budget span r

/-- The instructions whose own rule may raise cause 0x01, by a register's value, a descriptor or the place they stand at. -/
def ownIllegal : Instr → Bool
  | .brp _ _ | .join _ _ | .jtab _ _ _ | .mcall _ _ _ | .mode _ | .modex _ _ _ | .rdcr _ _ | .wrcr _ _ | .gang _
    | .fatomsAdd _ _ _ | .fatomxAdd _ _ _ | .fence _ _ _ | .cpy _ | .cpyt _ | .cpyg _ | .cpys _ | .cpya _
    | .shrun _ _ _ | .shstat _ _ | .shstop _ | .gput _ | .gget _ _ | .amend _ | .final _ | .gqry _ _ | .egress _ _
    | .guard _ _ | .packq _ _ _ | .packa _ _ _ | .packs _ _ _ | .wmul _ _ _ | .wmulk _ _ _ | .wmulg _ _ _
    | .wmulgk _ _ _ | .extr _ _ | .extsF32 _ _ _ | .extsBf16 _ _ _ | .extsF16 _ _ _ | .strm _ _ | .subs _
    | .commit _ _ _ | .mbxput _ _ | .mbxget _ _ _ | .binit _ _ | .taskend _ _ | .retire _ | .gwait _ | .cswr _ _ _
    | .csrd _ _ | .watch _ _ | .perfrd _ _ | .eccq _ _ | .exit | .rtt | .mret => true
  | _ => false

/-- The instructions that fall through whatever their operands. -/
def fallsAlways : Instr → Bool
  | .breakP _ _ | .contP _ _ | .rdtm _ _ | .trace _ _ | .pathq _ _ _ | .add _ _ _ | .sub _ _ _ | .mul _ _ _
    | .mulh _ _ _ | .mad _ _ _ | .min _ _ _ | .max _ _ _ | .abs _ _ | .neg _ _ | .addc _ _ _ | .subb _ _ _
    | .divn _ _ _ | .remn _ _ _ | .addi _ _ | .muli _ _ | .clamp _ _ _ | .and _ _ _ | .or _ _ _ | .xor _ _ _
    | .andn _ _ _ | .not _ _ | .shl _ _ _ | .shr _ _ _ | .sha _ _ _ | .rotl _ _ _ | .shli _ _ | .shri _ _ | .shai _ _
    | .popc _ _ | .clz _ _ | .brev _ _ | .bfe _ _ _ | .mov _ _ | .lit _ _ | .lih _ _ | .sel _ _ _ | .setpEq _ _ _
    | .setpNe _ _ _ | .setpLt _ _ _ | .setpLe _ _ _ | .setpGt _ _ _ | .setpGe _ _ _ | .pand _ _ _ | .por _ _ _
    | .pnot _ _ | .bfi _ _ _ | .shfl _ _ _ | .shflx _ _ _ | .bcast _ _ _ | .lread _ _ _ | .lwrite _ _ _ | .vany _ _
    | .vall _ _ | .ballot _ _ _ | .redadd _ _ | .redmin _ _ | .redmax _ _ | .scanadd _ _ | .lanecnt _ | .ffs _ _
    | .lea _ _ _ | .movp _ _ | .addp _ _ _ | .rand _ _ _ | .fadd _ _ _ | .fsub _ _ _ | .fmul _ _ _ | .fma _ _ _
    | .fmin _ _ _ | .fmax _ _ _ | .fabs _ _ | .fneg _ _ | .frcp _ _ | .frsq _ _ | .fexp2 _ _ | .flog2 _ _
    | .fscale _ _ _ | .frnd _ _ | .fclass _ _ | .fsinpi _ _ | .cvt _ _ _ | .cvtw _ _ _ | .cvti2f _ _ | .cvtf2i _ _
    | .cvtr _ _ _ | .qenc _ _ _ | .qdec _ _ _ | .bscl _ _ _ | .pkn _ _ _ | .upkn _ _ _ | .pkb _ _ _ | .upkb _ _ _
    | .pkh _ _ _ | .upkh _ _ _ | .redamax _ _ | .fexpd _ _ _ | .seal _ | .tmrset _ | .unwatch _ | .dot4 _ _ _
    | .dot2 _ _ _ | .fdot2 _ _ _ | .madw _ _ _ | .nop | .endif | .yield | .iflush | .prio => true
  | _ => false

/-- The out-of-range fault of `i` of team `t`, which would fall through to a word at or beyond CODESIZE/4 (R105): `i` does not
act (log 14). -/
def beyond (s : State) (t : Nat) (i : Instr) : State :=
  teamFault { s with ir := shown i s } t 0x04 (w32 ((s.team t).path.pc + 1)) 0

end Sys2Proof.Claims

/-- Every instruction word has an entry of `needs`, and no event has one; the words of row 0xB are those no team issues; copy
rights are asked of a team for the opcodes 0xA0 to 0xAF and for no other; a Shuttle may issue the opcodes of R103 and UDF. -/
def Sys2Proof.Claims.RightsByOpcode : Prop :=
  ∀ (s : State) (i : Instr),
    (isEvent i = true → needs s i = none) ∧
    (isEvent i = false → ∃ r op d a b, needs s i = some r ∧ encodeFields i = some (op, d, a, b) ∧
      (r.team = false ↔ op.toNat / 16 = 0xB) ∧ (r.copy = true ↔ op.toNat / 16 = 0xA) ∧
      (r.shuttle = true ↔ op.toNat ∈ shuttleOps))

/-- R98, R99, R81, R156 for every instruction word of a team: an opcode or operand it may not issue raises 0x01 with the word in
TADDR; then a dormant path falls through, in one pass; then missing copy rights raise 0x07 with the word; then, by the
model's order (log 13), an element type or immediate that the instruction does not take raises 0x01; then a vector register at
or above the budget raises 0x02 with its operand byte, unless the instruction's own rule raises 0x01. -/
def Sys2Proof.Claims.IssueChecksInOrder : Prop :=
  ∀ (s : State) (t : Nat) (i : Instr) (r : Rules), needs s i = some r → s.cur = .team t → (s.team t).path.resume = 0 →
    let w := (s.team t).view
    let acts := (s.team t).dormant = false ∨ r.counter = true
    ((r.team && r.legal w) = false → exec i s = .next (teamFault s t 0x01 (shown i s) 0)) ∧
    ((r.team && r.legal w) = true → (s.team t).dormant = true → r.counter = false →
      exec i s = .next (fallThrough i { r with passes := some 1 } s t w s)) ∧
    ((r.team && r.legal w) = true → acts →
      ((r.copy && !(s.team t).info.cpr) = true → exec i s = .next (teamFault s t 0x07 (shown i s) 0)) ∧
      ((r.copy && !(s.team t).info.cpr) = false →
        (r.mode w = false → exec i s = .next (teamFault s t 0x01 (shown i s) 0)) ∧
        (r.mode w = true → ∀ x, overByte w.budget r.span r.regs = some x →
          exec i s = .next (teamFault s t 0x02 (x.setWidth 32) 0) ∨
          (ownIllegal i = true ∧ ∃ lo, exec i s = .next (teamFault s t 0x01 lo 0)))))

/-- R103, R104: a word that a Shuttle may not issue, or an operand outside its set, is a Shuttle fault with cause 0x01: the
Shuttle stops in STATE 3 with the cause and the word in FADDR, and its starting team, not ended, is due the trap. -/
def Obligations.ShuttleRefusesWord : Prop :=
  ∀ (s : State) (h n : Nat) (i : Instr) (r : Rules), needs s i = some r → s.cur = .shuttle h n →
    let w := (s.shuttle h n).view
    (r.shuttle && r.legal w && r.mode w) = false →
      exec i s = .next (shuttleFault s h n 0x01 (shown i s) 0) ∧
      (∀ t, h < s.harnesses.length → n < (s.harness h).shuttles.length → (s.shuttle h n).starter = some t →
        t < s.teams.length → (s.team t).place ≠ .ended →
        let s' := shuttleFault s h n 0x01 (shown i s) 0
        (s'.shuttle h n).state = 3 ∧ (s'.shuttle h n).cause = 0x01 ∧ (s'.shuttle h n).faddr = (shown i s).setWidth 64 ∧
        (s'.shuttle h n).regs = (s.shuttle h n).regs ∧ (s'.shuttle h n).pc = (s.shuttle h n).pc ∧
        (s'.team t).due.shuttle = (s.team t).due.shuttle ++ [(n, 0x01)] ∧ (s'.team t).regs = (s.team t).regs ∧ s'.hbm = s.hbm)

/-- A dormant path's word changes nothing but the fall-through: the registers, memory, nesting counters and other teams stay,
and the path stands at the next word. -/
def Sys2Proof.Claims.DormantFallsThrough : Prop :=
  ∀ (s : State) (t : Nat) (i : Instr) (r : Rules), needs s i = some r → s.cur = .team t → t < s.teams.length →
    (s.team t).flow.path < (s.team t).flow.paths.length → (s.team t).path.resume = 0 → (s.team t).path.mac = none →
    (r.team && r.legal (s.team t).view) = true → (s.team t).dormant = true → r.counter = false →
    (s.team t).path.pc + 1 < codeWords (s.launchOf t) →
    ∃ s', exec i s = .next s' ∧ s' = s.putTeam t (s'.team t) ∧ (s'.team t).path.pc = (s.team t).path.pc + 1 ∧
      (s'.team t).path.mask = (s.team t).path.mask ∧ (s'.team t).regs = (s.team t).regs ∧ (s'.team t).deps = (s.team t).deps ∧
      (s'.team t).wm = (s.team t).wm ∧ (s'.team t).flow.nest = (s.team t).flow.nest ∧ (s'.team t).ctl.mr = (s.team t).ctl.mr ∧
      (s'.team t).perf.passes = (s.team t).perf.passes + 1

/-- No team and no Shuttle to issue it: an instruction word ends in the model's one fault. -/
def Sys2Proof.Claims.NoPartyFaults : Prop :=
  ∀ (s : State) (i : Instr), isEvent i = false → s.cur = .none → exec i s = .fault .noParty

/-- The fall-through to a word at or beyond CODESIZE/4 raises 0x04 at the instruction that falls through, with the word's
offset in TADDR, of every instruction that always falls through, and on a dormant path of every instruction; the instruction
does not act, the model's reading (log 14): registers, accumulators, counters and memory stay. The others that fall
through have the same clause in `Completes`, a macro's last word too (log 14). A jump there, or to a negative offset, faults too, the
offset shown in 32 bits of two's complement (log 133). -/
def Sys2Proof.Claims.OutOfCode : Prop :=
  ∀ (s : State) (t : Nat),
    (∀ i r, needs s i = some r → fallsAlways i = true → s.Passes t r → ¬ s.goesOn t → exec i s = .next (beyond s t i)) ∧
    (∀ i r, needs s i = some r → s.cur = .team t → (s.team t).path.resume = 0 → (r.team && r.legal (s.team t).view) = true →
      (s.team t).dormant = true → r.counter = false → ¬ s.goesOn t → exec i s = .next (beyond s t i)) ∧
    (∀ i, t < s.teams.length →
      let s' := beyond s t i
      (s'.team t).regs = (s.team t).regs ∧ (s'.team t).wm = (s.team t).wm ∧ (s'.team t).deps = (s.team t).deps ∧
      (∀ u, u ≠ t → s'.team u = s.team u) ∧ s'.hbm = s.hbm ∧ s'.cxl = s.cxl ∧ s'.peers = s.peers ∧ s'.dies = s.dies ∧
      s'.harnesses = s.harnesses ∧ s'.cores = s.cores) ∧
    (s.Passes t {} → ∀ i : BitVec 24, ((s.team t).path.pc : Int) + 1 + i.toInt < 0 ∨
        (codeWords (s.launchOf t) : Int) ≤ (s.team t).path.pc + 1 + i.toInt →
      exec (.jmp i) s = .next (teamFault s t 0x04 (BitVec.ofInt 32 ((s.team t).path.pc + 1 + i.toInt)) 0))

/-! ## Exceptions -/

/-- R394: what a device-handled trap saves and where it goes. -/
def Sys2Proof.Claims.TrapEntry : Prop :=
  ∀ (s : State) (t : Nat) (cause : Byte) (pc mwi : Nat) (lo hi : Word), t < s.teams.length →
    (s.team t).flow.path < (s.team t).flow.paths.length → (s.team t).ctl.inh = false → (s.team t).due.halt = false →
    (s.team t).due.one = none →
    let s' := takeTrap s t cause pc mwi lo hi
    let x := s.team t
    let y := s'.team t
    y.ctl = { x.ctl with
      tpcPc := BitVec.ofNat 22 pc, tpcMwi := BitVec.ofNat 5 mwi, tcause := cause, taddrLo := lo, taddrHi := hi
      tmode := x.ctl.mr, mr := 0, inh := true } ∧
    y.path.pc = x.ctl.tvec.toNat ∧ y.path.mask = x.path.mask ∧ y.flow.path = x.flow.path ∧
    (∀ k, k < 32 * x.info.grp → sparseWf 0 x.flow.nest = true → sparseWf 0 x.flow.shadow = true → x.path.mask.getLsbD k = true →
      sget 0 y.flow.shadow k = sget 0 x.flow.nest k ∧ sget 0 y.flow.nest k = 0) ∧
    (∀ k, sparseWf 0 x.flow.nest = true → sparseWf 0 x.flow.shadow = true → x.path.mask.getLsbD k = false →
      sget 0 y.flow.shadow k = sget 0 x.flow.shadow k ∧ sget 0 y.flow.nest k = sget 0 x.flow.nest k) ∧
    y.regs = x.regs ∧ y.deps = x.deps ∧ y.wm = x.wm ∧
    (∀ u, u ≠ t → s'.team u = s.team u) ∧ s'.harnesses = s.harnesses ∧ s'.hbm = s.hbm ∧ s'.dies = s.dies

/-- R396: a fault, TRAP, BKPT or SVC that would trap, inside a handler, halts the team and keeps the first trap's TPC,
TCAUSE, TADDR, TMODE and shadow counters; the host's event log takes one message, of TYPE 7 with the second cause.
That a host-served fault in a handler counts here is the model's reading (log 26). -/
def Sys2Proof.Claims.DoubleFault : Prop :=
  ∀ (s : State) (t : Nat) (cause : Byte) (lo hi : Word), t < s.teams.length → (s.team t).ctl.inh = true →
    let s' := teamFault s t cause lo hi
    let x := s.team t
    let y := s'.team t
    y.ctl = { x.ctl with halted := true } ∧ y.flow = x.flow ∧ y.regs = x.regs ∧ (∀ u, u ≠ t → s'.team u = s.team u) ∧
    s' = sendEvent (s.putTeam t y) (s.fnOf t) 7
      [w32 x.info.cid, w32 x.info.role, w32 x.info.tid, w32 x.path.pc, w32 cause.toNat] ∧
    (∀ pc mwi, takeTrap s t cause pc mwi lo hi = s') ∧ (∀ va wr, teamHostFault s t cause va wr = s')

/-- R397, R398: a cause whose fault policy bit is 0 halts the team at the faulting instruction, with TPC, TCAUSE and TADDR
written and INH still 0; with the bit 1, or for a cause that always traps, the handler is entered. -/
def Sys2Proof.Claims.FaultPolicy : Prop :=
  ∀ (s : State) (t : Nat) (cause : Byte) (lo hi : Word), t < s.teams.length → (s.team t).ctl.inh = false →
    let bit := if cause ∈ ([0x18, 0x19, 0x1A, 0x1B] : List Byte) then some 0
      else if cause ∈ ([0x05, 0x06] : List Byte) then some 1
      else if cause ∈ ([0x20, 0x21, 0x22] : List Byte) then some 2
      else if cause ∈ ([0x01, 0x02, 0x08, 0x09] : List Byte) then some 3 else none
    let halts := match bit with
      | some b => (s.launchOf t).fpol.getLsbD b = false
      | none => cause = 0x30
    let x := s.team t
    (¬ halts → teamFault s t cause lo hi = takeTrap s t cause x.at.1 x.at.2 lo hi) ∧
    (halts →
      let y := (teamFault s t cause lo hi).team t
      y.ctl = { x.ctl with
        tpcPc := BitVec.ofNat 22 x.at.1, tpcMwi := BitVec.ofNat 5 x.at.2, tcause := cause, taddrLo := lo, taddrHi := hi
        halted := true } ∧
      y.flow = x.flow ∧ y.regs = x.regs)

/-- R401: what RTT restores, for a team in a handler with a legal TMODE and TPC inside its code. -/
def Sys2Proof.Claims.ReturnFromTrap : Prop :=
  ∀ (s : State) (t : Nat), s.Passes t {} → (s.team t).ctl.inh = true → mrOk (s.team t).ctl.tmode = true →
    (s.team t).ctl.tpcPc.toNat < codeWords (s.launchOf t) →
    ∃ s', exec .rtt s = .next s' ∧
      let x := s.team t
      let y := s'.team t
      y.ctl = { x.ctl with mr := x.ctl.tmode, inh := false, halted := x.ctl.halted || x.due.one == some x.flow.path } ∧
      y.path = { x.path with pc := x.ctl.tpcPc.toNat, mac := none, resume := x.ctl.tpcMwi.toNat, dep := none } ∧
      (∀ k, k < 32 * x.info.grp → sparseWf 0 x.flow.nest = true → x.path.mask.getLsbD k = true →
        sget 0 y.flow.nest k = sget 0 x.flow.shadow k) ∧
      y.regs = x.regs ∧ (∀ u, u ≠ t → s'.team u = s.team u) ∧ s'.harnesses = s.harnesses ∧ s'.hbm = s.hbm ∧ s'.dies = s.dies

/-- RTT outside a handler, or with a reserved TMODE, is the illegal instruction; with TPC beyond the code it is out of range;
each of its own faults is a double fault in a handler. -/
def Sys2Proof.Claims.ReturnRefused : Prop :=
  ∀ (s : State) (t : Nat), s.Passes t {} →
    ((s.team t).ctl.inh = false ∨ mrOk (s.team t).ctl.tmode = false →
      exec .rtt s = .next (teamFault s t 0x01 0x15000000 0)) ∧
    ((s.team t).ctl.inh = true → mrOk (s.team t).ctl.tmode = true → codeWords (s.launchOf t) ≤ (s.team t).ctl.tpcPc.toNat →
      exec .rtt s = .next (doubleFault s t 0x04))

/-- R400, R407: TRAP, BKPT, and SVC with no bound service ring, outside a handler: each is counted as issued and enters
the handler with its cause, its number in TADDR and TPC at the next word. That the entry takes the place of a step
trap is the model's reading (log 27). -/
def Sys2Proof.Claims.TrapInstructions : Prop :=
  ∀ (s : State) (t : Nat) (n : BitVec 16), s.Passes t {} → (s.team t).ctl.inh = false → (s.team t).due.halt = false →
    (s.team t).due.one = none →
    let x := s.team t
    let enters := fun (i : Instr) (cause : Byte) (hi : Word) =>
      ∃ s1 s', exec i s = .next s' ∧ s' = enterTrap s1 t cause (x.path.pc + 1) 0 (n.setWidth 32) hi ∧
        (s1.team t).ctl = x.ctl ∧ (s1.team t).regs = x.regs ∧ (s1.team t).flow.paths = x.flow.paths ∧
        (s1.team t).perf.issued = x.perf.issued + 1 ∧ (s1.team t).due = x.due ∧ (∀ u, u ≠ t → s1.team u = s.team u)
    enters (.trap n) 0x28 0 ∧ enters (.bkpt n) 0x2A 0 ∧
    ((x.ctl.svcring = 0 ∨ ringOf (s.launchOf t) x.ctl.svcring.toNat = none) →
      enters (.svc n) 0x29 (x.ctl.svcring.setWidth 32))

/-- The traps due at a boundary, in this order: step, watchpoint, Shuttle fault, timer; each enters the handler at the next
instruction of a path, and is then no longer due. A step or watchpoint trap belongs to the path whose instruction raised it
(log 98), the others to the path that would issue next, or, where the current path has ended and none can issue, to the next live one
(log 127). In the cycle in which the swap of a harness is asked for, by a request to leave its core or a first host-served fault, what is
due to its teams is taken before that, at the end of the cycle at the latest. -/
def Sys2Proof.Claims.BoundaryTraps : Prop :=
  ∀ (s : State), let t := s.ev.team
    let x := s.team t
    (atPathBoundary s t = true → x.path.step = true →
      exec .stepTrap s = .next (takeTrap (s.putTeam t (x.putPath { x.path with step := false })) t 0x2D x.at.1 x.at.2 0 0)) ∧
    (∀ a r, atPathBoundary s t = true → x.path.step = false → x.path.watch = a :: r → watchOver s t a = true →
      exec .watchpointTrap s = .next (takeTrap (s.putTeam t (x.putPath { x.path with watch := r })) t 0x2B
        x.at.1 x.at.2 (BitVec.ofNat 32 a.addr) 0)) ∧
    (let s' := if x.pathTrap = true then s else standIn (settle s t) t
     let y := s'.team t
     atBoundary s' t = true → y.pathTrap = false →
      (∀ n c r, y.due.shuttle = (n, c) :: r →
        exec .shuttleFaultTrap s = .next (takeTrap (s'.putTeam t { y with due := { y.due with shuttle := r } }) t 0x31
          y.at.1 y.at.2 (BitVec.ofNat 32 n) (c.setWidth 32))) ∧
      (y.due.shuttle = [] → y.due.timer = true →
        exec .timerTrap s = .next (takeTrap (s'.putTeam t { y with due := { y.due with timer := false } }) t 0x2C
          y.at.1 y.at.2 0 0))) ∧
    (∀ (u : State) t, let x := u.team t
      (x.flow.paths.getD x.flow.path none ≠ none → standIn u t = u) ∧
      (∀ i p, t < u.teams.length → x.flow.path < 16 → i < 16 → x.flow.paths.getD x.flow.path none = none →
        x.flow.paths.getD i none = some p → p.held = false → p.dep ≠ some .gang →
        ∃ q, (standIn u t).team t = { x with flow := { x.flow with path := ((standIn u t).team t).flow.path, quantum := 0 } } ∧
          x.flow.paths.getD ((standIn u t).team t).flow.path none = some q ∧ q.held = false ∧ q.dep ≠ some .gang ∧
          (p.join = none → q.join = none))) ∧
    (∀ (u : State) t, dueTrap u t = none ↔ stepTrap u t = none ∧ watchTrap u t = none ∧ shuttleTrap u t = none ∧ timerTrap u t = none) ∧
    (∀ (u : State) t, (∀ v, stepTrap u t = some v → dueTrap u t = some v) ∧
      (stepTrap u t = none → ∀ v, watchTrap u t = some v → dueTrap u t = some v) ∧
      (stepTrap u t = none → watchTrap u t = none → ∀ v, shuttleTrap u t = some v → dueTrap u t = some v)) ∧
    (∀ (u : State) (k : Core) h, askedNow u k = some h ↔ k.resident = some h ∧ ((k.preempt = true ∧ k.preemptAt = u.time) ∨
      ((u.harness h).blocked = true ∧ (u.harness h).blockedAt = u.time))) ∧
    (∀ u : State, ((∀ k ∈ u.cores, askedNow u k = none) → endCycle u = u) ∧
      ∀ h, u.cores.filterMap (askedNow u) = [h] → endCycle u = (teamsOf u h).foldl (fun v t => (dueTrap v t).getD v) u) ∧
    (∀ (u : State) n, u.svc.power ≠ .off → n ≠ 0 → pass n u =
      let v := noteStandings (endCycle u)
      noteStandings (applySent (passTime n { v with cores := v.cores.map (sampleCore v n) })))

/-! ## Instructions that only write registers -/

namespace Sys2Proof.Claims
open Sys2Proof.Machine

/-- `i`, with the needs `r` of its encoding, completes for a team and for a Shuttle that may issue it: the register file is what
`g` gives on the view, the path or Shuttle goes on at the next word, and nothing else changes but what every instruction counts;
at the end of the code it has its fault instead (R105). -/
def Writes (s : State) (i : Instr) (g : View → RegFile) : Prop :=
  (∀ t r, needs s i = some r →
    (s.Normal t r → exec i s = .next (s.after t r (s.putTeam t { s.team t with regs := g (s.team t).view }))) ∧
    (s.Passes t r → ¬ s.goesOn t → exec i s = .next (beyond s t i))) ∧
  (∀ h n r, needs s i = some r →
    (s.ShNormal h n r →
      exec i s = .next (s.shAfter h n (s.putShuttle h n { s.shuttle h n with regs := g (s.shuttle h n).view }))) ∧
    (s.ShPasses h n r → codeWords (s.launch (s.harness h).launch) ≤ (s.shuttle h n).pc + 1 →
      exec i s = .next (shuttleFault s h n 0x04 (w32 ((s.shuttle h n).pc + 1)) 0)))

/-- An exact integer as an element of `b` bits: clamped under SAT 1, else its low bits read back with the type's sign (R173). -/
def fits (sat sgn : Bool) (b : Nat) (r : Int) : Int :=
  if sat then (if sgn then max (-(2 ^ (b - 1))) (min (2 ^ (b - 1) - 1) r) else max 0 (min (2 ^ b - 1) r))
  else if sgn then r.bmod (2 ^ b) else r % (2 ^ b : Nat)

/-- A typed integer instruction (R176, R177): its operand bytes D, A, B, and the exact result from the elements of D, A and B
by element width; `sat`: whether SAT applies. -/
structure ElemRule where
  d   : Byte
  a   : Byte
  b   : Byte
  sat : Bool := true
  f   : Nat → Int → Int → Int → Int

def elemRule : Instr → Option ElemRule
  | .add d a b  => some { d := d, a := a, b := b, f := fun _ _ x y => x + y }
  | .sub d a b  => some { d := d, a := a, b := b, f := fun _ _ x y => x - y }
  | .mul d a b  => some { d := d, a := a, b := b, f := fun _ _ x y => x * y }
  | .mad d a b  => some { d := d, a := a, b := b, f := fun _ c x y => c + x * y }
  | .mulh d a b => some { d := d, a := a, b := b, sat := false, f := fun n _ x y => (x * y) / (2 ^ n : Nat) }
  | .min d a b  => some { d := d, a := a, b := b, sat := false, f := fun _ _ x y => if x ≤ y then x else y }
  | .max d a b  => some { d := d, a := a, b := b, sat := false, f := fun _ _ x y => if x ≤ y then y else x }
  | .abs d a    => some { d := d, a := a, b := a, f := fun _ _ x _ => if x < 0 then -x else x }
  | .neg d a    => some { d := d, a := a, b := a, f := fun _ _ x _ => 0 - x }
  | .clamp d a b => some { d := d, a := a, b := b, sat := false, f := fun _ c x y => if y < c ∨ y < x then y else if c < x then x else c }
  | .addi d i   => some { d := d, a := d, b := d, f := fun _ c _ _ => c + i.toInt }
  | .muli d i   => some { d := d, a := d, b := d, f := fun _ c _ _ => c * i.toInt }
  | _ => none

/-- The field of R181: position and length. -/
def bfPos (y : Word) : Nat := (y.extractLsb' 0 5).toNat
def bfLen (y : Word) : Nat := min (y.extractLsb' 8 6).toNat 32
/-- The bits of a word from `bfPos` on, `bfLen` of them, cut at bit 31. -/
def bfMask (y : Word) : Word := (BitVec.allOnes 32 >>> (32 - bfLen y)) <<< bfPos y

/-- An instruction on 32-bit words (R179 to R183, R191, R192): its bytes D, A, B and the result from the words of D, A and B. -/
def wordRule (w : View) (k : Nat) : Instr → Option (Byte × Byte × Byte × (Word → Word → Word → Word))
  | .divn d a b => some (d, a, b, fun _ x y => if y = 0 then BitVec.allOnes 32 else x / y)
  | .remn d a b => some (d, a, b, fun _ x y => if y = 0 then x else x % y)
  | .and d a b  => some (d, a, b, fun _ x y => x &&& y)
  | .or d a b   => some (d, a, b, fun _ x y => x ||| y)
  | .xor d a b  => some (d, a, b, fun _ x y => x ^^^ y)
  | .andn d a b => some (d, a, b, fun _ x y => x &&& ~~~y)
  | .not d a    => some (d, a, a, fun _ x _ => ~~~x)
  | .shl d a b  => some (d, a, b, fun _ x y => x <<< y.toNat)
  | .shr d a b  => some (d, a, b, fun _ x y => x >>> y.toNat)
  | .sha d a b  => some (d, a, b, fun _ x y => x.sshiftRight y.toNat)
  | .rotl d a b => some (d, a, b, fun _ x y => (x <<< (y.toNat % 32)) ||| (x >>> (32 - y.toNat % 32)))
  | .shli d i   => some (d, d, d, fun x _ _ => x <<< (i.extractLsb' 0 5).toNat)
  | .shri d i   => some (d, d, d, fun x _ _ => x >>> (i.extractLsb' 0 5).toNat)
  | .shai d i   => some (d, d, d, fun x _ _ => x.sshiftRight (i.extractLsb' 0 5).toNat)
  | .popc d a   => some (d, a, a, fun _ x _ => BitVec.ofNat 32 ((List.range 32).countP x.getLsbD))
  | .clz d a    => some (d, a, a, fun _ x _ => BitVec.ofNat 32 ((List.range 33).countP fun j => x.toNat < 2 ^ j) - 1)
  | .brev d a   => some (d, a, a, fun _ x _ => x.reverse)
  | .bfe d a b  => some (d, a, b, fun _ x y =>
      let f := (x >>> bfPos y) <<< (32 - bfLen y)
      if y.getLsbD 16 then f.sshiftRight (32 - bfLen y) else f >>> (32 - bfLen y))
  | .bfi d a b  => some (d, a, b, fun c x y => (c &&& ~~~(bfMask y)) ||| ((x <<< bfPos y) &&& bfMask y))
  | .lit d i    => some (d, d, d, fun _ _ _ => i.signExtend 32)
  | .lih d i    => some (d, d, d, fun c _ _ => (i.setWidth 32 <<< 16) ||| (c &&& 0xFFFF))
  | .sel d a b  => some (d, a, b, fun _ x y => if (getP w.regs (w.mr.extractLsb' 11 3).toNat).getLsbD k then x else y)
  | .lea d a b  => some (d, a, b, fun _ x y => x + 4 * y)
  | .rand d a b => some (d, a, b, fun _ x y =>
      let z := x + y * 0x9E3779B9
      let z := (z ^^^ (z >>> 16)) * 0x7FEB352D
      let z := (z ^^^ (z >>> 15)) * 0x846CA68B
      z ^^^ (z >>> 16))
  | _ => none

/-- A comparison of SETP on integers (R184). -/
def intCompare : Instr → Option (Byte × Byte × Byte × (Int → Int → Prop))
  | .setpEq d a b => some (d, a, b, fun x y => x = y)
  | .setpNe d a b => some (d, a, b, fun x y => x ≠ y)
  | .setpLt d a b => some (d, a, b, fun x y => x < y)
  | .setpLe d a b => some (d, a, b, fun x y => x ≤ y)
  | .setpGt d a b => some (d, a, b, fun x y => y < x)
  | .setpGe d a b => some (d, a, b, fun x y => y ≤ x)
  | _ => none

/-- The value of an encoding of binary32 or of the mode's format as SETP and the arithmetic of row 0x6 see it. -/
def compareOf : Instr → Cc
  | .setpEq _ _ _ => .eq | .setpNe _ _ _ => .ne | .setpLt _ _ _ => .lt | .setpLe _ _ _ => .le | .setpGt _ _ _ => .gt | _ => .ge

/-- A predicate-logic instruction (R185): D, A, B and the bit from those of A and B. -/
def predRule : Instr → Option (Byte × Byte × Byte × (Bool → Bool → Bool))
  | .pand d a b => some (d, a, b, fun x y => x && y)
  | .por d a b  => some (d, a, b, fun x y => x || y)
  | .pnot d a   => some (d, a, a, fun x _ => !x)
  | _ => none

end Sys2Proof.Claims

/-- ADD, SUB, MUL, MULH, MAD, MIN, MAX, ABS, NEG, CLAMP, ADDI and MULI: each element of D becomes the exact result on the
elements of D, A and B, read with the element type's sign, narrowed to the element; the registers written are those of D. -/
def Obligations.IntegerElements : Prop :=
  ∀ (s : State) (i : Instr) (e : ElemRule), elemRule i = some e →
    ∃ v : View → Nat → BitVec 64,
      (∀ w k j, intMode w = true → j < etCount (mrEtype w.mr) →
        let b := etBits (mrEtype w.mr)
        let sg := etSigned (mrEtype w.mr)
        elemInt sg b (v w k) j =
          fits (e.sat && mrSat w.mr) sg b (e.f b (elemInt sg b (rdT w e.d k) j) (elemInt sg b (rdT w e.a k) j) (elemInt sg b (rdT w e.b k) j))) ∧
      Writes s i fun w => wrT w e.d (v w)

/-- DIVN, REMN, the logic, shifts, counts and fields of row 0x3, LIT, LIH, SEL, BFI, LEA and RAND: D becomes the word of
`wordRule`; a shift of 32 or more leaves 0, or the sign for SHA; a division by 0 gives all ones, its remainder A. A SEL with D = zero
discards its result (log 134). -/
def Sys2Proof.Claims.WordInstructions : Prop :=
  ∀ (s : State) (i : Instr) (w0 : View) (d a b : Byte) (f0 : Word → Word → Word → Word), wordRule w0 0 i = some (d, a, b, f0) →
    Writes s i fun w => wr w d fun k =>
      match wordRule w k i with
      | some (_, _, _, f) => f (rd w d k) (rd w a k) (rd w b k)
      | none => 0

/-- MOV of words and of predicates, and MOVP in either direction. -/
def Sys2Proof.Claims.MovesAndPredicates : Prop :=
  (∀ s d a, Writes s (.mov d a) fun w => if isQ w.shuttle d then wrQ w d (rdQ w a) else wr w d (rd w a)) ∧
  (∀ s d a, Writes s (.movp d a) fun w =>
    if isV d then wr w d fun k => (if rdQ w a k then 1 else 0) else wrQ w d fun k => decide (rd w a k ≠ 0)) ∧
  (∀ s i d a b f, predRule i = some (d, a, b, f) → Writes s i fun w => wrQ w d fun k => f (rdQ w a k) (rdQ w b k))

/-- SETP: the predicate of each running lane becomes the comparison of A and B, signed for s32 and s64, unsigned for n32, that of
binary32 values for f32, subnormals flushed where the mode says so. -/
def Sys2Proof.Claims.SetpCompares : Prop :=
  ∀ (s : State) (i : Instr) (d a b : Byte) (c : Int → Int → Prop), intCompare i = some (d, a, b, c) →
    ∃ v : View → Nat → Bool,
      (∀ w k, etIn [0, 1, 9] w = true →
        let n := if mrEtype w.mr = 9 then 64 else 32
        let z := fun (x : Byte) => if mrEtype w.mr = 1 then ((rd w x k).toNat : Int) else ((rdT w x k).setWidth n).toInt
        (v w k = true ↔ c (z a) (z b))) ∧
      (∀ w k, mrEtype w.mr = 6 →
        let z := fun (x : Byte) => Num.fval fmt32 (Num.flush (mrFlush w.mr) fmt32 (rd w x k).toNat)
        v w k = ccFloat (compareOf i) (z a) (z b)) ∧
      Writes s i fun w => wrQ w d (v w)

/-- SETP under f32: with a NaN only NE holds; both zeros are equal. -/
def Sys2Proof.Claims.SetpFloats : Prop :=
  (∀ cc x y, (x = FVal.nan ∨ y = FVal.nan) → ccFloat cc x y = (cc == .ne)) ∧
  (∀ cc a b, ccFloat cc (.fin a (Num.qInt 0)) (.fin b (Num.qInt 0)) = (cc == .eq || cc == .le || cc == .ge)) ∧
  (∀ x y, x ≠ .nan → y ≠ .nan →
    ccFloat .ne x y = !ccFloat .eq x y ∧ ccFloat .gt x y = ccFloat .lt y x ∧ ccFloat .ge x y = ccFloat .le y x ∧
    ccFloat .le x y = (ccFloat .lt x y || ccFloat .eq x y))

/-- ADDC and SUBB: the 33-bit sum, or the difference with its borrow, of A, B and the carry predicate: p7 of a team, p3 of a
Shuttle; the word goes to D and the carry to the predicate, in the running lanes. -/
def Sys2Proof.Claims.CarryChain : Prop :=
  ∀ (s : State) (d a b : Byte),
    let c := fun (w : View) => if w.shuttle then 3 else 7
    let sum := fun (w : View) (k : Nat) =>
      (rd w a k).toNat + (rd w b k).toNat + (if (getP w.regs (c w)).getLsbD k then 1 else 0)
    let dif := fun (w : View) (k : Nat) =>
      ((rd w a k).toNat : Int) - (rd w b k).toNat - (if (getP w.regs (c w)).getLsbD k then 1 else 0)
    Writes s (.addc d a b) (fun w =>
      putP (wr w d fun k => BitVec.ofNat 32 (sum w k)) (c w) (runLanes w) fun k => decide (2 ^ 32 ≤ sum w k)) ∧
    Writes s (.subb d a b) (fun w =>
      putP (wr w d fun k => BitVec.ofInt 32 (dif w k)) (c w) (runLanes w) fun k => decide (dif w k < 0))

/-- ADDP and MADW on pairs, DOT4 and DOT2: 64-bit sums, and sums of products of the elements, narrowed once.
Which operands ADDP takes is the model's choice (log 115). -/
def Sys2Proof.Claims.PairAndDot : Prop :=
  ∀ (s : State) (d a b : Byte),
    Writes s (.addp d a b) (fun w => wr64 w d fun k => rd64 w a k + (rd w b k).signExtend 64) ∧
    (∃ v : View → Nat → BitVec 64,
      (∀ w k, etIn [0, 1] w = true →
        (mrEtype w.mr = 0 → (v w k).toInt = fits (mrSat w.mr) true 64 ((rd64 w d k).toInt + (rd w a k).toInt * (rd w b k).toInt)) ∧
        (mrEtype w.mr = 1 → ((v w k).toNat : Int) = fits (mrSat w.mr) false 64 ((rd64 w d k).toNat + (rd w a k).toNat * (rd w b k).toNat))) ∧
      Writes s (.madw d a b) fun w => wr64 w d (v w)) ∧
    (∀ i ∈ [Instr.dot4 d a b, .dot2 d a b], ∃ v : View → Nat → Word,
      (∀ w k, etIn [2, 3, 4, 5] w = true →
        let sg := etSigned (mrEtype w.mr)
        let e := fun (x : Word) j => elemInt sg (etBits (mrEtype w.mr)) (x.setWidth 64) j
        let products := ((List.range (etCount (mrEtype w.mr))).map fun j => e (rd w a k) j * e (rd w b k) j).sum
        elemInt sg 32 ((v w k).setWidth 64) 0 = fits (mrSat w.mr) sg 32 (elemInt sg 32 ((rd w d k).setWidth 64) 0 + products)) ∧
      Writes s i fun w => wr w d (v w))

namespace Sys2Proof.Claims
open Sys2Proof.Machine

/-- The mode's floating-point format and its flush (R193). -/
def ffmt (w : View) : Fmt := etFmt (mrEtype w.mr)
def ffl (w : View) (f : Fmt) (x : Nat) : Nat := Num.flush (mrFlush w.mr) f x

/-- Element `j` of operand `x` in lane `k`, raw, and its value after the flush. -/
def rawElem (w : View) (x : Byte) (k j : Nat) : Nat := elemOf (ffmt w).width ((rd w x k).setWidth 64) j
def valElem (w : View) (x : Byte) (k j : Nat) : FVal := Num.fval (ffmt w) (ffl w (ffmt w) (rawElem w x k j))

/-- One rounding to the mode's format with the mode's rounding, then the flush. -/
def oneRound (w : View) (v : FVal) : Nat := ffl w (ffmt w) (Num.roundTo (ffmt w) (mrRnd w.mr) v)

/-- The least or greatest of two encodings, a NaN giving way, -0 below +0 (R194). -/
def pick (f : Fmt) (greater : Bool) (x y : Nat) : Nat := floatPick f greater x y

/-- The element instructions of row 0x6 (R194, R195): D, A, B and each element of the result. -/
def floatRule (w : View) (k j : Nat) : Instr → Option (Byte × Nat)
  | .fadd d a b => some (d, oneRound w (Num.fadd (mrRnd w.mr) (valElem w a k j) (valElem w b k j)))
  | .fsub d a b => some (d, oneRound w (Num.fadd (mrRnd w.mr) (valElem w a k j) (Num.fneg (valElem w b k j))))
  | .fmul d a b => some (d, oneRound w (Num.fmul (valElem w a k j) (valElem w b k j)))
  | .fma d a b  => some (d, oneRound w (Num.fadd (mrRnd w.mr) (Num.fmul (valElem w a k j) (valElem w b k j)) (valElem w d k j)))
  | .fmin d a b => some (d, pick (ffmt w) false (ffl w (ffmt w) (rawElem w a k j)) (ffl w (ffmt w) (rawElem w b k j)))
  | .fmax d a b => some (d, pick (ffmt w) true (ffl w (ffmt w) (rawElem w a k j)) (ffl w (ffmt w) (rawElem w b k j)))
  | .fabs d a   => some (d, rawElem w a k j % 2 ^ ((ffmt w).width - 1))
  | .fneg d a   => some (d, (rawElem w a k j + 2 ^ ((ffmt w).width - 1)) % 2 ^ (ffmt w).width)
  | .frnd d a   => some (d, oneRound w (match valElem w a k j with
      | .fin neg q => .fin neg (Num.qInt (Num.roundNat (mrRnd w.mr) neg q.num.natAbs q.den))
      | v => v))
  | .fclass d a => some (d, fclass (ffmt w) (rawElem w a k j))
  | _ => none

/-- The functions of R196 on a binary32 value, rounded to nearest even. -/
def transRule : Instr → Option (Byte × Byte × (FVal → Nat))
  | .frcp d a => some (d, a, Num.rcpF)
  | .frsq d a => some (d, a, Num.rsqF 0)
  | .fexp2 d a => some (d, a, Num.exp2F 1)
  | .flog2 d a => some (d, a, Num.log2F 2)
  | .fsinpi d a => some (d, a, Num.sinPiF 3)
  | _ => none

/-- A finite value as a rational number. -/
def rat : FVal → Rat
  | .fin neg q => if neg then -(mkRat q.num q.den) else mkRat q.num q.den
  | _ => 0

def isFin : FVal → Prop
  | .fin _ _ => True
  | _ => False

/-- The nearest integer, ties away from zero. -/
def nearestAway (x : Rat) : Int := if 0 ≤ x then (x + 1 / 2).floor else (x - 1 / 2).ceil

/-- The distance of two rational numbers. -/
def apart (x y : Rat) : Rat := if x ≤ y then y - x else x - y

/-- A binary32 operand under the mode's flush. -/
def val32 (w : View) (x : Word) : FVal := Num.fval fmt32 (ffl w fmt32 x.toNat)

/-- The field width of a PK or UPK. -/
def fieldBits : Instr → Option (Nat × Byte × Byte × Byte)
  | .pkn d a h | .upkn d a h => some (4, d, a, h)
  | .pkb d a h | .upkb d a h => some (8, d, a, h)
  | .pkh d a h | .upkh d a h => some (16, d, a, h)
  | _ => none

def isPack : Instr → Bool
  | .pkn _ _ _ | .pkb _ _ _ | .pkh _ _ _ => true
  | _ => false

/-- The order of numbers in which -0 lies below +0; a NaN has no place in it. -/
def Below : FVal → FVal → Prop
  | .inf a, .inf b => a = true ∧ b = false
  | .inf a, .fin _ _ => a = true
  | .fin _ _, .inf b => b = false
  | .fin a x, .fin b y =>
    rat (.fin a x) < rat (.fin b y) ∨ (rat (.fin a x) = rat (.fin b y) ∧ a = true ∧ b = false)
  | _, _ => False

/-- The blocks of R190 for a number: the exponents of its powers of two, descending, each with the number of its node. -/
def scanBlocks (n : Nat) : List (Nat × Nat) :=
  ((List.range 11).reverse.filter n.testBit).map fun e => (e, n / 2 ^ (e + 1) * 2)

/-- Two results of which either may be absent. -/
def joined (add : Nat → Nat → Nat) : Option Nat → Option Nat → Option Nat
  | some x, some y => some (add x y)
  | some x, none => some x
  | none, y => y

end Sys2Proof.Claims

/-- SHFL, SHFLX, BCAST, LREAD and LWRITE: the source lane is read whether or not it runs, all before any lane is written; a lane
outside the team reads 0; LWRITE writes its one lane, running or not. -/
def Sys2Proof.Claims.LaneExchange : Prop :=
  ∀ (s : State) (d a b : Byte),
    let lane := fun (w : View) (j : Nat) => if j < w.nl then rd w a j else 0
    Writes s (.shfl d a b) (fun w => wr w d fun k => rd w a (32 * (k / 32) + (rd w b k).toNat % 32)) ∧
    Writes s (.shflx d a b) (fun w => wr w d fun k => lane w (rd w b k).toNat) ∧
    Writes s (.bcast d a b) (fun w => wr w d fun _ => lane w (rd w b 0).toNat) ∧
    Writes s (.lread d a b) (fun w => wr w d fun _ => lane w (rd w b 0).toNat) ∧
    Writes s (.lwrite d a b) (fun w =>
      if (rd w b 0).toNat < w.nl then putV w.regs d.toNat [(rd w b 0).toNat] fun _ => rd w a 0 else w.regs)

/-- VANY, VALL, BALLOT, LANECNT and FFS on the running lanes, with no lane running too; LANECNT, whose one operand is a scalar
register, takes one pass. -/
def Sys2Proof.Claims.VotesAndCounts : Prop :=
  ∀ (s : State) (d a b : Byte), ∃ bl : View → Word,
    (∀ w i, i < 32 → w.nl ≤ 1024 → w.nl % 32 = 0 →
      ((bl w).getLsbD i = true ↔ 32 * b.toNat + i < w.nl ∧ w.run.getLsbD (32 * b.toNat + i) = true ∧ rdQ w a (32 * b.toNat + i) = true)) ∧
    Writes s (.ballot d a b) (fun w => wr w d fun _ => bl w) ∧
    Writes s (.vany d a) (fun w => wr w d fun _ => if ∃ k ∈ runLanes w, rdQ w a k = true then 1 else 0) ∧
    Writes s (.vall d a) (fun w => wr w d fun _ => if ∀ k ∈ runLanes w, rdQ w a k = true then 1 else 0) ∧
    Writes s (.lanecnt d) (fun w => wr w d fun _ => BitVec.ofNat 32 (runLanes w).length) ∧
    (∀ (r : Rules) (w : View), isS d = true → needs s (.lanecnt d) = some r → passesOf r w = 1) ∧
    Writes s (.ffs d a) (fun w => wr w d fun _ => ((runLanes w).find? (rdQ w a)).elim 0xFFFFFFFF (BitVec.ofNat 32))

/-- REDADD, REDMIN, REDMAX and SCANADD under integer types: the narrowed exact sum of the running lanes' elements, their least
and greatest, the type's limits where no lane runs, and for SCANADD the sum up to the lane; REDAMAX the largest magnitude. -/
def Sys2Proof.Claims.IntegerReductions : Prop :=
  ∀ (s : State) (d a : Byte), ∃ v mn mx sc : View → Nat → BitVec 64,
    (∀ w k j, intMode w = true → j < etCount (mrEtype w.mr) →
      let b := etBits (mrEtype w.mr)
      let sg := etSigned (mrEtype w.mr)
      let e := fun (i : Nat) => elemInt sg b (rdT w a i) j
      let lo : Int := if sg then -(2 ^ (b - 1)) else 0
      let hi : Int := if sg then 2 ^ (b - 1) - 1 else 2 ^ b - 1
      elemInt sg b (v w k) j = fits (mrSat w.mr) sg b ((runLanes w).map e).sum ∧
      elemInt sg b (mn w k) j = ((runLanes w).map e).foldl min hi ∧
      elemInt sg b (mx w k) j = ((runLanes w).map e).foldl max lo ∧
      elemInt sg b (sc w k) j = fits (mrSat w.mr) sg b (((runLanes w).filter (· ≤ k)).map e).sum) ∧
    (∀ w, intMode w = true →
      redRegs w d (redAdd w a) = wrT w d (v w) ∧ redRegs w d (redPick w a false) = wrT w d (mn w) ∧
      redRegs w d (redPick w a true) = wrT w d (mx w) ∧
      (wrT w d fun k => mapElems (mrEtype w.mr) fun j => scanAdd w a k j) = wrT w d (sc w)) ∧
    Writes s (.redadd d a) (fun w => redRegs w d (redAdd w a)) ∧
    Writes s (.redmin d a) (fun w => redRegs w d (redPick w a false)) ∧
    Writes s (.redmax d a) (fun w => redRegs w d (redPick w a true)) ∧
    Writes s (.scanadd d a) (fun w => wrT w d fun k => mapElems (mrEtype w.mr) fun j => scanAdd w a k j) ∧
    Writes s (.redamax d a) (fun w => wr w d fun _ =>
      let ms := (runLanes w).map fun k => ffl w fmt32 (rd w a k).toNat % 2 ^ 31
      if ∃ m ∈ ms, 0x7F800000 < m then 0x7FC00000 else BitVec.ofNat 32 (ms.foldl max 0))

/-- A floating-point REDADD is the root of R189's tree over the running lanes, +0 where none runs; the tree adds neighbours, an
absent lane passing its partner through. -/
def Sys2Proof.Claims.FloatTree : Prop :=
  (∀ w a j, etFloat (mrEtype w.mr) = true → redAdd w a j = (treeNode (treeAdd w (ffmt w)) (floatLeaf w a j) (clog2 w.nl) 0).getD 0) ∧
  (∀ n, 0 < n → n ≤ 2 ^ clog2 n ∧ (1 < n → 2 ^ (clog2 n - 1) < n)) ∧
  (∀ (add : Nat → Nat → Nat) (leaf : Nat → Option Nat) (l i : Nat),
    treeNode add leaf 0 i = leaf i ∧
    (∀ x y, treeNode add leaf l (2 * i) = some x → treeNode add leaf l (2 * i + 1) = some y →
      treeNode add leaf (l + 1) i = some (add x y)) ∧
    (∀ x, treeNode add leaf l (2 * i) = some x → treeNode add leaf l (2 * i + 1) = none → treeNode add leaf (l + 1) i = some x) ∧
    (treeNode add leaf l (2 * i) = none → treeNode add leaf (l + 1) i = treeNode add leaf l (2 * i + 1))) ∧
  (∀ w a j i, w.run.getLsbD i = false → floatLeaf w a j i = none) ∧
  (∀ w a j i, i < w.nl → w.run.getLsbD i = true →
    floatLeaf w a j i = some (ffl w (ffmt w) (elemOf (ffmt w).width (rdT w a i) j))) ∧
  (∀ w f x y, treeAdd w f x y =
    ffl w f (Num.roundTo f (mrRnd w.mr) (Num.fadd (mrRnd w.mr) (Num.fval f x) (Num.fval f y))))

/-- A floating-point REDMIN or REDMAX is one of the running lanes' flushed elements that are numbers, none of which lies beyond it,
-0 below +0; the canonical NaN when all are NaNs; +∞, or for REDMAX -∞, when no lane runs. -/
def Sys2Proof.Claims.FloatExtremes : Prop :=
  ∀ (w : View) (a : Byte) (great : Bool) (j : Nat), etFloat (mrEtype w.mr) = true →
    let es := (runLanes w).map fun k => ffl w (ffmt w) (elemOf (ffmt w).width (rdT w a k) j)
    let v := Num.fval (ffmt w)
    let r := redPick w a great j
    (es = [] → v r = .inf great ∧ r < 2 ^ (ffmt w).width) ∧
    (es ≠ [] → (∀ e ∈ es, v e = .nan) → r = (ffmt w).nan) ∧
    ((∃ e ∈ es, v e ≠ .nan) → r ∈ es ∧ v r ≠ .nan ∧
      ∀ e ∈ es, v e ≠ .nan → ¬ (if great then Below (v r) (v e) else Below (v e) (v r)))

/-- A floating-point SCANADD gives lane k the fold, in ascending lane order, of the nodes of R189's tree over the blocks into which
the powers of two of k + 1 divide lanes 0 to k, +0 when all are absent; the blocks fill those lanes without a gap. -/
def Sys2Proof.Claims.FloatScan : Prop :=
  (∀ w a k j, etFloat (mrEtype w.mr) = true →
    scanAdd w a k j =
      (((scanBlocks (k + 1)).map fun b => treeNode (treeAdd w (ffmt w)) (floatLeaf w a j) b.1 b.2).foldl
        (joined (treeAdd w (ffmt w))) none).getD 0) ∧
  (∀ n, n < 2048 → ((scanBlocks n).map fun b => 2 ^ b.1).sum = n ∧ (scanBlocks n).Pairwise (fun b c => c.1 < b.1) ∧
    ∀ pre b post, scanBlocks n = pre ++ b :: post → b.2 * 2 ^ b.1 = (pre.map fun c => 2 ^ c.1).sum)

/-- FADD to FMAX, FABS, FNEG, FRND and FCLASS: each element of D is the exact operation on the flushed values of the elements,
rounded once as the mode says; the sign operations and FCLASS work on the raw bits. -/
def Sys2Proof.Claims.FloatArithmetic : Prop :=
  ∀ (s : State) (i : Instr) (w0 : View) (d : Byte) (x0 : Nat), floatRule w0 0 0 i = some (d, x0) →
    ∃ v : View → Nat → BitVec 64,
      (∀ w k j, floatMode w = true → j < etCount (mrEtype w.mr) →
        floatRule w k j i = some (d, elemOf (ffmt w).width (v w k) j)) ∧
      Writes s i fun w => wr w d fun k => (v w k).setWidth 32

/-- FSCALE and FDOT2 round one exact binary32 result; the sign of an FDOT2 whose sum is zero is the model's choice (log 126). -/
def Sys2Proof.Claims.FscaleFdot2 : Prop :=
  ∀ (s : State) (d a b : Byte),
    Writes s (.fscale d a b) (fun w => wr w d fun k =>
      BitVec.ofNat 32 (match Num.fval fmt32 (ffl w fmt32 (rd w a k).toNat) with
        | .fin neg q => ffl w fmt32 (Num.roundTo fmt32 (mrRnd w.mr)
            (.fin neg (Num.qMul q (Num.qPow2 (max (-600) (min 600 (rd w b k).toInt))))))
        | v => Num.roundTo fmt32 (mrRnd w.mr) v)) ∧
    Writes s (.fdot2 d a b) (fun w => wr w d fun k =>
      let e := fun (x : Byte) j => valElem w x k j
      BitVec.ofNat 32 (ffl w fmt32 (Num.roundTo fmt32 (mrRnd w.mr)
        (Num.fadd (mrRnd w.mr) (Num.fadd (mrRnd w.mr) (Num.fval fmt32 (ffl w fmt32 (rd w d k).toNat)) (Num.fmul (e a 0) (e b 0)))
          (Num.fmul (e a 1) (e b 1))))))

/-- FRCP, FRSQ, FEXP2, FLOG2 and FSINPI complete on every operand, their results flushed as the mode says, with the
special results of R196 on zeros, infinities, NaN and numbers below 0. FRCP of another number is its exact reciprocal, rounded
once; FRSQ's result is the rounding of one of two numbers at most 2^-300 apart that enclose the exact one, of either where
both round alike (log 15). -/
def Sys2Proof.Claims.Transcendentals : Prop :=
  (∀ (s : State) (i : Instr) (d a : Byte) (g : FVal → Nat), transRule i = some (d, a, g) →
    Writes s i fun w => wr w d fun k => BitVec.ofNat 32 (ffl w fmt32 (g (Num.fval fmt32 (ffl w fmt32 (rd w a k).toNat))))) ∧
  (∀ t neg, let z : FVal := .fin neg (Num.qInt 0)
    let sgn := fun (m : Nat) => if neg then 0x80000000 + m else m
    Num.rcpF z = sgn 0x7F800000 ∧ Num.rsqF t z = sgn 0x7F800000 ∧ Num.exp2F t z = 0x3F800000 ∧ Num.log2F t z = 0xFF800000 ∧
    Num.sinPiF t z = sgn 0 ∧ Num.rcpF (.inf neg) = sgn 0 ∧ Num.exp2F t (.inf neg) = (if neg then 0 else 0x7F800000) ∧
    Num.sinPiF t (.inf neg) = 0x7FC00000) ∧
  (∀ t, Num.rsqF t (.inf false) = 0 ∧ Num.rsqF t (.inf true) = 0x7FC00000 ∧ Num.log2F t (.inf false) = 0x7F800000 ∧
    Num.log2F t (.inf true) = 0x7FC00000) ∧
  (∀ t q, 0 < q.num → Num.rsqF t (.fin true q) = 0x7FC00000 ∧ Num.log2F t (.fin true q) = 0x7FC00000) ∧
  (∀ neg q, 0 < q.num → Num.rcpF (.fin neg q) = Num.roundTo fmt32 .ne (.fin neg ⟨q.den, q.num.toNat⟩)) ∧
  (∀ t q, 0 < q.num → ∃ m n : Nat, m ≤ n ∧ n ≤ m + 1 ∧
    m * m * q.num.toNat ≤ q.den * 2 ^ 600 ∧ q.den * 2 ^ 600 ≤ n * n * q.num.toNat ∧
    (Num.rsqF t (.fin false q) = Num.roundTo fmt32 .ne (.fin false ⟨m, 2 ^ 300⟩) ∨
      Num.rsqF t (.fin false q) = Num.roundTo fmt32 .ne (.fin false ⟨n, 2 ^ 300⟩))) ∧
  (∀ t, Num.rcpF .nan = 0x7FC00000 ∧ Num.rsqF t .nan = 0x7FC00000 ∧ Num.exp2F t .nan = 0x7FC00000 ∧
    Num.log2F t .nan = 0x7FC00000 ∧ Num.sinPiF t .nan = 0x7FC00000)

/-- FEXPD writes the pair of D: the running maximum and sum of R219, from the pair, A and B. Of two zeros of different sign the one
kept as the maximum is a free value (log 12); the sum of infinities of opposite sign (log 135) and the sign of a zero sum (log 126) are the
model's choices. -/
def Sys2Proof.Claims.Fexpd : Prop :=
  ∀ (s : State) (d a b : Byte),
    ∃ v : View → Nat → BitVec 64,
      (∀ w k,
        let f := fun (z : Word) => Num.fval fmt32 (ffl w fmt32 z.toNat)
        let m := f ((rd64 w d k).setWidth 32)
        let sm := f ((rd64 w d k).extractLsb' 32 32)
        (m = .nan ∨ sm = .nan ∨ f (rd w a k) = .nan ∨ f (rd w b k) = .nan → v w k = 0x7FC000007FC00000) ∧
        (m ≠ .nan → sm ≠ .nan → f (rd w a k) ≠ .nan → f (rd w b k) ≠ .nan → m = .inf false ∨ f (rd w a k) = .inf false →
          v w k = 0x7FC000007F800000) ∧
        (let r := fexpd s.freeIx (ffl w fmt32 (rd w d k).toNat) (ffl w fmt32 ((rd64 w d k).extractLsb' 32 32).toNat)
            (ffl w fmt32 (rd w a k).toNat) (ffl w fmt32 (rd w b k).toNat);
          v w k = BitVec.ofNat 64 (ffl w fmt32 r.2 * 2 ^ 32 + ffl w fmt32 r.1))) ∧
      Writes s (.fexpd d a b) fun w => wr64 w d (v w)

/-- CVT, CVTW, CVTI2F and CVTF2I: encodings are converted by their values, with one rounding; integers clamp, NaN gives 0. -/
def Sys2Proof.Claims.Conversions : Prop :=
  ∀ (s : State) (d a b : Byte),
    Writes s (.cvt d a b) (fun w => wr w d fun k => cvtWord (mrFlush w.mr) b (rd w d k) (rd w a k)) ∧
    (∀ fl src dst x, cvtOne fl src dst x =
      Num.flush fl dst (Num.roundTo dst (if dst.width < 16 then .na else .ne) (Num.fval src (Num.flush fl src x)))) ∧
    Writes s (.cvtw d a b) (fun w => wr w d fun k =>
      let h := fun (z : Word) => BitVec.ofNat 16 (cvtOne (mrFlush w.mr) fmt32 (ffmt w) z.toNat)
      h (rd w b k) ++ h (rd w a k)) ∧
    Writes s (.cvti2f d a) (fun w => wr w d fun k =>
      let n : Int := if mrEtype w.mr = 9 then (rd64 w a k).toInt else if mrEtype w.mr = 0 then (rd w a k).toInt else (rd w a k).toNat
      BitVec.ofNat 32 (Num.roundTo fmt32 .ne (.fin (decide (n < 0)) (Num.qInt n.natAbs)))) ∧
    (∃ v : View → Nat → BitVec 64,
      (∀ w k, etIn [0, 1, 9] w = true →
        let b := etBits (mrEtype w.mr)
        let sg := etSigned (mrEtype w.mr)
        let lo : Int := if sg then -(2 ^ (b - 1)) else 0
        let hi : Int := if sg then 2 ^ (b - 1) - 1 else 2 ^ b - 1
        elemInt sg b (v w k) 0 = match Num.fval fmt32 (ffl w fmt32 (rd w a k).toNat) with
          | .nan => 0
          | .inf neg => if neg then lo else hi
          | .fin neg q => max lo (min hi (Num.roundInt .ne neg q))) ∧
      Writes s (.cvtf2i d a) fun w => wrT w d (v w))

/-- BSCL by its slot's kind, CVTR, QENC and QDEC complete on every operand, with the results that `BlockScaledValues` gives. -/
def Sys2Proof.Claims.BlockScaled : Prop :=
  ∀ (s : State) (d a b : Byte),
    Writes s (.bscl d a b) (fun w => wr w d fun k =>
      let m := val32 w (rd w a k &&& 0x7FFFFFFF)
      BitVec.ofNat 32 (if (slotOf s b.toNat).kind = 1 then bsclNq4 (val32 w (rd w d k)) m else bsclA8 m)) ∧
    Writes s (.cvtr d a b) (fun w => wr w d fun k => cvtr w (rd w a k) (rd w b k)) ∧
    Writes s (.qenc d a b) (fun w => wr w d fun k => qenc w (rd w d k) (rd w a k) (rd w b k)) ∧
    Writes s (.qdec d a b) (fun w => wr w d fun k => qdec w (rd w a k) (rd w b k))

/-- R213 to R216: the block scale and exponent of BSCL; CVTR's element, scaled, rounded with ties away and clamped to ±127; QENC's
index, that of the coefficient nearest to the scaled operand, of the greater magnitude on a tie; QDEC's exact product, rounded
once; and the coefficients of the codebook. -/
def Sys2Proof.Claims.BlockScaledValues : Prop :=
  (List.range 16).map nq4 = [-127, -98, -77, -60, -45, -32, -20, -9, 0, 10, 22, 35, 50, 67, 90, 127] ∧
  ∀ (w : View) (c x y : Word),
    let A := val32 w x
    let S := val32 w y
    let m := val32 w (x &&& 0x7FFFFFFF)
    let e := y.toNat % 256
    let scale := isFin S ∧ 0 < rat S
    (isFin m ∧ scale → (bsclNq4 S m : Int) = min 255 (255 * rat m / rat S).ceil) ∧
    (¬ (isFin m ∧ scale) → bsclNq4 S m = 255) ∧
    (isFin m → bsclA8 m ≤ 254 ∧ (∀ j, j < bsclA8 m → 127 < nearestAway (rat m * 2 ^ (134 - (j : Int)))) ∧
      (bsclA8 m < 254 → nearestAway (rat m * 2 ^ (134 - (bsclA8 m : Int))) ≤ 127)) ∧
    (¬ isFin m → bsclA8 m = 255) ∧
    (e = 255 ∨ A = .nan → cvtr w x y = 0) ∧
    (e ≠ 255 → (∀ neg, A = .inf neg → cvtr w x y = BitVec.ofInt 32 (if neg then -127 else 127)) ∧
      (isFin A → cvtr w x y = BitVec.ofInt 32 (min 127 (max (-127) (nearestAway (rat A * 2 ^ (134 - (e : Int)))))))) ∧
    (let q := c.toNat % 256
     (q = 0 ∨ ¬ scale ∨ A = .nan → qenc w c x y = 8) ∧
     (q ≠ 0 → scale → (∀ neg, A = .inf neg → qenc w c x y = if neg then 0 else 15) ∧
      (isFin A → ∃ i, i < 16 ∧ qenc w c x y = BitVec.ofNat 32 i ∧
        let t := 127 * 255 * rat A / (rat S * (q : Int))
        ∀ j, j < 16 → j ≠ i → apart (nq4 i) t < apart (nq4 j) t ∨
          (apart (nq4 i) t = apart (nq4 j) t ∧ (nq4 j).natAbs < (nq4 i).natAbs)))) ∧
    (let k := (x.toNat / 256 % 256 : Int) * nq4 (x.toNat % 16)
     (S = .nan → qdec w x y = 0x7FC00000) ∧
     (∀ neg, S = .inf neg → qdec w x y =
      if k = 0 then 0x7FC00000 else if neg = decide (k < 0) then 0x7F800000 else 0xFF800000) ∧
     (isFin S → rat S * k = 0 → qdec w x y = 0) ∧
     (isFin S → rat S * k ≠ 0 → ∃ neg q, rat (.fin neg q) = rat S * k / 32385 ∧ 0 < q.num ∧ 0 < q.den ∧
      qdec w x y = BitVec.ofNat 32 (ffl w fmt32 (Num.roundTo fmt32 .ne (.fin neg q)))))

/-- PKN, PKB and PKH put A, narrowed to the field, into field h of D and keep its other bits; UPKN, UPKB and UPKH read field h of A
with the sign of the element type. -/
def Sys2Proof.Claims.FieldPacking : Prop :=
  ∀ (s : State) (i : Instr) (n : Nat) (d a h : Byte), fieldBits i = some (n, d, a, h) →
    ∃ v : View → Nat → Word,
      (∀ w k, etIn [0, 1] w = true → h.toNat < 32 / n →
        let sg := mrEtype w.mr == 0
        if isPack i then
          elemInt sg n ((v w k).setWidth 64) h.toNat =
            fits (mrSat w.mr) sg n (if sg then (rd w a k).toInt else ((rd w a k).toNat : Int)) ∧
          (∀ j, j < 32 → (j < n * h.toNat ∨ n * h.toNat + n ≤ j) → (v w k).getLsbD j = (rd w d k).getLsbD j)
        else
          (if sg then (v w k).toInt else ((v w k).toNat : Int)) = elemInt sg n ((rd w a k).setWidth 64) h.toNat) ∧
      Writes s i fun w => wr w d (v w)

/-! ## Control flow -/

namespace Sys2Proof.Claims
open Sys2Proof.Machine

/-- `i` completes for team `t`, with its needs met, by the effect `s1` and the fall-through; at the end of the code it has its
fault instead (R105). -/
def Completes (s : State) (t : Nat) (i : Instr) (s1 : State) : Prop :=
  ∀ r, needs s i = some r →
    (s.Normal t r → exec i s = .next (s.after t r s1)) ∧
    (s.Passes t r → ¬ s.goesOn t → exec i s = .next (beyond s t i))

/-- `i` completes for team `t` by the effect `s1` and a move of the path to word `k`. -/
def Moves (s : State) (t : Nat) (i : Instr) (s1 : State) (k : Nat) : Prop :=
  ∀ r, needs s i = some r → s.Passes t r → exec i s = .next (s.jumped t r s1 k)

/-- The same for a Shuttle. -/
def ShCompletes (s : State) (h n : Nat) (i : Instr) (s1 : State) : Prop :=
  ∀ r, needs s i = some r →
    (s.ShNormal h n r → exec i s = .next (s.shAfter h n s1)) ∧
    (s.ShPasses h n r → codeWords (s.launch (s.harness h).launch) ≤ (s.shuttle h n).pc + 1 →
      exec i s = .next (shuttleFault s h n 0x04 (w32 ((s.shuttle h n).pc + 1)) 0))
def ShMoves (s : State) (h n : Nat) (i : Instr) (s1 : State) (k : Nat) : Prop :=
  ∀ r, needs s i = some r → s.ShPasses h n r → exec i s = .next (s.shJumped h n s1 k)

/-- `i` of team `t` has the fault of a cause with its TADDR, precise at the instruction. -/
def Faults (s : State) (t : Nat) (i : Instr) (cause : Byte) (lo hi : Word) : Prop :=
  ∀ r, needs s i = some r → s.Passes t r → exec i s = .next (teamFault s t cause lo hi)

/-- `y` is `x` with the nesting counter of each lane of PathMask() changed by `g` from its number and value. -/
def NestTo (x y : Team) (g : Nat → Nat → Nat) : Prop :=
  y = { x with flow := { x.flow with nest := y.flow.nest } } ∧
  (sparseWf 0 x.flow.nest = true → ∀ k,
    sget 0 y.flow.nest k =
      if k < 32 * x.info.grp ∧ x.path.mask.getLsbD k = true then BitVec.ofNat 8 (g k (sget 0 x.flow.nest k).toNat)
      else sget 0 x.flow.nest k)

/-- A lane of PathMask() has a counter that meets `p`. -/
def SomeNest (x : Team) (p : Nat → Prop) : Prop :=
  ∃ k, k < 32 * x.info.grp ∧ x.path.mask.getLsbD k = true ∧ p (sget 0 x.flow.nest k).toNat


/-- The target of a forward or backward offset, inside the code. -/
def InCode (s : State) (t : Nat) (k : Int) : Prop := 0 ≤ k ∧ k < codeWords (s.launchOf t)

end Sys2Proof.Claims

/-- NOP changes nothing; JMP, BRS, CALL and RET move a team's path, and a Shuttle, to their target inside the code; BRS with 0
falls through; CALL leaves PC + 1 in s30. -/
def Sys2Proof.Claims.JumpsAndCalls : Prop :=
  (∀ s t, Completes s t .nop s) ∧ (∀ s h n, ShCompletes s h n .nop s) ∧
  (∀ s t (i : BitVec 24), let k := ((s.team t).path.pc : Int) + 1 + i.toInt;
    InCode s t k →
      Moves s t (.jmp i) s k.toNat ∧
      Moves s t (.call i)
        (s.putTeam t { s.team t with regs := putS (s.team t).regs 30 (BitVec.ofNat 32 ((s.team t).path.pc + 1)) }) k.toNat) ∧
  (∀ s t d (i : BitVec 16), let k := ((s.team t).path.pc : Int) + 1 + i.toInt;
    (rd (s.team t).view d 0 = 0 → Completes s t (.brs d i) s) ∧
    (rd (s.team t).view d 0 ≠ 0 → InCode s t k → Moves s t (.brs d i) s k.toNat)) ∧
  (∀ s t a, let v := rd (s.team t).view a 0;
    (v.toNat < 2 ^ 22 → InCode s t v.toNat → Moves s t (.ret a) s v.toNat) ∧
    (codeWords (s.launchOf t) ≤ 2 ^ 22 → codeWords (s.launchOf t) ≤ v.toNat → Faults s t (.ret a) 0x04 v 0)) ∧
  (∀ s h n (i : BitVec 24), let k := ((s.shuttle h n).pc : Int) + 1 + i.toInt;
    0 ≤ k → k < codeWords (s.launch (s.harness h).launch) →
      ShMoves s h n (.jmp i) s k.toNat ∧
      ShMoves s h n (.call i)
        (s.putShuttle h n { s.shuttle h n with regs := putS (s.shuttle h n).regs 30 (BitVec.ofNat 32 ((s.shuttle h n).pc + 1)) })
        k.toNat) ∧
  (∀ s h n d (i : BitVec 16), let k := ((s.shuttle h n).pc : Int) + 1 + i.toInt;
    (rd (s.shuttle h n).view d 0 = 0 → ShCompletes s h n (.brs d i) s) ∧
    (rd (s.shuttle h n).view d 0 ≠ 0 → 0 ≤ k → k < codeWords (s.launch (s.harness h).launch) → ShMoves s h n (.brs d i) s k.toNat)) ∧
  (∀ s h n a, let v := (rd (s.shuttle h n).view a 0).toNat;
    v < 2 ^ 22 → v < codeWords (s.launch (s.harness h).launch) → ShMoves s h n (.ret a) s v)

/-- ENDIF lowers the counters above 0 by one; LOOP raises them by two, or on a dormant path goes past its loop; BREAK and CONT set
those of the running lanes whose predicate is set to n. -/
def Sys2Proof.Claims.SimpleCounters : Prop :=
  ∀ (s : State) (t : Nat), t < s.teams.length →
    let x := s.team t
    (∃ y, NestTo x y (fun _ n => n - 1) ∧ Completes s t .endif (s.putTeam t y)) ∧
    (∀ d a, ∃ y, NestTo x y (fun k n => if x.view.run.getLsbD k = true ∧ rdQ x.view d k = true then a.toNat else n) ∧
      Completes s t (.breakP d a) (s.putTeam t y) ∧ Completes s t (.contP d a) (s.putTeam t y)) ∧
    (∀ i : BitVec 24, x.dormant = true → InCode s t (x.path.pc + 1 + i.toNat) → Moves s t (.loop i) s (x.path.pc + 1 + i.toNat)) ∧
    (∀ i : BitVec 24, x.dormant = false → ¬ SomeNest x (253 < ·) →
      ∃ y, NestTo x y (fun _ n => if n = 0 then 0 else n + 2) ∧ Completes s t (.loop i) (s.putTeam t y)) ∧
    (∀ i : BitVec 24, x.dormant = false → SomeNest x (253 < ·) → Faults s t (.loop i) 0x09 0 0)

/-- IF raises the counters above 0 and gives 1 to those at 0 whose predicate is 0; ELSE exchanges 0 and 1; when the path is then
dormant it goes on at the word named, else at the next one; a counter of 255 makes IF fault with nothing changed. -/
def Sys2Proof.Claims.IfElse : Prop :=
  ∀ (s : State) (t : Nat) (d : Byte) (i : BitVec 16), t < s.teams.length →
    (s.team t).flow.path < (s.team t).flow.paths.length →
    let x := s.team t
    let k := x.path.pc + 1 + i.toNat
    (SomeNest x (254 < ·) → Faults s t (.ifP d i) 0x09 0 0) ∧
    (¬ SomeNest x (254 < ·) → ∃ y, NestTo x y (fun j n => if n ≠ 0 then n + 1 else if rdQ x.view d j = true then 0 else 1) ∧
      (y.dormant = false → Completes s t (.ifP d i) (s.putTeam t y)) ∧
      (y.dormant = true → InCode s t k → Moves s t (.ifP d i) (s.putTeam t y) k)) ∧
    (∃ y, NestTo x y (fun _ n => if n = 0 then 1 else if n = 1 then 0 else n) ∧
      (y.dormant = false → Completes s t (.elseP i) (s.putTeam t y)) ∧
      (y.dormant = true → InCode s t k → Moves s t (.elseP i) (s.putTeam t y) k))

/-- ENDLOOP resets counters of 1, then goes back while some lane of the path is at 0, else lowers the counters above 0 by two and
falls through. -/
def Sys2Proof.Claims.EndloopCounters : Prop :=
  ∀ (s : State) (t : Nat) (i : BitVec 24), t < s.teams.length → (s.team t).flow.path < (s.team t).flow.paths.length →
    let x := s.team t
    let k := (x.path.pc : Int) + 1 + i.toInt
    ∃ y, NestTo x y (fun _ n => if n = 1 then 0 else n) ∧
      (y.dormant = false → InCode s t k → Moves s t (.endloop i) (s.putTeam t y) k.toNat) ∧
      (y.dormant = true → ∃ z, NestTo y z (fun _ n => if n = 0 then 0 else n - 2) ∧ Completes s t (.endloop i) (s.putTeam t z))

/-- BRP outside a handler: no lane taken falls through, every lane taken moves the path, else the taken lanes form a new path at the
lowest free index with the token; a full table faults, before a target outside the code, which is the model's choice (log 114); inside a
handler BRP is illegal. TADDR shows a target below 0 in 32 bits of two's complement (log 133). -/
def Sys2Proof.Claims.SplitByPredicate : Prop :=
  ∀ (s : State) (t : Nat) (d : Byte) (i : BitVec 16), t < s.teams.length →
    let x := s.team t
    let taken := x.view.run &&& predMask x.view d
    let rest := x.path.mask &&& ~~~taken
    let k := (x.path.pc : Int) + 1 + i.toInt
    (x.ctl.inh = true → Faults s t (.brp d i) 0x01 ((encode (.brp d i)).getD 0) 0) ∧
    (x.ctl.inh = false → taken = 0 → Completes s t (.brp d i) s) ∧
    (x.ctl.inh = false → taken ≠ 0 → rest = 0 → InCode s t k → Moves s t (.brp d i) s k.toNat) ∧
    (x.ctl.inh = false → taken ≠ 0 → rest ≠ 0 → (∀ j, j < 16 → x.flow.paths.getD j none ≠ none) → Faults s t (.brp d i) 0x08 0 0) ∧
    (x.ctl.inh = false → taken ≠ 0 → rest ≠ 0 → (∃ j, j < 16 ∧ x.flow.paths.getD j none = none) → ¬ InCode s t k →
      Faults s t (.brp d i) 0x04 (BitVec.ofInt 32 k) 0) ∧
    (∀ n, x.ctl.inh = false → taken ≠ 0 → rest ≠ 0 → n < 16 → x.flow.paths.getD n none = none →
      (∀ j, j < n → x.flow.paths.getD j none ≠ none) → InCode s t k →
      Completes s t (.brp d i) (s.putTeam t ((x.putPathAt n (some { pc := k.toNat, mask := taken, token := x.path.token })).putPath
        { x.path with mask := rest })))

/-- JTAB checks its entries in order before any lane moves, of several targets outside the code that of the lowest lane being shown (log
132), then regroups the lanes by target: without a fall-through the first group keeps the path. The waves of its loads are counted (R223). -/
def Sys2Proof.Claims.JumpTable : Prop :=
  ∀ (s : State) (t : Nat) (d a b : Byte), t < s.teams.length → (s.team t).ctl.inh = false →
    let x := s.team t
    let w := x.view
    let ks := (runLanes w).filter fun k => (rd w d k).toNat < (rd w b 0).toNat
    let addr := fun k => (rd w a 0).toNat + 4 * (rd w d k).toNat
    let entry := fun k => memWord (s.harnessOf t).shared (addr k)
    let bad := fun k => addr k % 4 ≠ 0 ∨ 0x180000 ≤ addr k ∨ 2 ^ 22 ≤ (entry k).toNat
    let gs := jtabGroups (fun k => (entry k).toNat) ks
    let rest := w.mask &&& ~~~(gs.foldl (fun m g => m ||| g.2) 0)
    let new := if rest = 0 then gs.drop 1 else gs
    let y := (x.freePaths.zip new).foldl (fun y g => y.putPathAt g.1 (some { pc := g.2.1, mask := g.2.2, token := x.path.token })) x
    let u := countWaves s false 1 (ks.map fun k => ⟨k, addr k⟩)
    (∀ k, k ∈ ks → bad k → (∀ j ∈ ks, j < k → ¬ bad j) → Faults s t (.jtab d a b) 0x0A (w32 (addr k)) 0) ∧
    (∀ k, (∀ j ∈ ks, ¬ bad j) → k ∈ ks → codeWords (s.launchOf t) ≤ (entry k).toNat →
      (∀ j ∈ ks, j < k → (entry j).toNat < codeWords (s.launchOf t)) → Faults s t (.jtab d a b) 0x04 (w32 (entry k).toNat) 0) ∧
    ((∀ j ∈ ks, ¬ bad j ∧ (entry j).toNat < codeWords (s.launchOf t)) →
      (x.freePaths.length < new.length → Faults s t (.jtab d a b) 0x08 0 0) ∧
      (new.length ≤ x.freePaths.length → rest ≠ 0 →
        Completes s t (.jtab d a b) (u.putTeam t (y.putPath { x.path with mask := rest }))) ∧
      (∀ g r, new.length ≤ x.freePaths.length → rest = 0 → gs = g :: r →
        Moves s t (.jtab d a b) (u.putTeam t (y.putPath { x.path with mask := g.2 })) g.1))

/-- JOIN of another token falls through; of the path's own token it arrives, with its timeout, unless it is the last word of the
code, where it faults at once, the model's reading (log 14); the join condition is then tested: when it holds, the paths of the token that wait at one PC become one path there, at
the lowest index, at PC + 1, with the traps due to each of them (log 98). Which path issues next when the arriving one is
merged away is the model's reading (log 29). -/
def Sys2Proof.Claims.JoinPaths : Prop :=
  (∀ (s : State) (t : Nat) (d : Byte) (i : BitVec 16), t < s.teams.length → (s.team t).ctl.inh = false →
    let x := s.team t
    (x.path.token ≠ some d.toNat → Completes s t (.join d i) s) ∧
    (x.path.token = some d.toNat → codeWords (s.launchOf t) ≤ x.path.pc + 1 →
      Faults s t (.join d i) 0x04 (w32 (x.path.pc + 1)) 0) ∧
    (x.path.token = some d.toNat → x.path.pc + 1 < codeWords (s.launchOf t) → ∀ r, needs s (.join d i) = some r → s.Passes t r →
      let z := countIssue x (passesOf r x.view) true s t
      let y := (z.team t).putPath { (z.team t).path with
        join := some ⟨if i = 0 then none else some ((z.team t).ctl.tmr.toNat + 16 * i.toNat)⟩ }
      exec (.join d i) s = .next (settlePath (z.putTeam t (joinTest y d.toNat)) t))) ∧
  (∀ (y : Team) (tok : Nat),
    ((∃ p ∈ y.flow.paths, hasToken tok p = true ∧ isWaiting p = false) → joinTest y tok = y) ∧
    ((∀ p ∈ y.flow.paths, hasToken tok p = true → isWaiting p = true) →
      ∀ j, j < 16 → (joinTest y tok).flow.paths.getD j none =
        match y.flow.paths.getD j none with
        | none => none
        | some p =>
          if p.token ≠ some tok ∨ p.join = none then some p
          else if ∃ i, i < j ∧ waitsAt tok p.pc (y.flow.paths.getD i none) = true then none
          else
            let all := y.flow.paths.filter (waitsAt tok p.pc)
            some { p with
              mask := all.foldl (fun m q => m ||| (q.getD {}).mask) 0, held := all.any fun q => (q.getD {}).held
              step := all.any fun q => (q.getD {}).step, watch := all.flatMap fun q => (q.getD {}).watch
              fence := all.flatMap fun q => (q.getD {}).fence, pc := p.pc + 1, join := none, dep := none }))

/-- EXIT with lanes left keeps the path with them; with none left it frees the entry, tests the join condition of its token and
lets the next path be chosen; in a handler it is illegal. PATHQ sets the token and answers the table's state. -/
def Sys2Proof.Claims.ExitAndPathq : Prop :=
  (∀ (s : State) (t : Nat), t < s.teams.length →
    let x := s.team t
    let left := x.path.mask &&& ~~~x.view.run
    (x.ctl.inh = true → Faults s t .exit 0x01 0x12000000 0) ∧
    (x.ctl.inh = false → left ≠ 0 → Completes s t .exit (s.putTeam t (x.putPath { x.path with mask := left }))) ∧
    (x.ctl.inh = false → left = 0 → ∀ r, needs s .exit = some r → s.Passes t r →
      let z := countIssue x 1 true s t
      let y := (z.team t).putPathAt x.flow.path none
      exec .exit s = .next (settlePath (z.putTeam t (match x.path.token with | some k => joinTest y k | none => y)) t))) ∧
  (∀ (s : State) (t : Nat) (d a b : Byte), t < s.teams.length →
    let x := s.team t
    let tok := if a = 1 then some b.toNat else if a = 2 then none else x.path.token
    let y := x.putPath { x.path with token := tok }
    let y := match x.path.token with
      | some k => if tok = some k then y else joinTest y k
      | none => y
    let v := (if tok = none then 2 ^ 20 else 0) + tok.getD 0 * 2 ^ 16 + y.live * 2 ^ 8 + y.flow.path
    Completes s t (.pathq d a b) (s.putTeam t { y with regs := wrS y.regs d (BitVec.ofNat 32 v) }))

/-- MCALL copies its macro up to the first MRET, checks every entry, and starts the first word, or the word at which a return
from a trap resumes, where any other instruction and a word the macro does not have are illegal; CSWR and CSRD write and
read an entry; MRET outside a macro is illegal, inside it goes on. That MCALL copies and checks the entries when it
issues is the model's reading (log 79). -/
def Obligations.Macros : Prop :=
  (∀ (s : State) (t : Nat) (d a b : Byte), t < s.teams.length →
    let x := s.team t
    let es := macroCopy (s.harnessOf t) (32 * d.toNat) 32
    let ws := es.map fun e => substWord e a b
    let ok := ∀ e ∈ es, macroOk a e = true
    let starts := fun (n : Nat) => s.putTeam t (x.putPath { x.path with mac := some (ws, n), resume := 0 })
    let resumes := s.cur = .team t ∧ d.toNat < 64 ∧ x.dormant = false ∧ 0 < x.path.resume
    (¬ ok → Faults s t (.mcall d a b) 0x01 ((encode (.mcall d a b)).getD 0) 0) ∧
    (ok → opOf (ws.getD 0 0) = 0xF2 → Completes s t (.mcall d a b) s) ∧
    (ok → opOf (ws.getD 0 0) ≠ 0xF2 → ∀ r, needs s (.mcall d a b) = some r → s.Passes t r →
      exec (.mcall d a b) s = .next (starts 0)) ∧
    (ok → resumes → x.path.resume < ws.length → opOf (ws.getD x.path.resume 0) ≠ 0xF2 →
      exec (.mcall d a b) s = .next (starts x.path.resume)) ∧
    (resumes → ws.length ≤ x.path.resume →
      exec (.mcall d a b) s = .next (teamFault s t 0x01 ((encode (.mcall d a b)).getD 0) 0))) ∧
  (∀ (s : State) (t : Nat) (i : Instr), (needs s i).isSome = true → s.cur = .team t → 0 < (s.team t).path.resume →
    (∀ d a b, i ≠ .mcall d a b) → exec i s = .next (teamFault s t 0x01 (shown i s) 0)) ∧
  (∀ (s : State) (t : Nat),
    ((s.team t).path.mac = none → Faults s t .mret 0x01 0xF2000000 0) ∧ ((s.team t).path.mac ≠ none → Completes s t .mret s)) ∧
  (∀ (s : State) (t : Nat) (d a b : Byte), (s.team t).info.harness < s.harnesses.length →
    let w := (s.team t).view
    let h := (s.team t).info.harness
    let ix := fun (v : Word) => 32 * (v.extractLsb' 5 6).toNat + (v.extractLsb' 0 5).toNat
    ((rd w d 0).toNat < 2 ^ 11 → (rd w b 0).toNat < 64 →
      Completes s t (.cswr d a b) (s.putHarness h { s.harness h with
        macros := sset (0xF2000000 : BitVec 38) (s.harness h).macros (ix (rd w d 0)) ((rd w b 0).setWidth 6 ++ rd w a 0) })) ∧
    ((2 ^ 11 ≤ (rd w d 0).toNat ∨ 64 ≤ (rd w b 0).toNat) → Faults s t (.cswr d a b) 0x01 ((encode (.cswr d a b)).getD 0) 0) ∧
    ((rd w a 0).toNat < 2 ^ 11 →
      let e := sget (0xF2000000 : BitVec 38) (s.harness h).macros (ix (rd w a 0))
      Completes s t (.csrd d a) (s.putTeam t { s.team t with
        regs := wrS (wrS (s.team t).regs d (e.setWidth 32)) (d + 1) ((e.extractLsb' 32 6).setWidth 32) })))

/-! ## Waits, modes, control registers and debug instructions -/

namespace Sys2Proof.Claims
open Sys2Proof.Machine

/-- `i` of team `t` waits on a dependence: it issues again when that is met. -/
def Waits (s : State) (t : Nat) (i : Instr) (d : Dep) : Prop :=
  ∀ r, needs s i = some r → s.Passes t r → exec i s = .next (waitOn s t d)

/-- `i` of team `t` is an illegal instruction. -/
def Illegal (s : State) (t : Nat) (i : Instr) : Prop := Faults s t i 0x01 ((encode i).getD 0) 0

/-- `i` of team `t`, its operand bytes legal and its path awake, is an illegal instruction by its mode or its immediate. -/
def ModeIllegal (s : State) (t : Nat) (i : Instr) : Prop :=
  ∀ r, needs s i = some r → s.cur = .team t → (s.team t).path.resume = 0 → r.team = true → r.legal (s.team t).view = true →
    ((s.team t).dormant = false ∨ r.counter = true) → (r.copy = true → (s.team t).info.cpr = true) →
    exec i s = .next (teamFault s t 0x01 ((encode i).getD 0) 0)

/-- Team `t` with another control block, and with other registers. -/
def withCtl (s : State) (t : Nat) (c : Ctl) : State := s.putTeam t { s.team t with ctl := c }
def withRegs (s : State) (t : Nat) (r : RegFile) : State := s.putTeam t { s.team t with regs := r }

/-- Watchpoint `n` of harness `h` set or cleared. -/
def withWatch (s : State) (h n : Nat) (x : Option Watch) : State :=
  s.putHarness h { s.harness h with watch := (s.harness h).watch.set n x }

/-- Function `f` with another queue memory. -/
def withQmem (s : State) (f : Nat) (m : Memory) : State := s.putFunc f { s.func f with qmem := m }

/-- Function `f` stands in the table. -/
def FnHere (s : State) (f : Nat) : Prop := f < 64 → f < s.funcs.length

/-- The registers a control-register number reads and takes back unchanged. -/
def plainCrs : List Nat := [0x01, 0x02, 0x06, 0x07, 0x08, 0x0D, 0x0E, 0x0F, 0x10]

end Sys2Proof.Claims

/-- What every instruction of a team does beside its own effect `s1`: the path stands at its next word, or at the target, with no
wait. A whole instruction, which a word inside a macro is not, raises the counter of the path's quantum by one, makes its
path's step trap due when the step bit is set outside a handler, and ends a debugger's step of its path with a halt. The
counters of the team count one instruction and its passes. Registers, modes, dependence counters, every other path, every
other team and every byte of memory are those of `s1`. -/
def Obligations.NextWordFrame : Prop :=
  ∀ (s : State) (t : Nat) (r : Rules) (s1 : State) (k : Nat), t < s1.teams.length →
    (s1.team t).flow.path < (s1.team t).flow.paths.length →
    ∀ s2 whole,
      (s2 = s.after t r s1 ∧ whole = !((s.team t).path.inMacro && (s1.team t).path.mac.isSome)) ∨
        (s2 = s.jumped t r s1 k ∧ whole = true) →
      let b := s.team t
      let x := s1.team t
      let y := s2.team t
      let one := whole && b.due.one == some b.flow.path
      s2 = s1.putTeam t y ∧ (∀ p, s2.byteAt p = s1.byteAt p) ∧
      y = { x with ctl := { x.ctl with halted := x.ctl.halted || one }
                   due := { x.due with one := if one then none else x.due.one }
                   flow := { x.flow with paths := y.flow.paths, quantum := x.flow.quantum + whole.toNat }
                   perf := { x.perf with
                     issued := x.perf.issued + 1, passes := x.perf.passes + BitVec.ofNat 64 (passesOf r b.view), lastIssue := s1.time } } ∧
      (∀ j, j ≠ x.flow.path → y.flow.paths[j]? = x.flow.paths[j]?) ∧
      y.path = { x.path with
        pc := y.path.pc, mac := y.path.mac, resume := y.path.resume, dep := none
        step := x.path.step || (whole && b.ctl.step && !b.ctl.inh) } ∧
      (s2 = s.jumped t r s1 k → y.path.pc = k ∧ y.path.mac = none ∧ y.path.resume = 0) ∧
      (s2 = s.after t r s1 → whole = true → y.path.pc = b.path.pc + 1 ∧ y.path.mac = none ∧ y.path.resume = 0) ∧
      (s2 = s.after t r s1 → whole = false →
        y.path.pc = x.path.pc ∧ y.path.mac = x.path.mac.map fun m => (m.1, m.2 + 1))

/-- WAIT completes when the team's four counters are at or below its limits (63 for C: no limit), else it waits; YIELD uses the
quantum up and, while a pending team of the partition is ready, offers its place: the team then stands as one that waits on a
long-latency dependence, so that the set changes of R138 may take its place, and it does not issue; SLEEP completes with 0 or after its time, else it waits until TMR has
advanced by 16 times its immediate. -/
def Sys2Proof.Claims.IssueSteering : Prop :=
  ∀ (s : State) (t : Nat),
    let x := s.team t
    (∀ i : BitVec 24,
      let met := x.deps.l ≤ (i.extractLsb' 18 6).toNat ∧ x.deps.s ≤ (i.extractLsb' 12 6).toNat ∧
        ((i.extractLsb' 6 6).toNat = 63 ∨ x.deps.c ≤ (i.extractLsb' 6 6).toNat) ∧ x.deps.m ≤ (i.extractLsb' 0 6).toNat
      (met → Completes s t (.wait i) s) ∧
      (¬ met → Waits s t (.wait i)
        (.counters (i.extractLsb' 18 6).toNat (i.extractLsb' 12 6).toNat (i.extractLsb' 6 6).toNat (i.extractLsb' 0 6).toNat))) ∧
    Completes s t .yield (yieldPlace (s.putTeam t { x with flow := { x.flow with quantum := x.ctl.pquant.toNat } }) t) ∧
    (let q := s.part x.info.core x.info.part
     let ready := readyTeam s x.info.core x.info.part
     (ready = none ∨ t ∉ q.active → yieldPlace s t = s) ∧
     (∀ u, ready = some u → t ∈ q.active → yieldPlace s t = s.putTeam t { x with yields := true })) ∧
    (∀ u, x.yields = true → x.place = .active → u ∈ (s.part x.info.core x.info.part).pending → teamReady (settle s t) u = true →
      teamCan s t = false ∧ teamWaits s t = true ∧ (x.busy s.time = false → standingOf s t = .waiting)) ∧
    (∀ i : BitVec 16,
      let wake := match x.path.dep with
        | some (.sleep n) => n
        | _ => x.ctl.tmr.toNat + 16 * i.toNat
      let ended := i = 0 ∨ x.path.dep = some .met ∨ wake ≤ x.ctl.tmr.toNat
      (ended → Completes s t (.sleep i) s) ∧ (¬ ended → Waits s t (.sleep i) (.sleep wake)))

/-- MODE, MODEX, PRIO, GANG, TMRSET and RDTM: the mode word is written when its fields are defined; MODEX writes the bits of a
mask and answers the old word; PRIO and GANG write their registers, TMRSET the compare value, RDTM reads TMR or CYC; an
undefined value is illegal, and so is a gang that goes beyond its role's teams or has two members on one partition. PRIO's
hint and reserved bits are read from the word issued, `State.ir`, since its constructor has none (log 11); a hint beyond 3 faults
only where the path is not dormant. -/
def Sys2Proof.Claims.ModesAndTimer : Prop :=
  ∀ (s : State) (t : Nat),
    let x := s.team t
    (∀ i : BitVec 24, (mrOk i = true → Completes s t (.mode i) (withCtl s t { x.ctl with mr := i })) ∧
      (mrOk i = false → Illegal s t (.mode i))) ∧
    (∀ d a b, let va := rd x.view a 0; let vb := rd x.view b 0;
      let new := (x.ctl.mr &&& ~~~(vb.setWidth 24)) ||| (va.setWidth 24 &&& vb.setWidth 24)
      let ok := va.toNat < 2 ^ 24 ∧ vb.toNat < 2 ^ 24 ∧ mrOk new = true
      (ok → Completes s t (.modex d a b)
        (s.putTeam t { x with regs := wrS x.regs d (x.ctl.mr.setWidth 32), ctl := { x.ctl with mr := new } })) ∧
      (¬ ok → Illegal s t (.modex d a b))) ∧
    (let zero := s.ir.extractLsb' 18 6 = 0 ∧ s.ir.extractLsb' 0 16 = 0;
      (zero → Completes s t .prio (withCtl s t { x.ctl with prio := s.ir.extractLsb' 16 2 })) ∧
      (s.ir.extractLsb' 0 16 ≠ 0 → s.cur = .team t → exec .prio s = .next (teamFault s t 0x01 s.ir 0)) ∧
      (¬ zero → s.cur = .team t → x.dormant = false → exec .prio s = .next (teamFault s t 0x01 s.ir 0))) ∧
    (∀ a, let v := rd x.view a 0; let g := v.setWidth 13;
      let n := gangN g
      let ts := gangTeams s x.info.harness g
      let role := (s.launchOf t).roles
      (v.toNat < 2 ^ 13 → v = 0 → Completes s t (.gang a) (withCtl s t { x.ctl with gang := 0 })) ∧
      (v.toNat < 2 ^ 13 → 2 ≤ n → n ≤ 6 → gangRole g < role.length → gangT0 g + n ≤ (role.getD (gangRole g) {}).teams →
        distinct (ts.map fun u => (s.team u).info.part) = true →
        (t ∈ ts → Completes s t (.gang a) (withCtl s t { x.ctl with gang := g })) ∧ (t ∉ ts → Faults s t (.gang a) 0x1B 0 0)) ∧
      ((2 ^ 13 ≤ v.toNat ∨ (v ≠ 0 ∧ (n < 2 ∨ 6 < n ∨ role.length ≤ gangRole g ∨
          (role.getD (gangRole g) {}).teams < gangT0 g + n ∨ distinct (ts.map fun u => (s.team u).info.part) = false))) →
        Illegal s t (.gang a))) ∧
    (∀ a, let v := rd x.view a 0;
      Completes s t (.tmrset a) (withCtl s t { x.ctl with tmrcmp := if v = 0 then 0 else x.ctl.tmr + v.setWidth 64 })) ∧
    (∀ d a, let v := if a = 0 then x.ctl.tmr else (s.core x.info.core).cyc;
      Completes s t (.rdtm d a) (withRegs s t (wrS (wrS x.regs d (v.setWidth 32)) (d + 1) (v.extractLsb' 32 32))))

/-- RDCR writes the value of the register, which is stated for every number, and the reads of CYC and TMR leave a snapshot that a read
of the high half right after returns; a number that is no register is illegal; WRCR writes the register, refuses a value with a bit outside it, the model's choice (log 118), and a TVEC outside the code; what WRCR writes, a read
returns, PQUANT 0 as 32 and BFWIN 0 as 2,000. -/
def Sys2Proof.Claims.ControlRegisters : Prop :=
  ∀ (s : State) (t : Nat), t < s.teams.length →
    let x := s.team t
    let c := x.ctl
    let cyc := (s.core x.info.core).cyc
    let live : List Word :=
      [w32 (16 * x.flow.path + 8 * c.parked.toNat + 4 * x.isHalted.toNat + 2 * c.inh.toNat + c.step.toNat), c.tvec.setWidth 32,
       (c.tpcMwi ++ c.tpcPc).setWidth 32, c.tcause.setWidth 32, c.taddrLo, c.taddrHi, c.pquant.setWidth 32, c.cmpHeld,
       c.tmrcmp.extractLsb' 32 32, cyc.extractLsb' 0 32, cyc.extractLsb' 32 32, c.tmr.extractLsb' 0 32, c.tmr.extractLsb' 32 32,
       c.svcring.setWidth 32, c.bfwin, c.ssp.setWidth 32, c.tmode.setWidth 32, c.ssplim.setWidth 32,
       w32 (s.harnessOf t).dom.rounds, w32 (s.launchOf t).xdom.rounds, c.pflt.setWidth 32]
    (∀ n v, live[n]? = some v → readCr s t n = some v ∧
      ((∀ z, (n = 0x0A → c.snap ≠ some (true, z)) ∧ (n = 0x0C → c.snap ≠ some (false, z))) → rdcrValue s t n = some v)) ∧
    (∀ v, c.snap = some (true, v) → rdcrValue s t 0x0A = some v) ∧
    (∀ n, n ∈ plainCrs → rdcrValue s t n = readCr s t n) ∧
    (∀ n, n ≤ 0x14 → (rdcrValue s t n).isSome = true) ∧
    (∀ d (i : BitVec 16), 0x14 < i.toNat → ModeIllegal s t (.rdcr d i)) ∧
    (∀ d (i : BitVec 16), i.toNat ∉ [0x00, 0x01, 0x02, 0x06, 0x07, 0x08, 0x0D, 0x0E, 0x0F, 0x10] → ModeIllegal s t (.wrcr d i)) ∧
    (∀ d (i : BitVec 16) v, rdcrValue s t i.toNat = some v →
      Completes s t (.rdcr d i) (s.putTeam t { x with regs := wrS x.regs d v, ctl := { x.ctl with snap := snapAfter s t i.toNat } })) ∧
    (x.ctl.snap = snapAfter s t 0x09 → rdcrValue s t 0x0A = some ((s.core x.info.core).cyc.extractLsb' 32 32)) ∧
    (∀ v, x.ctl.snap = some (false, v) → rdcrValue s t 0x0C = some v) ∧
    (∀ d (i : BitVec 16), let v := rd x.view d 0;
      (crAllows i.toNat v = false → Illegal s t (.wrcr d i)) ∧
      (crAllows i.toNat v = true → (i ≠ 1 ∨ v.toNat < codeWords (s.launchOf t)) →
        Completes s t (.wrcr d i) (withCtl s t (writeCr x.ctl i.toNat v))) ∧
      (crAllows i.toNat v = true → i = 1 → codeWords (s.launchOf t) ≤ v.toNat → Faults s t (.wrcr d i) 0x04 v 0)) ∧
    (∀ n v, n ∈ plainCrs → crAllows n v = true →
      readCr (withCtl s t (writeCr x.ctl n v)) t n =
        some (if v = 0 ∧ n = 0x06 then 32 else if v = 0 ∧ n = 0x0E then 2000 else v)) ∧
    (∀ v : Word, crAllows 0 v = true →
      withCtl s t (writeCr x.ctl 0 v) = withCtl s t { x.ctl with step := v.getLsbD 0 })

/-- SVC with a bound ring: with no running lane it changes nothing; with loads or stores in flight, or no room, entries of earlier calls
still to be written counted, it waits; else its team fetches nothing until it is parked. 240 + |K|/32 cycles later, rounded up, one entry for each running
lane is written at its slot of the service ring (DONE 0, n, the lane's identity, v0 to v5), and TAIL + |K|, and,
if the ring asks for it, the event follows; in the cycle after that the team is parked outside both sets; no other byte of the queue memory, and none of any
other memory, changes. The place of each in its cycle is the model's choice (log 109). -/
def Sys2Proof.Claims.ServiceCalls : Prop :=
  (∀ (s : State) (t : Nat) (i : BitVec 16) (q : SvcRing), t < s.teams.length → s.cur = .team t →
    let x := s.team t
    let ks := runLanes x.view
    let c := 240 + (ks.length + 31) / 32
    x.ctl.svcring ≠ 0 → ringOf (s.launchOf t) x.ctl.svcring.toNat = some q →
    let room := x.deps.l = 0 ∧ x.deps.s = 0 ∧ (q.tail - q.head).toNat + callsUnder s x.info.launch q.ring + ks.length ≤ 2 ^ q.logn
    let ask := fun (n : Nat) (k : Ask) =>
      ({ key := (s.time + n) * 20000 + 5120 + x.info.core * 20 + x.info.part * 2, id := s.nextId, party := .team t, path := x.flow.path
         cycle := s.time, issued := x.perf.issued, ask := some k } : Late)
    let op : PendOp := { id := s.nextId, party := .team t, kind := .hold, pc := x.path.pc }
    (ks = [] → Completes s t (.svc i) s) ∧
    (ks ≠ [] → ¬ room → Waits s t (.svc i) .retry) ∧
    (ks ≠ [] → room → ∃ l,
      Completes s t (.svc i) (({ s with nextId := s.nextId + 1, late := l, ops := s.ops ++ [op] } : State).putTeam t { x with fetch := [s.nextId] }) ∧
      ∀ y, y ∈ l ↔ y ∈ s.late ∨ y = ask c (.call (i.setWidth 32) q.ring ks) ∨ y = ask (c + 1) .park)) ∧
  (∀ (s : State) (l ring : Nat), callsUnder s l ring = (s.late.map fun y => match y.party, y.ask with
    | .team u, some (.call _ r ks) => if r = ring ∧ (s.team u).info.launch = l then ks.length else 0
    | _, _ => 0).sum) ∧
  (∀ (s : State) (y : Late) (o : PendOp) (t : Nat), y.party = .team t → y.image = none → s.ops.find? (·.id == y.id) = some o → o.kind = .hold →
    o.after = [] →
    let v : State := { s with cur := .team t, late := s.late.filter (· != y) }
    (∀ n ring ks, y.ask = some (.call n ring ks) → (∃ z ∈ s.late, z ≠ y ∧ z.id = y.id) →
      runLate s y = { writeCall v t n ring ks with cur := s.cur }) ∧
    (y.ask = some .park → (∀ z ∈ s.late, z ≠ y → z.id ≠ y.id) →
      runLate s y = ({ parkTeam v t with cur := s.cur } : State).post .wmOperationComplete { id := y.id })) ∧
  (∀ (s : State) (t : Nat), t < s.teams.length →
    let x := s.team t
    parkTeam s t = leaveSets (s.putTeam t { x with ctl := { x.ctl with parked := true } }) t .parked ∧
    ((parkTeam s t).team t).place = .parked ∧ ((parkTeam s t).team t).ctl.parked = true ∧ ((parkTeam s t).team t).regs = x.regs) ∧
  (∀ (s : State) (t : Nat) (n : Word) (q : SvcRing) (ks : List Nat), t < s.teams.length → s.wf = true → FnHere s (s.fnOf t) →
    ringOf (s.launchOf t) q.ring = some q → ks.length ≤ 2 ^ q.logn → ks.length ≤ 1024 →
    let x := s.team t
    let u := writeCall s t n q.ring ks
    let f := s.fnOf t
    let tail := q.tail + w32 ks.length
    let slot := fun (j : Nat) => q.base + 64 + 64 * ((q.tail + w32 j).toNat % 2 ^ q.logn)
    (∀ p, u.byteAt p = s.byteAt p) ∧
    ∃ mem : Memory,
      let s1 := (withQmem s f mem).putLaunch x.info.launch ((s.launchOf t).putRing { q with tail := tail })
      let s2 := if q.evt then sendEvent s1 f 5 [w32 q.ring, tail] else s1
      u = s2.putTeam t { x with svcOn := q.ring, svc := (List.range ks.length).map fun j => ((q.tail + w32 j).toNat, ks.getD j 0) } ∧
      memWord mem q.base = tail ∧
      (∀ j k, ks[j]? = some k → (List.range 10).map (fun m => memWord mem (slot j + 4 * m)) =
        [0, n, w32 (x.info.cid * 2 ^ 20 + x.info.role * 2 ^ 18 + x.info.tid * 2 ^ 10 + k), 0, getV x.regs 0 k,
         getV x.regs 1 k, getV x.regs 2 k, getV x.regs 3 k, getV x.regs 4 k, getV x.regs 5 k]) ∧
      ∀ b, (b < q.base ∨ q.base + 4 ≤ b) → (∀ j, j < ks.length → b < slot j ∨ slot j + 40 ≤ b) →
        memByte mem b = memByte (s.func f).qmem b)

/-- A record of 32 bytes enters the trace ring of a launch: none bound, nothing changes; with room, the record stands at its slot
and TAIL goes up by one, with an event, if the ring asks for it, when TAIL crosses a multiple of 64; with none, DROPS goes up by
one. No other byte of the queue memory, and none of any other memory, changes. -/
def Sys2Proof.Claims.TraceRecords : Prop :=
  ∀ (s : State) (l : Nat) (ws : List Word), s.wf = true → ws.length = 8 →
    let x := s.launch l
    let f := x.f
    let u := traceRecord l s ws
    (x.trace = none → u = s) ∧
    (∀ p, u.byteAt p = s.byteAt p) ∧
    ∀ r, x.trace = some r → FnHere s f →
      let used := (r.tail + 1 - memWord (s.func f).qmem (r.base + 4)).toNat
      let slot := r.base + 64 + 32 * (r.tail.toNat % 2 ^ r.logn)
      ∃ mem : Memory,
        let ring := fun (n : TraceRing) => (withQmem s f mem).putLaunch l { x with trace := some n }
        (used ≤ 2 ^ r.logn →
          (let s1 := ring { r with tail := r.tail + 1 };
            u = if r.evt = true ∧ (r.tail + 1).toNat % 64 = 0 then sendEvent s1 f 6 [r.tail + 1] else s1) ∧
          memWord mem r.base = r.tail + 1 ∧ (List.range 8).map (fun j => memWord mem (slot + 4 * j)) = ws ∧
          ∀ b, (b < r.base ∨ r.base + 4 ≤ b) → (b < slot ∨ slot + 32 ≤ b) → memByte mem b = memByte (s.func f).qmem b) ∧
        (2 ^ r.logn < used →
          u = ring { r with drops := r.drops + 1 } ∧ memWord mem (r.base + 8) = r.drops + 1 ∧
          ∀ b, (b < r.base + 8 ∨ r.base + 12 ≤ b) → memByte mem b = memByte (s.func f).qmem b)

/-- TRACE, PREC and DBGMSG enter their records in the launch's trace ring (TraceRecords); WATCH and UNWATCH set and clear a watchpoint of
the core; PERFRD and ECCQ read a count; IFLUSH fetches the code of every context of the core again. That DBGMSG sends its event in any
case is the model's reading (log 55), and that its bad byte count is the TADDR of its fault the model's choice (log 36); which word a
fetch takes before IFLUSH is free (log 82). -/
def Sys2Proof.Claims.TraceAndWatch : Prop :=
  ∀ (s : State) (t : Nat),
    let x := s.team t
    let w := x.view
    let h := x.info.harness
    let head := fun k : Nat => recordHead k x x.flow.path x.path.pc x.ctl.tmr
    (∀ d (i : BitVec 16), Completes s t (.trace d i) (traceRecord x.info.launch s (head 1 ++ [i.setWidth 32, rd w d 0, 0, 0]))) ∧
    (∀ a, let idle := x.deps.l = 0 ∧ x.deps.s = 0 ∧ x.deps.c = 0 ∧ x.deps.m = 0;
      (idle → Completes s t (.prec a) (traceRecord x.info.launch s (head 2 ++ [rdS w a 0, rdS w a 1, rdS w a 2, rdS w a 3]))) ∧
      (¬ idle → Waits s t (.prec a) .retry)) ∧
    (∀ a b, let p := (rd w a 0).toNat; let n := (rd w b 0).toNat;
      let words := (List.range (n / 4)).map fun i => (⟨0, p + 4 * i⟩ : Access)
      (p % 4 ≠ 0 → Faults s t (.dbgmsg a b) 0x03 (w32 p) 0) ∧
      (p % 4 = 0 → (n % 4 ≠ 0 ∨ n < 4 ∨ 64 < n) → Faults s t (.dbgmsg a b) 0x04 (w32 n) 0) ∧
      (p % 4 = 0 → n % 4 = 0 → 4 ≤ n → n ≤ 64 → checkAccess s false .load 4 words = none →
        let u := (messageWords (s.harness h).shared p n).foldl (instrRecord 3) s
        Completes s t (.dbgmsg a b) (sendEvent u u.curFn 6 [match (u.launchOf t).trace with | some r => r.tail | none => 0]))) ∧
    (∀ d a, let p := (rdS w a 0).toNat; let m := rdS w a 1;
      (4 ≤ m.toNat → Illegal s t (.watch d a)) ∧
      (m.toNat < 4 → p % 4 ≠ 0 → Faults s t (.watch d a) 0x03 (w32 p) 0) ∧
      (m.toNat < 4 → p % 4 = 0 → inRange s s.curFn (m.getLsbD 0) p = false → Faults s t (.watch d a) 0x04 (w32 p) 0) ∧
      (m.toNat < 4 → p % 4 = 0 → inRange s s.curFn (m.getLsbD 0) p = true →
        Completes s t (.watch d a) (withWatch s h d.toNat
          (some { addr := p, scratch := m.getLsbD 0, change := m.getLsbD 1, value := rdS w a 2, mask := rdS w a 3 })))) ∧
    (∀ d, Completes s t (.unwatch d) (withWatch s h d.toNat none)) ∧
    (∀ d a, (8 ≤ (rd w a 0).toNat → Illegal s t (.perfrd d a)) ∧
      (∀ v, perfCounter s x (rd w a 0).toNat = some v →
        Completes s t (.perfrd d a) (withRegs s t (wrS (wrS x.regs d (v.setWidth 32)) (d + 1) (v.extractLsb' 32 32)))) ∧
      (List.range 8).map (perfCounter s x) =
        [some x.perf.issued, some x.perf.idle, some x.perf.stalls, some x.perf.passes, some (s.harness h).waves,
         some ((s.harness h).wmBusy.getD x.info.part 0), some ((s.harness h).pairs.getD x.info.part 0), some (s.harness h).moved]) ∧
    (∀ d a, (5 ≤ (rd w a 0).toNat → Illegal s t (.eccq d a)) ∧
      (∀ v, eccCount s x.info.core (rd w a 0).toNat = some v → Completes s t (.eccq d a) (withRegs s t (wrS x.regs d v))) ∧
      ((rd w a 0).toNat < 5 → (eccCount s x.info.core (rd w a 0).toNat).isSome = true)) ∧
    Completes s t .iflush { s with
      harnesses := s.harnesses.map fun g =>
        if g.core = (s.harness h).core then { g with code := codeImage s (s.launch g.launch) } else g }

/-! ## Memory -/

namespace Sys2Proof.Claims
open Sys2Proof.Machine

/-- What the party whose turn it is sees. -/
def turnView (s : State) : View :=
  match s.cur with
  | .team t => (s.team t).view
  | .shuttle h n => (s.shuttle h n).view
  | .none => (s.team 0).view

/-- `i` completes for the party whose turn it is, a team or a Shuttle, by the effect `s1`. -/
def PartyCompletes (s : State) (i : Instr) (s1 : State) : Prop :=
  (∀ t, s.cur = .team t → Completes s t i s1) ∧ (∀ h n, s.cur = .shuttle h n → ShCompletes s h n i s1)

/-- `i` of the party whose turn it is has the fault of a cause. -/
def PartyFaults (s : State) (i : Instr) (cause : Byte) (lo hi : Word) : Prop :=
  (∀ t, s.cur = .team t → Faults s t i cause lo hi) ∧
  (∀ h n, s.cur = .shuttle h n → ∀ r, needs s i = some r → s.ShPasses h n r → exec i s = .next (shuttleFault s h n cause lo hi))

/-- A lock of bytes that the `n` at `a` meet. -/
def Overlaps (l : Lock) (a n : Nat) : Prop := a < l.hi ∧ l.lo < a + n

/-- The bytes of a place of die scratch that an access of `n` bytes at `a` meets. -/
def MeetsScratch (p : Loc) (len a n : Nat) : Prop :=
  ∃ b, p = .scratch (a / 2 ^ 27) b ∧ a % 2 ^ 27 < b + len ∧ b < a % 2 ^ 27 + n

/-- The lanes of the issuing party's current path; a Shuttle is one lane. -/
def pathLanes (s : State) : BitVec 1024 :=
  match s.cur with
  | .team t => (s.team t).path.mask
  | _ => 1

/-- What is late comes before an access of the issuing party of the lanes `m`: it is the same party's, of a team of the same path or of
one of these lanes. -/
def Before (s : State) (m : BitVec 1024) (y : Late) : Prop :=
  y.party = s.cur ∧ ∀ t, s.cur = .team t → y.path = (s.team t).flow.path ∨ y.lanes &&& m ≠ 0

/-- A read of die scratch that comes before has still to be fixed. -/
def ReadsOwed (s : State) (m : BitVec 1024) : Prop := ∃ y ∈ s.late, Before s m y ∧ y.scratch = true ∧ ∃ b ∈ y.acts, b.dst ≠ none

/-- What an access of a Shuttle waits for beside its own locks: an earlier transfer of its own that writes die scratch where
the access acts, or has still to read it there, and, if the access writes, any that has still to read; and, for a team too, a write
of shared memory for a read of die scratch before it that has still to act (R364, R366; log 102). -/
def Earlier (s : State) (sc st : Bool) (a n : Nat) : Prop :=
  (st = true ∧ sc = false ∧ ReadsOwed s (pathLanes s)) ∨
  ∃ h k, s.cur = .shuttle h k ∧
    ((∃ x ∈ s.transfers, x.h = h ∧ x.shuttle = k ∧ x.copy = none ∧ ((st = true ∧ x.data = none) ∨
        (sc = true ∧ ∃ g ∈ x.segs, MeetsScratch g.dst g.len a n ∨ (x.data = none ∧ MeetsScratch g.src g.len a n)))) ∨
      (st = true ∧ ∃ g ∈ s.graded, g.party = .shuttle h k ∧ g.kind.isSome = true))

/-- A lock of another operation than the issuing party's own. -/
def Foreign (s : State) (l : Lock) : Prop := ∀ h n, s.cur = .shuttle h n → l.shuttle ≠ some n

/-- The place `p` is one of the `n` bytes from `q` upward. -/
def Within (p q : Loc) (n : Nat) : Prop :=
  match p, q with
  | .shared h a, .shared g b => h = g ∧ b ≤ a ∧ a < b + n
  | .scratch d a, .scratch e b => d = e ∧ b ≤ a ∧ a < b + n
  | _, _ => False

/-- `s1` is `s` but for bytes of near memory among the `n` from one of the addresses `l` on, and watchpoint traps of path `path`
of the issuing team that become due. -/
def StoresOnly (s s1 : State) (path : Nat) (sc : Bool) (l : List Nat) (n : Nat) : Prop :=
  s1 = { s with teams := s1.teams, harnesses := s1.harnesses, dies := s1.dies } ∧
  (∀ t, s1.team t = s.team t ∨
    (s.cur = .team t ∧ ∃ p k, (s.team t).flow.paths.getD path none = some p ∧
      s1.team t = (s.team t).putPathAt path (some { p with watch := k }))) ∧
  (∀ h, s1.harness h = { s.harness h with shared := (s1.harness h).shared }) ∧
  (∀ d, s1.die d = { s.die d with scratch := (s1.die d).scratch }) ∧
  (∀ p : Loc, (∀ a ∈ l, ¬ Within p (nearLoc s.curHarness sc a) n) → s1.byteAt p = s.byteAt p)

/-- The party's core and the four dies stand in the tables. -/
def Placed (s : State) : Prop := s.curHarness < s.harnesses.length ∧ s.dies.length = 4

/-- The loads: die scratch or not, and how many words. -/
def loadOf : Instr → Option (Bool × Nat × Byte × Byte × Byte)
  | .lds d a b => some (false, 1, d, a, b) | .lds2 d a b => some (false, 2, d, a, b) | .lds4 d a b => some (false, 4, d, a, b)
  | .ldx d a b => some (true, 1, d, a, b) | .ldx2 d a b => some (true, 2, d, a, b) | .ldx4 d a b => some (true, 4, d, a, b)
  | .ldaq d a b => some (true, 1, d, a, b)
  | _ => none

/-- The stores. -/
def storeOf : Instr → Option (Bool × Nat × Byte × Byte × Byte)
  | .sts d a b => some (false, 1, d, a, b) | .sts2 d a b => some (false, 2, d, a, b) | .sts4 d a b => some (false, 4, d, a, b)
  | .stx d a b => some (true, 1, d, a, b) | .stx2 d a b => some (true, 2, d, a, b) | .stx4 d a b => some (true, 4, d, a, b)
  | _ => none

/-- The atomics: die scratch or not, D, the address operands, the operation, and whether the operand is 1. -/
def atomOf : Instr → Option (Bool × Byte × Byte × Byte × AtomOp × Bool)
  | .atomsAdd d a b  => some (false, d, a, b, .add, false)  | .atomxAdd d a b  => some (true, d, a, b, .add, false)
  | .atomsMin d a b  => some (false, d, a, b, .min, false)  | .atomxMin d a b  => some (true, d, a, b, .min, false)
  | .atomsMax d a b  => some (false, d, a, b, .max, false)  | .atomxMax d a b  => some (true, d, a, b, .max, false)
  | .atomsAnd d a b  => some (false, d, a, b, .and, false)  | .atomsOr d a b   => some (false, d, a, b, .or, false)
  | .atomsXchg d a b => some (false, d, a, b, .xchg, false) | .atomxXchg d a b => some (true, d, a, b, .xchg, false)
  | .atomsCas d a b  => some (false, d, a, b, .cas, false)  | .atomxCas d a b  => some (true, d, a, b, .cas, false)
  | .ticket d a b    => some (true, d, a, b, .add, true)
  | _ => none

/-- The word that an access leaves where it found `o`: for an access that only reads, the same. -/
def actNew (a : Act) (o : Word) : Word :=
  match a.op with
  | none => o
  | some .add => o + a.d
  | some .min => if (if a.sgn then o.toInt ≤ a.d.toInt else o.toNat ≤ a.d.toNat) then o else a.d
  | some .max => if (if a.sgn then a.d.toInt ≤ o.toInt else a.d.toNat ≤ o.toNat) then o else a.d
  | some .and => o &&& a.d
  | some .or => o ||| a.d
  | some .xchg => a.d
  | some .cas => if o = a.d then a.d1 else o

/-- The words that accesses leave and those that they find, one access after the other: `mem` gives the word at an address. -/
def actSeq (mem : Nat → Word) : List Act → (Nat → Word) × List Word
  | [] => (mem, [])
  | a :: r =>
    let (m, l) := actSeq (fun x => if x = a.addr then actNew a (mem x) else mem x) r
    (m, mem a.addr :: l)

/-- What a register holds after accesses: the word found by the last that puts its word there, else what it held. -/
def landed (l : List Act) (found : List Word) (here : Act → Bool) (old : Word) : Word :=
  match ((l.zip found).filter fun p => here p.1).getLast? with
  | some p => p.2
  | none => old

/-- Operation `s.nextId` is listed as one in flight, and its end is set unless passes of it have still to act. -/
def listed (s : State) (op : PendOp) : State :=
  let u := { s with nextId := s.nextId + 1, ops := s.ops ++ [op] }
  if s.late.any (·.id == s.nextId) then u
  else u.post (if op.kind = .load then .loadReturn else .storePerformed) { id := s.nextId }

/-- How many rows of one bank the words of a pass lie in. -/
def rowsOf (ws : List Nat) (bank : Nat) : Nat := ((ws.filter fun a => a % 384 == bank).map (· / 384)).eraseDups.length

/-- The operations that a FENCE of kind `k` and scope `sc` finds in flight and orders: the party's accesses of the lanes `m`, loads
and atomics alone for an acquire, those of die scratch alone below scope 2; for a Shuttle its XLD and XST too. -/
def Ordered (s : State) (m : BitVec 1024) (k sc j : Nat) : Prop :=
  (∃ o ∈ s.ops, o.id = j ∧ o.party = s.cur ∧ o.space ≠ none ∧ (k ≠ 0 ∨ o.kind = .load) ∧ (2 ≤ sc ∨ o.space = some true) ∧
    (∀ t, s.cur = .team t → o.lanes &&& m ≠ 0)) ∨
  (∃ h n, s.cur = .shuttle h n ∧ ∃ x ∈ s.transfers, x.id = j ∧ x.h = h ∧ x.shuttle = n ∧ x.copy = none ∧
    (x.reg ≠ none ∨ (k ≠ 0 ∧ x.word ≠ none)))

/-- Team `t` with the operations that its path's next instruction waits for. -/
def withFence (x : Team) (ids : List Nat) : Team := x.putPath { x.path with fence := ids }

/-- The same for the party whose turn it is. -/
def fencedBy (s : State) (ids : List Nat) : State :=
  match s.cur with
  | .team t => s.putTeam t (withFence (s.team t) ids)
  | .shuttle h n => s.putShuttle h n { s.shuttle h n with fence := ids }
  | .none => s

/-- The place of what the issuing party does in cycle `c`. -/
def placeIn (s : State) (c : Nat) : Nat :=
  match s.cur with
  | .team t => c * 20000 + 5120 + (s.team t).info.core * 20 + (s.team t).info.part * 2
  | .shuttle h n => c * 20000 + 5120 + (s.harness h).core * 20 + 16 + n
  | .none => c * 20000

/-- The die of a party's core. -/
def dieBy (s : State) (p : Party) : Nat :=
  match p with
  | .team t => (s.team t).info.core / 64
  | .shuttle h _ => (s.harness h).core / 64
  | .none => 4

/-- What is late, an access of die scratch, makes one that `ok` accepts. -/
def Makes (y : Late) (ok : Act → Prop) : Prop := y.scratch = true ∧ ∃ a ∈ y.acts, ok a

/-- Something late that `p` accepts stands at the place `k`. -/
def Owed (s : State) (p : Late → Prop) (k : Nat) : Prop := ∃ y ∈ s.late, p y ∧ y.key = k

/-- The place of the last such, or 0 where there is none. -/
def LastOwed (s : State) (p : Late → Prop) (k : Nat) : Prop := (Owed s p k ∧ ∀ j, Owed s p j → j ≤ k) ∨ (k = 0 ∧ ∀ j, ¬ Owed s p j)

/-- An atomic that was issued in this cycle on a core of the issuing party's die. -/
def Beside (s : State) (ok : Act → Prop) (y : Late) : Prop :=
  y.cycle = s.time ∧ dieBy s y.party = dieBy s s.cur ∧ Makes y fun a => a.op ≠ none ∧ a.dst ≠ none ∧ ok a

/-- Team `t` has an access of its own to the word at `a` of die scratch still to act. -/
def Owes (s : State) (t : Nat) (sc : Bool) (a : Nat) : Prop :=
  sc = true ∧ ∃ y ∈ s.late, y.party = .team t ∧ y.scratch = true ∧ ∃ b ∈ y.acts, b.addr = a

/-- The accesses `acts` of the next operation of the issuing party, of its lanes `m`, to act in die scratch at the place `k`. -/
def lateAt (s : State) (m : BitVec 1024) (k : Nat) (acts : List Act) : Late :=
  { key := k, id := s.nextId, party := s.cur, path := s.curPath, lanes := m, cycle := s.time, issued := s.curIssued, acts := acts, scratch := true }

end Sys2Proof.Claims

/-- R223, R436: W is the greatest number of distinct rows asked of one bank; each pass's waves beyond the first are counted for
the core, and nothing else changes; die scratch has none. -/
def Sys2Proof.Claims.BankWaves : Prop :=
  (∀ ws b, rowsOf ws b ≤ bankWaves ws) ∧ (∀ ws, ws ≠ [] → ∃ b, rowsOf ws b = bankWaves ws) ∧
  (∀ s n l, countWaves s true n l = s) ∧
  (∀ s n l,
    let h := s.harness s.curHarness
    let words := fun g => (l.filter fun a : Access => a.lane / 32 == g).flatMap fun a => (List.range n).map fun i => a.addr / 4 + i
    countWaves s false n l = s.putHarness s.curHarness
      { h with waves := h.waves + BitVec.ofNat 64 ((List.range 32).map fun g => bankWaves (words g) - 1).sum })

/-- An access that starts is one operation in flight: it is numbered, listed with its lanes, counted for its party, and marks its
registers until LOAD_RETURN or STORE_PERFORMED, which is set once no pass of it is still to act; a write of die scratch holds its team's fetch while a watchpoint there is
armed; no register and no byte of memory changes. -/
def Sys2Proof.Claims.AccessesInFlight : Prop :=
  ∀ (s : State) (sc : Bool) (regs : List Byte) (lanes : BitVec 1024),
    let op := fun (k : OpKind) (pc : Nat) =>
      ({ id := s.nextId, party := s.cur, kind := k, pc := pc, space := some sc, lanes := lanes } : PendOp)
    let marks := fun (pc : Nat) => (regs.filter fun r => isV r || isS r).map fun r => (⟨r, pc, s.nextId⟩ : Mark)
    (∀ t, s.cur = .team t →
      let x := s.team t
      let armed := ∃ k ∈ (s.harnessOf t).watch, ∃ y, k = some y ∧ y.scratch = true
      let held := fun y : Team => ({ y with fetch := [s.nextId] } : Team)
      let loads := ({ x with deps := { x.deps with l := x.deps.l + 1, marks := x.deps.marks ++ marks x.path.pc } } : Team)
      let stores := ({ x with deps := { x.deps with s := x.deps.s + 1 } } : Team)
      startLoad s sc regs lanes = (listed s (op .load x.path.pc)).putTeam t loads ∧
      (¬ (sc = true ∧ armed) →
        startStore s sc lanes = (listed s (op .store x.path.pc)).putTeam t stores ∧
        startAtom s sc regs lanes = (listed s (op .load x.path.pc)).putTeam t loads) ∧
      (sc = true → armed → t < s.teams.length →
        startStore s sc lanes = (listed s (op .store x.path.pc)).putTeam t (held stores) ∧
        startAtom s sc regs lanes = (listed s (op .load x.path.pc)).putTeam t (held loads))) ∧
    (∀ h n, s.cur = .shuttle h n →
      let x := s.shuttle h n
      let one := fun m => ({ x with accesses := x.accesses + 1, marks := x.marks ++ m } : Shuttle)
      startLoad s sc regs lanes = (listed s (op .load x.pc)).putShuttle h n (one (marks x.pc)) ∧
      startAtom s sc regs lanes = (listed s (op .load x.pc)).putShuttle h n (one (marks x.pc)) ∧
      startStore s sc lanes = (listed s (op .store x.pc)).putShuttle h n (one []))

/-- The checks of an access, lane by lane in their order: alignment, range, a lock of another operation, a live barrier under a
store; a Shuttle's access that meets a lock of its own waits in STATE 2; one that meets only an earlier transfer of its own, and a
write of shared memory before which a read of die scratch has still to act, waits as it stands; else it passes. -/
def Sys2Proof.Claims.AccessChecks : Prop :=
  ∀ (s : State) (sc : Bool) (kind : MemKind) (n : Nat) (l : List Access),
    let st := kind == .store
    let h := s.harness s.curHarness
    let mis := fun a : Access => a.addr % n ≠ 0
    let out := fun a : Access => inRange s s.curFn sc a.addr = false
    let lock := fun a : Access => ∃ k ∈ h.locks, Foreign s k ∧ Overlaps k a.addr n ∧ (k.dest = true ∨ st = true)
    let own := fun a : Access => ∃ k ∈ h.locks, ¬ Foreign s k ∧ Overlaps k a.addr n
    let early := fun a : Access => Earlier s sc st a.addr n
    let live := fun a : Access => st = true ∧ h.isLive (a.addr / 16 * 16) = true
    let first := fun (p : Access → Prop) (a : Access) => ∃ pre post, l = pre ++ a :: post ∧ p a ∧ ∀ b ∈ pre, ¬ p b
    let none' := fun (p : Access → Prop) => ∀ b ∈ l, ¬ p b
    let r := checkAccess s sc kind n l
    (∀ a, first mis a → r = some (.fault 0x03 (w32 a.addr) 0)) ∧
    (∀ a, none' mis → first out a → r = some (.fault 0x04 (w32 a.addr) 0)) ∧
    (sc = true → none' mis → none' out → none' early → r = none) ∧
    (sc = true → none' mis → none' out → (∃ a ∈ l, early a) → r = some (.wait s .retry)) ∧
    (∀ a, sc = false → none' mis → none' out → first lock a → r = some (.fault 0x05 (w32 a.addr) 0)) ∧
    (∀ a, sc = false → none' mis → none' out → none' lock → first live a → r = some (.fault 0x06 (w32 a.addr) 0)) ∧
    (sc = false → none' mis → none' out → none' lock → none' live → (∃ a ∈ l, own a) → r = some (.wait (waiting s) .retry)) ∧
    (sc = false → none' mis → none' out → none' lock → none' live → none' own → (∃ a ∈ l, early a) → r = some (.wait s .retry)) ∧
    (sc = false → none' mis → none' out → none' lock → none' own → none' early → none' live → r = none) ∧
    (∀ a, inRange s s.curFn false a = true ↔ a < 0x180000) ∧
    (∀ a, inRange s s.curFn true a = true ↔
      a < 2 ^ 29 ∧ 65536 * (s.func s.curFn).sbase.toNat ≤ a % 2 ^ 27 ∧
        a % 2 ^ 27 < 65536 * ((s.func s.curFn).sbase.toNat + (s.func s.curFn).slen.toNat))

/-- LDS, LDS2, LDS4, LDX, LDX2, LDX4 and LDAQ, for teams and Shuttles, and FILL: when the accesses pass their checks, their
passes act, each lane's words into its registers, and a load is in flight with its registers marked; FILL, an access of every lane
of the team, takes the stack pointer down. An LDAQ that has still to act holds back its party's next instruction. Else the fault.
When die scratch is read (PassesInOrder) is one order among those allowed (log 7); the TADDR of a
FILL below the reset SSP is the model's (log 96), as is the order in which the words of several frames are checked (log 116). -/
def Sys2Proof.Claims.Loads : Prop :=
  (∀ (s : State) (i : Instr) sc n d a b, loadOf i = some (sc, n, d, a, b) →
    let w := turnView s
    let l := accesses w d a b
    let acts := l.flatMap fun x => (List.range n).map fun j =>
      ({ lane := x.lane, addr := x.addr + 4 * j, dst := some (regAt d j) } : Act)
    (∀ c lo hi, checkAccess s sc .load (4 * n) l = some (.fault c lo hi) → PartyFaults s i c lo hi) ∧
    (checkAccess s sc .load (4 * n) l = none →
      let u := startLoad (countWaves (runPasses s sc (accessLanes w d a b) (byGroup acts)) sc n l) sc ((List.range n).map (regAt d)) (accessLanes w d a b)
      (i ≠ .ldaq d a b → PartyCompletes s i u) ∧
      (i = .ldaq d a b → PartyCompletes s i (if u.late.any (·.id == s.nextId) then fencedBy u [s.nextId] else u)))) ∧
  (∀ (s : State) (t : Nat) (d b : Byte), s.cur = .team t → t < s.teams.length →
    let x := s.team t
    let f := 128 * x.info.grp
    let top := x.ctl.ssp.toNat
    let base := top - b.toNat * f
    let passes := (List.range b.toNat).flatMap fun j => (List.range x.info.grp).map fun g => (List.range 32).map fun k =>
      ({ lane := 32 * g + k, addr := base + j * f + 4 * (32 * g + k), dst := some (regAt d j) } : Act)
    (top < b.toNat * f + x.ctl.sspBase.toNat → Faults s t (.fill d b) 0x04 (BitVec.ofInt 32 ((top : Int) - b.toNat * f)) 0) ∧
    (b.toNat * f + x.ctl.sspBase.toNat ≤ top →
      (∀ c lo hi, checkAccess s false .load 4 (frameAccesses x base b.toNat) = some (.fault c lo hi) → Faults s t (.fill d b) c lo hi) ∧
      (checkAccess s false .load 4 (frameAccesses x base b.toNat) = none →
        let u := runPasses s false (BitVec.ofNat 1024 (2 ^ (32 * x.info.grp) - 1)) passes
        Completes s t (.fill d b)
          (startLoad (u.putTeam t { u.team t with ctl := { (u.team t).ctl with ssp := BitVec.ofNat 21 base } }) false
            ((List.range b.toNat).map (regAt d)) (BitVec.ofNat 1024 (2 ^ (32 * x.info.grp) - 1))))))

/-- STS, STS2, STS4, STX, STX2 and STX4, for teams and Shuttles, and SPILL: when the accesses pass their checks, their passes act,
each lane's words to its addresses in lane order, and a store is in flight; SPILL, an access of every lane of the team, takes the
stack pointer up once the reads of die scratch of these lanes are fixed. Else the fault. That the TADDR of a SPILL beyond the limit is the stack pointer is the model's reading (log 21), the order in which the words of its frames are checked its choice (log 116). -/
def Sys2Proof.Claims.Stores : Prop :=
  (∀ (s : State) (i : Instr) sc n d a b, storeOf i = some (sc, n, d, a, b) →
    let w := turnView s
    let l := accesses w d a b
    let acts := l.flatMap fun x => (List.range n).map fun j =>
      ({ lane := x.lane, addr := x.addr + 4 * j, op := some .xchg, d := rd w (regAt d j) x.lane } : Act)
    (∀ c lo hi, checkAccess s sc .store (4 * n) l = some (.fault c lo hi) → PartyFaults s i c lo hi) ∧
    (checkAccess s sc .store (4 * n) l = none → PartyCompletes s i
      (startStore (countWaves (runPasses s sc (accessLanes w d a b) (byGroup acts)) sc n l) sc (accessLanes w d a b)))) ∧
  (∀ (s : State) (t : Nat) (a b : Byte), s.cur = .team t → t < s.teams.length →
    let x := s.team t
    let f := 128 * x.info.grp
    let base := x.ctl.ssp.toNat
    let top := base + b.toNat * f
    let l := frameAccesses x base b.toNat
    let passes := (List.range b.toNat).flatMap fun j => (List.range x.info.grp).map fun g => (List.range 32).map fun k =>
      ({ lane := 32 * g + k, addr := base + j * f + 4 * (32 * g + k), op := some .xchg
         d := rd x.view (regAt a j) (32 * g + k) } : Act)
    (x.ctl.ssplim.toNat < top → Faults s t (.spill a b) 0x04 (w32 base) 0) ∧
    (top ≤ x.ctl.ssplim.toNat →
      (∀ c lo hi, checkAccess s false .store 4 l = some (.fault c lo hi) → Faults s t (.spill a b) c lo hi) ∧
      (checkAccess s false .store 4 l = none →
        let all := BitVec.ofNat 1024 (2 ^ (32 * x.info.grp) - 1)
        let u := runPasses s false all passes
        (ReadsOwed s all → Waits s t (.spill a b) .retry) ∧
        (¬ ReadsOwed s all → Completes s t (.spill a b)
          (startStore (u.putTeam t { u.team t with ctl := { (u.team t).ctl with ssp := BitVec.ofNat 21 top } }) false all)))))

/-- How passes act. The accesses of an instruction go in passes, one for each group of lanes that has one. In shared
memory the first acts at issue and each other one cycle after the one before, at the place of its party in that cycle. A store of die
scratch acts 60 cycles after its last pass on the party's own die and 140 on another, in one moment for each of the two, no earlier
than what comes before it to the same words and the reads before it; a load or atomic of die scratch acts at issue, or after what comes
before it to the same words, an atomic after the reads before it and atomics of its own cycle and die on its words too (log 7). What comes
before is what the same path, or one of its lanes, has issued. What waits does so in the order of the places, and acts,
once its place has come, before a turn.
Accesses that act go one after the other: memory changes only at the words that they write, which hold what the last left,
a register takes the word found by the last access that names it, and nothing else changes. A CAS that finds
another word writes nothing. A write that meets an armed watchpoint notes the lowest one for the instruction. An access whose
operation is no longer listed writes no register. -/
def Obligations.PassesInOrder : Prop :=
  (∀ (s : State) (path : Nat) (issued : BitVec 64) (sc : Bool) (l : List Act), s.wf = true → Placed s → s.curRegs.wf = true →
    (∀ a ∈ l, a.addr % 4 = 0 ∧ a.addr < 2 ^ 29) → ∃ s1 r,
      let q := actSeq (nearWord s sc) l
      runActs path issued sc s l = s1.putRegs r ∧
      StoresOnly s s1 path sc ((l.filter fun a => a.op.isSome).map (·.addr)) 4 ∧
      (∀ x, x % 4 = 0 → x < 2 ^ 29 → nearWord s1 sc x = q.1 x) ∧
      (∀ m k, k < 1024 → getV r m k =
        landed l q.2 (fun a => a.dst.any (fun b => isV b && b.toNat == m) && a.lane == k) (getV s.curRegs m k)) ∧
      (∀ m, getS r m = landed l q.2 (fun a => a.dst.any fun b => isS b && b.toNat == m + 0xC0) (getS s.curRegs m)) ∧
      (∀ m, getP r m = getP s.curRegs m)) ∧
  (∀ l : List Act, (∀ a ∈ l, a.lane < 1024 → ∃ p ∈ byGroup l, a ∈ p) ∧
    (∀ p ∈ byGroup l, p ≠ [] ∧ ∃ g, p = l.filter fun a => a.lane / 32 == g) ∧
    (byGroup l).Pairwise fun p q => ∀ a ∈ p, ∀ b ∈ q, a.lane / 32 < b.lane / 32) ∧
  (∀ (s : State) (m : BitVec 1024) (ps : List (List Act)), (∀ p ∈ ps, ∀ a ∈ p, a.dst = none) →
    let acts := ps.flatten
    let u := runPasses s true m ps
    let mine := fun y => Before s (pathLanes s) y ∧ Makes y fun a => a.dst ≠ none ∨ ∃ b ∈ acts, b.addr = a.addr
    let own := fun (a : Act) => a.addr / 2 ^ 27 == (s.harness s.curHarness).core / 64
    u = { s with late := u.late } ∧
    ∃ k, LastOwed s mine k ∧
      ∀ x, x ∈ u.late ↔ x ∈ s.late ∨
        (acts.filter own ≠ [] ∧ x = lateAt s m (max k (placeIn s (s.time + (ps.length - 1) + 60))) (acts.filter own)) ∨
        ((acts.filter fun a => !own a) ≠ [] ∧
          x = lateAt s m (max k (placeIn s (s.time + (ps.length - 1) + 140))) (acts.filter fun a => !own a))) ∧
  (∀ (s : State) (m : BitVec 1024) (ps : List (List Act)), (∃ p ∈ ps, ∃ a ∈ p, a.dst ≠ none) →
    let acts := ps.flatten
    let writes := ∃ b ∈ acts, b.op ≠ none
    let meets := fun (a : Act) => ∃ b ∈ acts, b.addr = a.addr
    let owed := Owed s fun y => (Before s (pathLanes s) y ∧ Makes y fun a => meets a ∨ (writes ∧ a.dst ≠ none)) ∨ (writes ∧ Beside s meets y)
    let u := runPasses s true m ps
    ((∀ j, ¬ owed j) → u = ps.foldl (runActs s.curPath s.curIssued true) s) ∧
    ((∃ j, owed j) → u = { s with late := u.late } ∧
      ∃ k, owed k ∧ (∀ j, owed j → j ≤ k) ∧ ∀ x, x ∈ u.late ↔ x ∈ s.late ∨ x = lateAt s m k acts)) ∧
  (∀ (s : State) (sc : Bool) (m : BitVec 1024) (ps : List (List Act)), s.late.Pairwise (fun x y => x.key ≤ y.key) →
    (ps.foldl (runActs s.curPath s.curIssued true) s).late = s.late ∧
    (runPasses s sc m ps).late.Pairwise fun x y => x.key ≤ y.key) ∧
  (∀ (s : State) (m : BitVec 1024), runPasses s false m [] = s) ∧
  (∀ (s : State) (m : BitVec 1024) (p : List Act) (r : List (List Act)),
    let u := runPasses s false m (p :: r)
    let i := (s.team s.curTeam).info
    u = { runActs s.curPath s.curIssued false s p with late := u.late } ∧
    (∀ x, x ∈ u.late ↔ x ∈ s.late ∨ ∃ (j : Nat) (acts : List Act), r[j]? = some acts ∧
      x = { key := (s.time + 1 + j) * 20000 + 5120 + i.core * 20 + i.part * 2, id := s.nextId, party := s.cur
            path := s.curPath, lanes := m, cycle := s.time, issued := s.curIssued, acts := acts })) ∧
  (∀ (turn : Turn) (s : State),
    let u := pass (turnCycles turn s) s
    (tick turn s).late = (runDue (u.time * 20000 + turnPlace u turn) u).late) ∧
  (∀ (key : Nat) (s : State), s.late.Pairwise (fun x y => x.key ≤ y.key) →
    (runDue key s).late = s.late.filter fun x => key ≤ x.key) ∧
  (∀ (s : State) (x : Late), x.image = none → x.ask = none →
    let act := fun l =>
      ({ runActs x.path x.issued x.scratch { s with cur := x.party, late := s.late.filter (· != x) } l with cur := s.cur } : State)
    let u := act x.acts
    (s.ops.find? (·.id == x.id) = none → runLate s x = act (x.acts.map fun a => { a with dst := none })) ∧
    (∀ o, s.ops.find? (·.id == x.id) = some o → o.kind = .load ∨ o.kind = .store → o.after = [] → runLate s x =
      if s.late.any (fun y => y != x && y.id == x.id) then u
      else u.post (if o.kind = .load then .loadReturn else .storePerformed) { id := x.id })) ∧
  (∀ (s : State) (path : Nat) (issued : BitVec 64) (sc : Bool) (a : Act), a.op = some .cas → nearWord s sc a.addr ≠ a.d →
    runAct path issued sc s a = match a.dst with
      | some r => s.putRegs (putLane s.curRegs r a.lane (nearWord s sc a.addr))
      | none => s) ∧
  (∀ (s : State) (t path : Nat) (p : Path) (issued : BitVec 64) (sc : Bool) (a : Nat) (v : Word), s.cur = .team t →
    (s.team t).flow.paths.getD path none = some p →
    let old := nearWord s sc a
    let hit := fun j => ∃ x, (s.harness s.curHarness).watch.getD j none = some x ∧ x.addr = a ∧ x.scratch = sc ∧
      (if x.change = true then (v ^^^ old) &&& x.mask ≠ 0 else v &&& x.mask = x.value &&& x.mask)
    ((∀ j, j < 4 → ¬ hit j) → writeFor path issued s sc a v = putNear s sc a v) ∧
    (∀ j, j < 4 → hit j → (∀ k, k < j → ¬ hit k) → writeFor path issued s sc a v =
      (putNear s sc a v).putTeam t ((s.team t).putPathAt path (some { p with watch := noteHit issued j a p.watch })))) ∧
  (∀ (issued : BitVec 64) (j a : Nat) (l : List WatchHit) (k : WatchHit),
    noteHit issued j a [] = [⟨issued, j, a⟩] ∧
    noteHit issued j a (l ++ [k]) = if k.issued ≠ issued then l ++ [k, ⟨issued, j, a⟩]
      else if j < k.index then l ++ [⟨issued, j, a⟩] else l ++ [k])

/-- The atomics of both memories and TICKET: when the accesses pass their checks, their passes act, each lane's D taking the word
its own access found, and an access is in flight; else the fault. The new word is that of the operation (PassesInOrder);
CAS takes it from D + 1. CAS with D = zero is allowed by the model's reading (log 24). -/
def Sys2Proof.Claims.Atomics : Prop :=
  ∀ (s : State) (i : Instr) sc d a b op one, atomOf i = some (sc, d, a, b, op, one) →
    let w := turnView s
    let l := accesses w d a b
    let acts := l.map fun x =>
      ({ lane := x.lane, addr := x.addr, op := some op, sgn := mrEtype w.mr == 0, d := if one then 1 else rd w d x.lane
         d1 := (rd64 w d x.lane).extractLsb' 32 32, dst := some d } : Act)
    (∀ c lo hi, checkAccess s sc .store 4 l = some (.fault c lo hi) → PartyFaults s i c lo hi) ∧
    (checkAccess s sc .store 4 l = none → PartyCompletes s i
      (startAtom (countWaves (runPasses s sc (accessLanes w d a b) (byGroup acts)) sc 1 l) sc [d] (accessLanes w d a b)))

/-- FATOMS.ADD and FATOMX.ADD enter one entry for each access in the domain, with the team's sequence number and round; a team whose
role is outside the domain's mask is illegal. FENCE makes the path's next instruction wait for the accesses that it orders; a
round fence ends the team's round too and fixes the mask. A round closes when no team of the mask still owes its fence, halted
ones, and those whose fences still wait for an access, delaying it; it applies its entries in key order, each added and rounded once to binary32, no other byte changed. That an ordered
add counts no waves is the model's reading (log 100); that no round closes which holds nothing once every contributor has ended is its choice
(log 136). -/
def Sys2Proof.Claims.OrderedAdds : Prop :=
  (∀ (s : State) (t : Nat) (sc : Bool) (d a b : Byte), s.cur = .team t →
    let x := s.team t
    let i := if sc then Instr.fatomxAdd d a b else Instr.fatomsAdd d a b
    let h := x.info.harness
    let l := x.info.launch
    let dom := getDom s sc h l
    let inside := ∀ m, dom.mask = some m → m.getLsbD x.info.role = true
    let ls := accesses x.view d a b
    let seq := if sc then x.deps.scratchSeq else x.deps.sharedSeq
    let round := if sc then x.deps.scratchRound else x.deps.sharedRound
    let e := fun y : Access => ({ cid := x.info.cid, role := x.info.role, tid := x.info.tid, lane := y.lane, seq := seq
                                  round := round + 1, die := y.addr / 2 ^ 27, addr := if sc then y.addr % 2 ^ 27 else y.addr
                                  value := rd x.view d y.lane } : OrdEntry)
    (¬ inside → Illegal s t i) ∧
    (∀ c lo hi, inside → checkAccess s sc .store 4 ls = some (.fault c lo hi) → Faults s t i c lo hi) ∧
    (inside → checkAccess s sc .store 4 ls = none →
      Completes s t i (startOpIn ((putDom s sc h l { dom with entries := dom.entries ++ ls.map e }).putTeam t
        { x with deps := if sc then { x.deps with scratchSeq := seq + 1 } else { x.deps with sharedSeq := seq + 1 } })
        .store [] (some sc) (accessLanes x.view d a b)))) ∧
  (∀ (s : State) (d a b : Byte),
    (d.toNat ≤ 4 → a.toNat ≤ 2 → b = 0 → ∃ ids, (∀ j, j ∈ ids ↔ Ordered s (turnView s).mask a.toNat d.toNat j) ∧
      (∀ t, s.cur = .team t → Completes s t (.fence d a b) (s.putTeam t (withFence (s.team t) ids))) ∧
      (∀ h n, s.cur = .shuttle h n →
        ShCompletes s h n (.fence d a b) (s.putShuttle h n { s.shuttle h n with fence := ids }))) ∧
    ((4 < d.toNat ∨ 3 < a.toNat ∨ (a ≠ 3 ∧ b ≠ 0) ∨ (a = 3 ∧ ∃ h n, s.cur = .shuttle h n)) → PartyFaults s (.fence d a b) 0x01 ((encode (.fence d a b)).getD 0) 0)) ∧
  (∀ (s : State) (t : Nat) (p : Path) (j : Nat), j ∈ p.fence → (∃ o ∈ s.ops, o.id = j) ∨ (∃ x ∈ s.transfers, x.id = j) →
    pathCan s t p = false) ∧
  (∀ (s : State) (t : Nat) (d b : Byte), s.cur = .team t → t < s.teams.length →
    let x := s.team t
    let sc := d == 3
    let h := x.info.harness
    let l := x.info.launch
    let dom := getDom s sc h l
    let ok := (d = 1 ∨ d = 3) ∧ b ≠ 0 ∧ b.toNat < 2 ^ (s.launchOf t).roles.length ∧ b.toNat.testBit x.info.role = true ∧
      ∀ m, dom.mask = some m → m.toNat = b.toNat
    (¬ ok → Illegal s t (.fence d 3 b)) ∧
    (ok → ∃ ids, (∀ j, j ∈ ids ↔ Ordered s x.view.mask 3 d.toNat j) ∧ Completes s t (.fence d 3 b)
      (((putDom s sc h l { dom with mask := some (BitVec.ofNat 4 b.toNat) }).putTeam t { withFence x ids with deps :=
        if sc then { x.deps with scratchRound := x.deps.scratchRound + 1, scratchSeq := 0 }
        else { x.deps with sharedRound := x.deps.sharedRound + 1, sharedSeq := 0 } }).post .roundClose
          { ctl := sc, id := h, launch := l }))) ∧
  (∀ s : State,
    let sc := s.ev.ctl
    let dom := getDom s sc s.ev.id s.ev.launch
    exec .roundClose s = .next (
      if (if sc then (s.launch s.ev.launch).live else (s.harness s.ev.id).alive) && roundCloses s sc s.ev.id s.ev.launch then
        putDom ((ordSort (dom.entries.filter (·.round = dom.rounds + 1))).foldl (applyOrd sc s.ev.id) s) sc s.ev.id s.ev.launch
          { dom with rounds := dom.rounds + 1, entries := dom.entries.filter (·.round != dom.rounds + 1) }
      else s)) ∧
  (∀ (s : State) (sc : Bool) (h l : Nat),
    let dom := getDom s sc h l
    let member := fun (m : BitVec 4) (t : Nat) => t < s.teams.length ∧ m.getLsbD (s.team t).info.role = true ∧
      (if sc then (s.team t).info.launch = l else (s.team t).info.harness = h)
    let fenced := fun t => dom.rounds < (if sc then (s.team t).deps.scratchRound else (s.team t).deps.sharedRound)
    roundCloses s sc h l = true ↔ ∃ m, dom.mask = some m ∧
      ((∃ t, member m t ∧ ((s.team t).place ≠ .ended ∨ fenced t)) ∨ dom.entries ≠ []) ∧
      ∀ t, member m t → (s.team t).place = .ended ∨ ((s.team t).isHalted = false ∧ fenced t ∧
        ∀ p, some p ∈ (s.team t).flow.paths → ∀ j ∈ p.fence, (∀ o ∈ s.ops, o.id ≠ j) ∧ ∀ x ∈ s.transfers, x.id ≠ j)) ∧
  (∀ l : List OrdEntry, (ordSort l).Perm l ∧ (ordSort l).Pairwise fun e g => ordBefore g e = false) ∧
  (∀ e g : OrdEntry, ordBefore e g = true ↔ e.cid < g.cid ∨ (e.cid = g.cid ∧ (e.role < g.role ∨ (e.role = g.role ∧
    (e.tid < g.tid ∨ (e.tid = g.tid ∧ (e.lane < g.lane ∨ (e.lane = g.lane ∧ e.seq < g.seq)))))))) ∧
  (∀ (s : State) (sc : Bool) (h : Nat) (e : OrdEntry), s.wf = true → (if sc then e.die < s.dies.length else h < s.harnesses.length) →
    let p : Loc := if sc then .scratch e.die e.addr else .shared h e.addr
    let u := applyOrd sc h s e
    leNat (u.locBytes p 4) =
      Num.roundTo fmt32 .ne (Num.fadd .ne (Num.fval fmt32 (leNat (s.locBytes p 4))) (Num.fval fmt32 e.value.toNat)) ∧
    ∀ q, ¬ Within q p 4 → u.byteAt q = s.byteAt q)

/-- WAITV completes when its word meets the condition, its team having no access of its own to that word of die scratch still to act,
or when a poll has found that it does; else it waits on the word, whose address and value are those of its issue: a wait that has
begun runs no check again. LOAD_RETURN and STORE_PERFORMED end an operation in flight whose passes have all acted: the counter falls
and the marks of its registers go. -/
def Obligations.MemoryWaits : Prop :=
  (∀ (s : State) (t : Nat) (d a b : Byte), s.cur = .team t →
    let x := s.team t
    let sc := b.getLsbD 3
    let p := (rd x.view a 0).toNat
    let v := rd x.view d 0
    let holds := cond50 (b.toNat % 8) (watchedWord s t p sc) v = true ∧ ¬ Owes s t sc p
    let begun := x.path.dep = some .met ∨ ∃ q z c u, x.path.dep = some (.value q z c u)
    (x.path.dep = some .met → Completes s t (.waitv d a b) s) ∧
    (∀ q z c u, x.path.dep = some (.value q z c u) →
      (cond50 c (watchedWord s t q z) u = true → ¬ Owes s t z q → Completes s t (.waitv d a b) s) ∧
      (cond50 c (watchedWord s t q z) u = false ∨ Owes s t z q → Waits s t (.waitv d a b) (.value q z c u))) ∧
    (∀ c lo hi, ¬ begun → checkAccess s sc .load 4 [⟨0, p⟩] = some (.fault c lo hi) → Faults s t (.waitv d a b) c lo hi) ∧
    (¬ begun → checkAccess s sc .load 4 [⟨0, p⟩] = none → holds → Completes s t (.waitv d a b) s) ∧
    (¬ begun → checkAccess s sc .load 4 [⟨0, p⟩] = none → ¬ holds →
      Waits s t (.waitv d a b) (.value p sc (b.toNat % 8) v))) ∧
  (∀ (s : State) p a sc c v, (s.team s.ev.team).flow.paths.getD s.ev.path none = some p → p.dep = some (.value a sc c v) →
    (cond50 c (watchedWord s s.ev.team a sc) v = true → ¬ Owes s s.ev.team sc a → exec .waitvPoll s =
      .next (s.putTeam s.ev.team ((s.team s.ev.team).putPathAt s.ev.path (some { p with dep := some .met })))) ∧
    (cond50 c (watchedWord s s.ev.team a sc) v = false ∨ Owes s s.ev.team sc a → exec .waitvPoll s = .next s)) ∧
  (∀ (s : State) (o : PendOp) (t : Nat), o.party = .team t → (s.ops.find? fun q => q.id == s.ev.id && q.kind == o.kind) = some o →
    (∀ y ∈ s.late, y.id ≠ s.ev.id) → o.after = [] → o.slot = none →
    let x := s.team t
    let ops := s.ops.filter fun q => q.id != o.id
    let marks := x.deps.marks.filter fun k => k.id != o.id
    (o.kind = .load → exec .loadReturn s =
      .next ({ s with ops := ops }.putTeam t { x with deps := { x.deps with l := x.deps.l - 1, marks := marks } })) ∧
    (o.kind = .store → exec .storePerformed s =
      .next ({ s with ops := ops }.putTeam t { x with deps := { x.deps with s := x.deps.s - 1, marks := marks } }))) ∧
  (∀ (s : State) (o : PendOp) (h n : Nat), o.party = .shuttle h n → (s.ops.find? fun q => q.id == s.ev.id && q.kind == o.kind) = some o →
    (∀ y ∈ s.late, y.id ≠ s.ev.id) → o.after = [] → o.slot = none →
    let x := s.shuttle h n
    let s1 := { s with ops := s.ops.filter fun q => q.id != o.id }.putShuttle h n
      { x with accesses := x.accesses - 1, marks := x.marks.filter fun k => k.id != o.id }
    (o.kind = .load → exec .loadReturn s = .next s1) ∧ (o.kind = .store → exec .storePerformed s = .next s1))

/-! ## Copies, transfers and Shuttle programs -/

namespace Sys2Proof.Claims
open Sys2Proof.Machine

/-- A check that found a fault makes it the fault of `i`. -/
def FaultsBy (s : State) (i : Instr) (o : Option Eff) : Prop := ∀ c lo hi, o = some (.fault c lo hi) → PartyFaults s i c lo hi

/-- `i` of the party whose turn it is waits, the pages it has looked up in the TLBs of `u`. -/
def PartyWaits (s : State) (i : Instr) (u : State) : Prop :=
  (∀ t, s.cur = .team t → ∀ r, needs s i = some r → s.Passes t r → exec i s = .next (waitOn u t .retry)) ∧
  (∀ h n, s.cur = .shuttle h n → ∀ r, needs s i = some r → s.ShPasses h n r → exec i s = .next u)

/-- What a failed check of a page makes of `i`, `u` being the state with the TLBs as looked up: a device-handled fault, one the
host may serve, or a refused one. -/
def PageFaults (s : State) (i : Instr) (u : State) (k : Chk) : Prop :=
  (∀ c a, k = .trap c a → PartyFaults s i c (w32 a) (if c = 0x04 then 0 else w32 (a / 2 ^ 32))) ∧
  (∀ t c va wr, s.cur = .team t → k = .host c va wr → ∀ r, needs s i = some r → s.Passes t r →
    exec i s = .next (teamHostFault u t c va wr)) ∧
  (∀ h n c va wr, s.cur = .shuttle h n → k = .host c va wr → ∀ r, needs s i = some r → s.ShPasses h n r →
    exec i s = .next (shuttleHostFault u h n c va wr)) ∧
  (∀ t c va, s.cur = .team t → k = .refused c va → ∀ r, needs s i = some r → s.Passes t r →
    exec i s = .next (refuseFault s (.team t) c va)) ∧
  (∀ h n c va, s.cur = .shuttle h n → k = .refused c va → ∀ r, needs s i = some r → s.ShPasses h n r →
    exec i s = .next (refuseFault s (.shuttle h n) c va))

/-- The control block of team `t`'s dependences replaced. -/
def withDeps (s : State) (t : Nat) (d : Deps) : State := s.putTeam t { s.team t with deps := d }

/-- How a copy of team `t` whose descriptor has passed goes on: ranges, a live slot under its destination (log 38), pages (log 35); no byte joins the open batch at once; a
full queue or lock list waits; else the copy enters the queue of the core with its pieces and locks, in the open batch. -/
def CopyIssues (s : State) (t : Nat) (i : Instr) (add ordered : Bool) (runs : List Run) : Prop :=
  let h := (s.team t).info.harness
  let f := s.fnOf t
  FaultsBy s i (rangeFault s f runs) ∧
  (rangeFault s f runs = none → FaultsBy s i (liveFault (s.harness h) runs)) ∧
  (rangeFault s f runs = none → liveFault (s.harness h) runs = none →
    let q := resolveRuns (.copy h) f h add s runs
    let u := q.1
    let hh := u.harness h
    let locks := lockEntries u.nextId none q.2.segs
    let ps := piecesOf q.2.segs
    let deps := (u.team t).deps.joinBatch 1
    PageFaults s i u q.2.chk ∧
    (q.2.chk = .ok → ps = [] → Completes s t i (withDeps u t ((u.team t).deps.joinBatch 0))) ∧
    (q.2.chk = .ok → ps ≠ [] → (256 ≤ hh.copyq.length ∨ 64 < hh.locks.length + locks.length) → PartyWaits s i u) ∧
    (q.2.chk = .ok → ps ≠ [] → hh.copyq.length < 256 → hh.locks.length + locks.length ≤ 64 →
      let c : Copy :=
        { id := u.nextId, h := h, team := t, batch := (deps.batches.getLast?.map (·.no)).getD 0, pieces := ps, flying := 0, add := add
          ordered := ordered, unread := ps.length, pc := (u.team t).path.pc, pages := q.2.pages }
      let v := (withDeps u.fresh t deps).putHarness h { hh with locks := hh.locks ++ locks, copyq := hh.copyq ++ [u.nextId] }
      Completes s t i { v with copies := u.copies ++ [c] }))

end Sys2Proof.Claims

/-- CPY and CPYA: reserved control bits are illegal; addresses and the length are multiples of 4; a far address is below
2^57; a length of 0 joins the batch; else the copy of the words named is issued, CPYA's adding and in order. The
model's readings: TADDR of a far address (log 18) and of a near range (log 19), a length of 0 (log 22), the order of
the checks (log 35), the TADDR of a length (log 36), and cause 0x06 at a copy that would write a live slot (log 38). -/
def Sys2Proof.Claims.PlainCopies : Prop :=
  ∀ (s : State) (t : Nat) (a : Byte) (add : Bool), s.cur = .team t →
    let i := if add then Instr.cpya a else Instr.cpy a
    let w := (s.team t).view
    let lo := rdS w a 0
    let far := (rdS w a 1 ++ lo).toNat
    let near := rdS w a 2
    let ctl := rdS w a 3
    let n := (ctl.extractLsb' 0 24).toNat
    let out := ctl.getLsbD 31
    let sp : Space := if ctl.getLsbD 30 then .scratch else .shared
    let run : Run := if out then ⟨sp, near.toNat, .far, far, n⟩ else ⟨.far, far, sp, near.toNat, n⟩
    (ctl.extractLsb' 24 6 ≠ 0 → Illegal s t i) ∧
    (ctl.extractLsb' 24 6 = 0 →
      (far % 4 ≠ 0 → Faults s t i 0x03 lo 0) ∧
      (far % 4 = 0 → near.toNat % 4 ≠ 0 → Faults s t i 0x03 near 0) ∧
      (far % 4 = 0 → near.toNat % 4 = 0 → n % 4 ≠ 0 → Faults s t i 0x03 (w32 n) 0) ∧
      (far % 4 = 0 → near.toNat % 4 = 0 → n % 4 = 0 → 2 ^ 57 ≤ far → Faults s t i 0x04 lo 0) ∧
      (far % 4 = 0 → near.toNat % 4 = 0 → far < 2 ^ 57 → n = 0 →
        (sideOk s (s.fnOf t) sp near.toNat 1 = false → Faults s t i 0x04 near 0) ∧
        (sideOk s (s.fnOf t) sp near.toNat 1 = true → Completes s t i (withDeps s t ((s.team t).deps.joinBatch 0)))) ∧
      (far % 4 = 0 → near.toNat % 4 = 0 → n % 4 = 0 → far < 2 ^ 57 → n ≠ 0 → CopyIssues s t i add add [run]))

/-- CPYT, CPYG and CPYS: the descriptor lies aligned in shared memory and holds what its limits allow; then the runs of
the tensor, or the rows of the list, are issued as one copy, CPYS in order; SEAL answers the number of the open batch,
closes it and opens the next number. Pieces of a copy hold all its bytes, each at most 65,536. The cut into pieces
(log 34), the order of the checks (log 35), the TADDR of a stride (log 36) and the check of live slots (log 38) are the
model's readings. -/
def Sys2Proof.Claims.DescribedCopies : Prop :=
  (∀ (s : State) (t : Nat) (a : Byte), s.cur = .team t →
    let p := (rd (s.team t).view a 0).toNat
    let m := (s.harness (s.team t).info.harness).shared
    let x := readTensor m p
    FaultsBy s (.cpyt a) (descFault p 64 64) ∧
    (descFault p 64 64 = none →
      ((x.ok true = false ∨ 2 ^ 32 - 4 < x.total) → Illegal s t (.cpyt a)) ∧
      (x.ok true = true → x.total ≤ 2 ^ 32 - 4 →
        (∀ b, x.misaligned true p = some b → Faults s t (.cpyt a) 0x03 (w32 b) 0) ∧
        (x.misaligned true p = none → CopyIssues s t (.cpyt a) false false x.runs)))) ∧
  (∀ (s : State) (t : Nat) (a : Byte) (out : Bool), s.cur = .team t →
    let i := if out then Instr.cpys a else Instr.cpyg a
    let p := (rd (s.team t).view a 0).toNat
    let m := (s.harness (s.team t).info.harness).shared
    let g := readGather m p
    let ok := g.res = false ∧ g.nsp ≤ 1 ∧ 4 ≤ g.rowb ∧ g.rowb % 4 = 0 ∧ 1 ≤ g.count ∧ g.count ≤ 4096
    let aligned := g.far % 4 = 0 ∧ g.near % 4 = 0 ∧ g.list % 4 = 0 ∧ g.stride % 4 = 0
    FaultsBy s i (descFault p 16 32) ∧
    (descFault p 16 32 = none → ¬ ok → Illegal s t i) ∧
    (descFault p 16 32 = none → ok → ¬ aligned → ∃ x, Faults s t i 0x03 x 0) ∧
    (descFault p 16 32 = none → ok → aligned → 2 ^ 57 ≤ g.far → Faults s t i 0x04 (w32 g.far) 0) ∧
    (descFault p 16 32 = none → ok → aligned → g.far < 2 ^ 57 → 0x180000 < g.list + 4 * g.count → Faults s t i 0x04 (w32 g.list) 0) ∧
    (descFault p 16 32 = none → ok → aligned → g.far < 2 ^ 57 → g.list + 4 * g.count ≤ 0x180000 →
      CopyIssues s t i false out ((List.range g.count).map fun j =>
        cpyRun (g.far + (memWord m (g.list + 4 * j)).toNat * g.stride) (g.near + j * g.rowb) out (g.nsp == 1) g.rowb))) ∧
  (∀ (s : State) (t : Nat) (d : Byte), s.cur = .team t →
    let x := s.team t
    Completes s t (.seal d) (s.putTeam t { x with regs := wrS x.regs d x.deps.next, deps := x.deps.seal }) ∧
    x.deps.seal.next = (if x.deps.next = 0xFFFFFFFF then 1 else x.deps.next + 1) ∧ (∀ b, x.deps.seal.batches.getLast? = some b → b.closed = true)) ∧
  (∀ (x : Tensor) p, x.misaligned true p = none ↔ x.src % 4 = 0 ∧ x.dst % 4 = 0 ∧ ∀ v ∈ x.sstr ++ x.dstr, v % 4 = 0) ∧
  (∀ l : List Seg, (∀ p ∈ piecesOf l, segBytes p ≤ 65536) ∧ ((piecesOf l).map segBytes).sum = segBytes l)

/-- COPY_PIECE_TAKE hands the next piece of the core's first copy to a free Shuttle; a transfer that starts takes the port with
the fewest bytes in flight; LAST_SOURCE_BYTE_READ fixes the source bytes and frees the source lock; TRANSFER_COMPLETE writes
the bytes, frees the locks and tells the barrier, the copy or the Shuttle; bytes that leave the module are first sent by their
ports, which hold them until the acknowledgement and serve the reads that pass through them, of one write's bytes for a place the last; acknowledgements keep the order
of sending. a word
that a port holds an addition to is added to at its home, and what the home found answers the host. An event message is numbered,
entered in the log, and sent once the messages of its function before it are acknowledged. A Shuttle's accesses to one word,
reads among them, keep their order, as the reads of one team's copies do, and its reads come before its later writes, accesses of die
scratch that have still to act among them (log 102); the ports are the model's reading of R365 (log 103), as are that all source
bytes are read in one step (log 32) and when a copy leaves its queue (log 33). -/
def Obligations.TransferSteps : Prop :=
  (∀ (s : State) c q y p r, takesPiece s s.ev.id s.ev.n = true → (s.harness s.ev.id).copyq = c :: q →
    (s.copies.find? fun z => z.id == c) = some y → y.pieces = p :: r →
    let u : State := { s with copies := s.copies.map fun z => if z.id = c then { z with pieces := r, flying := z.flying + 1 } else z }
    let u := if r = [] then u.putHarness s.ev.id { s.harness s.ev.id with copyq := q } else u
    exec .copyPieceTake s = .next (startTransfer u.fresh
      { id := s.nextId, h := s.ev.id, shuttle := s.ev.n, segs := p, add := y.add, ordered := y.ordered, barrier := none
        copy := some c, data := none, reg := none, word := none })) ∧
  (∀ (s : State) (x : Transfer), x.data = none →
    let y := { x with run := (s.shuttle x.h x.shuttle).run, port := freestPort s }
    startTransfer s x =
      (({ s with transfers := s.transfers ++ [y] } : State).post .lastSourceByteRead { id := x.id }).post .transferComplete { id := x.id }) ∧
  (∀ (s : State) k, k < 8 → portBytes s (freestPort s) ≤ portBytes s k ∧
    (k < freestPort s → portBytes s (freestPort s) < portBytes s k)) ∧
  (∀ (s : State) x, (s.transfers.find? fun y => y.id == s.ev.id && y.data.isNone && !readWaits s y) = some x → x.copy = none →
    exec .lastSourceByteRead s = .next (freeLocks { s with
      transfers := s.transfers.map fun y => if y.id = x.id then { y with data := some (readSegs s x) } else y } x.h x.id false)) ∧
  (∀ (s : State) (x : Transfer), readSegs s x = x.segs.flatMap fun g => portRead s (dieOf (s.harness x.h).core) x.port g.src g.len) ∧
  (∀ (s : State) (die port : Nat) (l : Loc) (n : Nat),
    (portAt die port l = none → portRead s die port l n = s.locBytes l n) ∧
    (∀ k j, portAt die port (l.add j) = some k → j < n →
      let p := l.add j
      let through := fun y : HeldWrite => portAt y.die y.port p = some k ∧ y.byteAt p ≠ none
      ((∀ y ∈ heldWrites s, ¬ through y) → (portRead s die port l n)[j]? = some ((s.locBytes p 1).getD 0 0)) ∧
      (∀ y ∈ heldWrites s, through y → (∀ z ∈ heldWrites s, z ≠ y → through z → z.order < y.order) →
        (portRead s die port l n)[j]? = y.byteAt p))) ∧
  (∀ (s : State) (y : HeldWrite), sentBefore s y = true ↔ ∃ z ∈ heldWrites s, z.order < y.order ∧ ∃ g ∈ z.segs, ∃ k ∈ y.segs,
    meets g.dst g.len k.dst k.len = true ∧ portAt z.die z.port k.dst = portAt y.die y.port k.dst) ∧
  (∀ (s : State) (x y : Transfer), y ∈ s.transfers → y.id < x.id → y.h = x.h → y.shuttle = x.shuttle → x.copy = none → y.copy = none →
    (x.reg = none → y.data = none → heldBack s x = true) ∧
    ((∃ g ∈ y.segs, ∃ k ∈ x.segs, meets k.dst k.len g.dst g.len = true) → x.reg = none → y.sent = none → heldBack s x = true) ∧
    ((∃ g ∈ y.segs, ∃ k ∈ x.segs, meets k.src k.len g.dst g.len = true) → y.sent = none → readWaits s x = true) ∧
    ((∃ g ∈ y.segs, ∃ k ∈ x.segs, meets k.src k.len g.src g.len = true ∧ g.src.isHost = false) → y.data = none → readWaits s x = true)) ∧
  (∀ (s : State) (x y : Transfer), y ∈ s.transfers → y.id < x.id → x.copy ≠ none → y.copy ≠ none → s.copyTeam x.copy = s.copyTeam y.copy →
    (∃ g ∈ y.segs, ∃ k ∈ x.segs, meets k.src k.len g.src g.len = true ∧ g.src.isHost = false) → y.data = none → readWaits s x = true) ∧
  (∀ (s : State) x, (s.transfers.find? fun y => y.id == s.ev.id) = some x →
    (x.data = none → exec .transferComplete s = .next s) ∧
    (∀ bs, x.data = some bs →
      (x.sent = none → heldBack s x = true → exec .transferComplete s = .next s) ∧
      (∀ y, x.held s = some y → sentBefore s y = true → exec .transferComplete s = .next s) ∧
      (x.sent = none → heldBack s x = false → x.leaves s = true →
        let ts := s.transfers.map fun y => if y.id = x.id then { y with sent := some s.nextId } else y
        exec .transferComplete s = .next (({ s with nextId := s.nextId + 1, transfers := ts } : State).post .transferComplete { id := x.id })) ∧
      (((∃ y, x.held s = some y ∧ sentBefore s y = false) ∨ (x.sent = none ∧ heldBack s x = false ∧ x.leaves s = false)) →
        let u := if x.applied then s else writeSegs x.add s x.segs bs
        let u : State := { u with transfers := u.transfers.filter fun y => y.id != x.id }
        let u := u.putHarness x.h { u.harness x.h with moved := (u.harness x.h).moved + BitVec.ofNat 64 (segBytes x.segs) }
        let u := match x.barrier with
          | some b => slotUpdate u x.h b false (-(segBytes x.segs : Int)) none
          | none => u
        (x.copy = none → exec .transferComplete s =
          .next (dropHolder (shuttleDone (freeLocks (freeLocks u x.h x.id true) x.h x.id false) x bs) x.id)) ∧
        (∀ c, x.copy = some c → exec .transferComplete s =
          .next (if (pieceDone u c).copies.any (·.id == c) then pieceDone u c else dropHolder (pieceDone u c) c))))) ∧
  (∀ (s : State) w, (s.transfers.find? fun y => y.id == s.ev.id) = none →
    (s.portWrites.find? fun y => y.id == s.ev.id && !sentBefore s y.held) = some w →
    let u : State := { s with portWrites := s.portWrites.filter (·.id != w.id) }
    let found := s.locBytes w.loc 8
    let v := if w.applied then u else match w.add with
      | some n => u.locStore w.loc (leBytes 8 (BitVec.ofNat 64 (leNat found) + n).toNat)
      | none => u.locStore w.loc w.bytes
    exec .transferComplete s = .next (match w.reply, w.event with
      | some (f, off), _ => { v with outbox := v.outbox ++ [.data f off (if w.applied then w.found else found)] }
      | none, some f => match (v.func f).evwait with
        | (a, bs) :: r => sendMessage (v.putFunc f { v.func f with evwait := r }) f a bs
        | [] => v
      | none, none => v)) ∧
  (∀ (s : State) (f ty : Nat) (pay : List Word), (s.func f).state ≠ 2 → pay.length ≤ 6 →
    let x := s.func f
    let bytes := ([BitVec.ofNat 32 ty, x.evtNum] ++ pay ++ List.replicate (6 - pay.length) (0 : Word)).flatMap fun (w : Word) => leBytes 4 w.toNat
    let u := s.putFunc f { x with
      evtNum := x.evtNum + 1, evlog := sset 0 x.evlog (x.evtNum.toNat % 2048) (BitVec.ofNat 256 (leNat bytes)) }
    let out := (∃ w ∈ u.portWrites, w.event = some f) ∨ (u.func f).evwait ≠ []
    (x.evtaddr = 0 → sendEvent s f ty pay = u) ∧
    (x.evtaddr ≠ 0 → ¬ out → sendEvent s f ty pay = sendMessage u f x.evtaddr.toNat bytes) ∧
    (x.evtaddr ≠ 0 → out → sendEvent s f ty pay =
      u.putFunc f { u.func f with evwait := (u.func f).evwait ++ [(x.evtaddr.toNat, bytes)] })) ∧
  (∀ (s : State) (f a : Nat) (bs : List Byte), ∃ w : PortWrite, sendMessage s f a bs = sendWrite s w ∧ w.event = some f ∧ w.loc = .host a ∧
    w.bytes = bs ∧ w.port = freestPort s) ∧
  (∀ (l : Loc) (gs : List Seg) (g : Seg) (bs c : List Byte), bs.length = (gs.map (·.len)).sum → c.length = g.len →
    byteAt l (gs ++ [g]) (bs ++ c) = match l.same g.dst with
      | some (a, b) => if b ≤ a ∧ a < b + g.len then (c.drop (a - b)).head? else byteAt l gs bs
      | none => byteAt l gs bs) ∧
  (∀ (s : State) (x : Transfer) (y : Late), y ∈ s.late → y.acts ≠ [] →
    (x.copy = none ∧ y.party = .shuttle x.h x.shuttle ∧ y.id < x.id) ∨
      (∃ c t, x.copy = some c ∧ s.copyTeam (some c) = some t ∧ y.party = .team t ∧ y.id < c) →
    readWaits s x = true ∧ (x.reg = none → heldBack s x = true)) ∧
  (∀ (s : State) (g : Seg) bs a, s.wf = true → g.dst = .hbm a → bs.length = g.len →
    (writeSegs false s [g] bs).locBytes g.dst g.len = bs ∧
    ∀ p, (∀ b, p = Loc.hbm b → b < a ∨ a + g.len ≤ b) → (writeSegs false s [g] bs).byteAt p = s.byteAt p)

/-- SHRUN checks its number, alignment and ranges, then starts the program when the Shuttle is free and another one stays
free, or waits for SHUTTLE_PROGRAM_START; its first instruction waits for the accesses of the team that have still to act; SHSTAT reads a word of a Shuttle's state; SHSTOP clears it, STATE 0 once
nothing is in flight. The order of SHRUN's checks is the model's reading (log 37). -/
def Sys2Proof.Claims.ShuttlePrograms : Prop :=
  (∀ (s : State) (t : Nat) (d a b : Byte), s.cur = .team t →
    let x := s.team t
    let h := x.info.harness
    let n := (rd x.view d 0).toNat
    let pc := rd x.view a 0
    let p := rd x.view b 0
    let i := Instr.shrun d a b
    let new := x.path.dep ≠ some .met
    (¬ new → Completes s t i s) ∧
    (new → 3 < n → Illegal s t i) ∧
    (new → n ≤ 3 → p.toNat % 4 ≠ 0 → Faults s t i 0x03 p 0) ∧
    (new → n ≤ 3 → p.toNat % 4 = 0 → codeWords (s.launchOf t) ≤ pc.toNat → Faults s t i 0x04 pc 0) ∧
    (new → n ≤ 3 → p.toNat % 4 = 0 → pc.toNat < codeWords (s.launchOf t) → 0x180000 ≤ p.toNat → Faults s t i 0x04 p 0) ∧
    (new → n ≤ 3 → p.toNat % 4 = 0 → pc.toNat < codeWords (s.launchOf t) → p.toNat < 0x180000 →
      (canStart s h n = true → Completes s t i (startShuttle s h n t pc.toNat p)) ∧
      (canStart s h n = false → Waits s t i (.start n pc.toNat p)))) ∧
  (∀ (s : State) (h n t pc : Nat) (p : Word), h < s.harnesses.length → n < (s.harness h).shuttles.length →
    let y := (startShuttle s h n t pc p).shuttle h n
    y.state = 1 ∧ y.pc = pc ∧ getS y.regs 0 = p ∧ getS y.regs 1 = w32 ((s.team t).info.role * 256 + (s.team t).info.tid) ∧
    (∀ k, 2 ≤ k → getS y.regs k = 0) ∧ (∀ k, k < 4 → y.cursors.getD k none = none) ∧ y.starter = some t ∧
    ∀ j, j ∈ y.fence ↔ ∃ z ∈ s.late, z.party = .team t ∧ z.acts ≠ [] ∧ z.id = j) ∧
  (∀ (s : State) n pc p, ((s.team s.ev.team).flow.paths.getD s.ev.path none).bind (·.dep) = some (.start n pc p) →
    let h := (s.team s.ev.team).info.harness
    exec .shuttleProgramStart s = .next (if canStart s h n && coreRuns s h
      then wake (startShuttle s h n s.ev.team pc p) s.ev.team s.ev.path .met else s)) ∧
  (∀ (s : State) (t : Nat) (d a : Byte), s.cur = .team t →
    let v := rd (s.team t).view a 0
    let ok := v.extractLsb' 10 22 = 0 ∧ v.extractLsb' 2 6 = 0
    (¬ ok → Illegal s t (.shstat d a)) ∧
    (ok → Completes s t (.shstat d a) (withRegs s t
      (wrS (s.team t).regs d (shuttleWord s (s.team t).info.harness (v.toNat % 4) (v.extractLsb' 8 2).toNat))))) ∧
  (∀ (s : State) (t : Nat) (a : Byte), s.cur = .team t →
    let v := (rd (s.team t).view a 0).toNat
    let h := (s.team t).info.harness
    (3 < v → Illegal s t (.shstop a)) ∧ (v ≤ 3 → Completes s t (.shstop a) (stopShuttle s h v)) ∧
    (v ≤ 3 → (s.shuttle h v).state = 0 →
      let f := (s.launch (s.harness h).launch).f
      stopShuttle s h v = s.putFunc f { s.func f with puts := (s.func f).puts.filter fun p => p.who != .shuttle h v }) ∧
    (v ≤ 3 → h < s.harnesses.length → v < (s.harness h).shuttles.length → (s.shuttle h v).state = 1 →
      ((stopShuttle s h v).shuttle h v).state = (if flights s h v = 0 then 0 else 4) ∧ ((stopShuttle s h v).shuttle h v).regs = {}))

/-! ## The instructions of Shuttle programs -/

namespace Sys2Proof.Claims
open Sys2Proof.Machine

/-- `i` of a Shuttle has the fault of a cause; it is illegal; it waits, its STATE 2 or as it was. -/
def ShFaults (s : State) (h n : Nat) (i : Instr) (cause : Byte) (lo hi : Word) : Prop :=
  ∀ r, needs s i = some r → s.ShPasses h n r → exec i s = .next (shuttleFault s h n cause lo hi)
def ShIllegal (s : State) (h n : Nat) (i : Instr) : Prop := ShFaults s h n i 0x01 ((encode i).getD 0) 0
def ShWaits (s : State) (h n : Nat) (i : Instr) (u : State) : Prop :=
  ∀ r, needs s i = some r → s.ShPasses h n r → exec i s = .next u

/-- A Shuttle in STATE 2 (R256). -/
def paused (s : State) (h n : Nat) : State := s.putShuttle h n { s.shuttle h n with state := 2 }

/-- The room that R246 leaves a Shuttle for one more transfer of `k` bytes with `m` more locks. -/
def Room (u : State) (h n k m : Nat) : Prop :=
  flights u h n < 16 ∧ flightBytes u h n + k ≤ 65536 ∧ (u.harness h).locks.length + m ≤ 64

/-- How a transfer of a Shuttle whose operands have passed goes on: ranges, live slots, pages, room; then it is in flight. The
place of the live slots between ranges and pages is the model's (log 35). -/
def TransferIssues (s : State) (h n : Nat) (i : Instr) (add : Bool) (barrier : Option Nat) (runs : List Run) : Prop :=
  let f := s.curFn
  FaultsBy s i (rangeFault s f runs) ∧
  (rangeFault s f runs = none → FaultsBy s i (liveFault (s.harness h) runs)) ∧
  (rangeFault s f runs = none → liveFault (s.harness h) runs = none →
    let q := resolveRuns (.shuttle h n) f h add s runs
    let u := q.1
    let hh := u.harness h
    let locks := lockEntries u.nextId (some n) q.2.segs
    PageFaults s i u q.2.chk ∧
    (q.2.chk = .ok → ¬ Room u h n (segBytes q.2.segs) locks.length → ShWaits s h n i u) ∧
    (q.2.chk = .ok → Room u h n (segBytes q.2.segs) locks.length →
      ShCompletes s h n i (startTransfer (u.fresh.putHarness h { hh with locks := hh.locks ++ locks })
        { id := u.nextId, h := h, shuttle := n, segs := q.2.segs, add := add, barrier := barrier, copy := none
          data := none, reg := none, word := none, pages := q.2.pages })))

/-- The barrier that operand B names, none for zero; it is aligned and in range. -/
def BarrierOk (w : View) (b : Byte) : Prop := ∀ x, barrierOf w b = some x → x % 16 = 0 ∧ x < 0x180000

end Sys2Proof.Claims

/-- TLD, TST and TADD move the run of a cursor to or from shared memory; TGAT and TSCA move the rows of a list; TZERO writes zeros:
an empty cursor is illegal, misaligned and outlying operands fault, and a transfer with room is issued. The order of these
checks, the barrier before the ranges, is the model's (log 35). -/
def Sys2Proof.Claims.CursorTransfers : Prop :=
  (∀ (s : State) (h n : Nat) (d a b : Byte) (i : Instr) (toShared add : Bool), s.cur = .shuttle h n →
    (i, toShared, add) ∈ [(Instr.tld d a b, true, false), (Instr.tst d a b, false, false), (Instr.tadd d a b, false, true)] →
    let w := (s.shuttle h n).view
    let p := (rd w d 0).toNat
    ((s.shuttle h n).cursors.getD (a.toNat - 0xF0) none = none → ShIllegal s h n i) ∧
    (∀ c, (s.shuttle h n).cursors.getD (a.toNat - 0xF0) none = some c →
      (p % 4 ≠ 0 → ShFaults s h n i 0x03 (w32 p) 0) ∧
      (∀ x, p % 4 = 0 → barrierOf w b = some x → x % 16 ≠ 0 → ShFaults s h n i 0x03 (w32 x) 0) ∧
      (∀ x, p % 4 = 0 → barrierOf w b = some x → x % 16 = 0 → 0x180000 ≤ x → ShFaults s h n i 0x04 (w32 x) 0) ∧
      (p % 4 = 0 → BarrierOk w b → TransferIssues s h n i add (barrierOf w b)
        [if toShared then ⟨spaceOf c.space, c.addr, .shared, p, c.run⟩ else ⟨.shared, p, spaceOf c.space, c.addr, c.run⟩]))) ∧
  (∀ (s : State) (h n : Nat) (d a b : Byte) (i : Instr) (toShared : Bool), s.cur = .shuttle h n →
    (i, toShared) ∈ [(Instr.tgat d a b, true), (Instr.tsca d a b, false)] →
    let w := (s.shuttle h n).view
    let p := (rd w d 0).toNat
    let list := (rdS w b 0).toNat
    let k := (rdS w b 1).toNat
    let bar := (rdS w b 2).toNat
    ((s.shuttle h n).cursors.getD (a.toNat - 0xF0) none = none → ShIllegal s h n i) ∧
    ∀ c, (s.shuttle h n).cursors.getD (a.toNat - 0xF0) none = some c →
      let aligned := p % 4 = 0 ∧ list % 4 = 0 ∧ bar % 16 = 0
      let sized := 1 ≤ k ∧ k * c.run ≤ 65536 ∧ list + 4 * k ≤ 0x180000 ∧ bar < 0x180000
      let ix := fun j => memWord (s.harness h).shared (list + 4 * j)
      let runs := (List.range k).map fun j =>
        cursorRun c toShared (p + j * c.run) (c.addr + (ix j).toNat * c.str.getD 0 0)
      (c.ndim < 2 → ShIllegal s h n i) ∧
      (2 ≤ c.ndim → ¬ aligned → ∃ x, ShFaults s h n i 0x03 x 0) ∧
      (2 ≤ c.ndim → aligned → ¬ sized → ∃ x, ShFaults s h n i 0x04 x 0) ∧
      (∀ j, 2 ≤ c.ndim → aligned → sized → j < k → c.cnt.getD 0 0 ≤ (ix j).toNat →
        (∀ g, g < j → (ix g).toNat < c.cnt.getD 0 0) → ShFaults s h n i 0x04 (ix j) 0) ∧
      (2 ≤ c.ndim → aligned → sized → (∀ j, j < k → (ix j).toNat < c.cnt.getD 0 0) →
        TransferIssues s h n i false (some bar) runs)) ∧
  (∀ (s : State) (h n : Nat) (d a b : Byte), s.cur = .shuttle h n →
    let w := (s.shuttle h n).view
    let p := (rd w d 0).toNat
    let k := (rd w a 0).toNat
    let i := Instr.tzero d a b
    let hh := s.harness h
    let seg : Seg := ⟨.zero, .shared h p, k⟩
    let aligned := p % 4 = 0 ∧ k % 4 = 0
    (¬ aligned → ∃ x, ShFaults s h n i 0x03 x 0) ∧
    (aligned → BarrierOk w b →
      ((k < 4 ∨ 65536 < k) → ShFaults s h n i 0x04 (w32 k) 0) ∧
      (4 ≤ k → k ≤ 65536 → 0x180000 < p + k → ShFaults s h n i 0x04 (w32 p) 0) ∧
      (4 ≤ k → k ≤ 65536 → p + k ≤ 0x180000 → liveHit hh p k = true → ShFaults s h n i 0x06 (w32 p) 0) ∧
      (4 ≤ k → k ≤ 65536 → p + k ≤ 0x180000 → liveHit hh p k = false →
        (¬ Room s h n k 1 → ShWaits s h n i s) ∧
        (Room s h n k 1 → ShCompletes s h n i (startTransfer (s.fresh.putHarness h
          { hh with locks := hh.locks ++ [{ id := s.nextId, lo := p, hi := p + k, dest := true, shuttle := some n }] })
          { id := s.nextId, h := h, shuttle := n, segs := [seg], add := false, barrier := barrierOf w b, copy := none
            data := none, reg := none, word := none })))))

/-- XLD and XST: an address in a pair plus B, aligned and below 2^57, its page checked; then a transfer of one word is in
flight, XLD's register marked. Operand zero as the constant 0 (log 39) and the step that reads the word (log 32) are
the model's readings. -/
def Sys2Proof.Claims.FarWords : Prop :=
  ∀ (s : State) (h n : Nat) (d a b : Byte) (store : Bool), s.cur = .shuttle h n →
    let w := (s.shuttle h n).view
    let i := if store then Instr.xst d a b else Instr.xld d a b
    let va := (rdS w a 1 ++ rdS w a 0).toNat + (rd w b 0).toNat
    let q := resolve s (.shuttle h n) s.curFn (if store then .write else .read) va 4
    let u := q.1
    let p := (q.2.locs.head?.map (·.1)).getD .zero
    (va % 4 ≠ 0 → ShFaults s h n i 0x03 (w32 va) 0) ∧
    (va % 4 = 0 → 2 ^ 57 ≤ va → ShFaults s h n i 0x04 (w32 va) 0) ∧
    (va % 4 = 0 → va < 2 ^ 57 → PageFaults s i u q.2.chk) ∧
    (va % 4 = 0 → va < 2 ^ 57 → q.2.chk = .ok → flightRoom u h n 4 = false → ShWaits s h n i u) ∧
    (va % 4 = 0 → va < 2 ^ 57 → q.2.chk = .ok → flightRoom u h n 4 = true →
      let x : Transfer :=
        { id := u.nextId, h := h, shuttle := n, segs := [if store then ⟨.zero, p, 4⟩ else ⟨p, .zero, 4⟩], add := false
          barrier := none, copy := none, data := if store then some (leBytes 4 (rd w d 0).toNat) else none
          reg := if store then none else some (d, 0), word := if store then some (rd w d 0) else none, pages := q.2.pages }
      let v := if store then u.fresh else
        u.fresh.putShuttle h n { u.shuttle h n with marks := (u.shuttle h n).marks ++ marksFor (u.shuttle h n).pc u.nextId [d] }
      ShCompletes s h n i (startTransfer v x))

/-- TCUR sets a cursor from a descriptor; TSTEP steps it from dimension B and sets its predicate when it wraps; LPSET starts a loop,
or with a count of 0 goes past it; LPEND goes back while the count is above 1, and is illegal without an active loop. -/
def Sys2Proof.Claims.CursorsAndLoops : Prop :=
  ∀ (s : State) (h n : Nat), s.cur = .shuttle h n →
    let x := s.shuttle h n
    let w := x.view
    (∀ d a, let p := (rd w a 0).toNat; let g := readTensor (s.harness h).shared p;
      let ok := g.ok false = true ∧ g.ssp ≠ 0 ∧ g.run ≤ 65536
      FaultsBy s (.tcur d a) (descFault p 64 64) ∧
      (descFault p 64 64 = none → ¬ ok → ShIllegal s h n (.tcur d a)) ∧
      (∀ v, descFault p 64 64 = none → ok → g.misaligned false p = some v → ShFaults s h n (.tcur d a) 0x03 (w32 v) 0) ∧
      (descFault p 64 64 = none → ok → g.misaligned false p = none →
        ShCompletes s h n (.tcur d a) (s.putShuttle h n { x with cursors := x.cursors.set (d.toNat - 0xF0) (some
          { space := g.ssp, src := g.src, run := g.run, ndim := g.ndim, cnt := g.cnt, str := g.sstr, idx := [0, 0, 0, 0]
            addr := g.src }) }))) ∧
    (∀ d a b, (x.cursors.getD (a.toNat - 0xF0) none = none → ShIllegal s h n (.tstep d a b)) ∧
      (∀ c, x.cursors.getD (a.toNat - 0xF0) none = some c →
        ((b = 0 ∨ c.ndim ≤ b.toNat) → ShIllegal s h n (.tstep d a b)) ∧
        (1 ≤ b.toNat → b.toNat < c.ndim →
          let e := stepCursor c 4 b.toNat
          ShCompletes s h n (.tstep d a b) (s.putShuttle h n { x with
            cursors := x.cursors.set (a.toNat - 0xF0) (some e.1), regs := wrQ w d fun _ => e.2 })))) ∧
    (∀ d a b, let v := rd w a 0;
      (v ≠ 0 → ShCompletes s h n (.lpset d a b)
        (s.putShuttle h n { x with loops := x.loops.set d.toNat { count := v, start := x.pc + 1, active := true } })) ∧
      (v = 0 → x.pc + 1 + b.toNat < codeWords (s.launch (s.harness h).launch) → ShMoves s h n (.lpset d a b) s (x.pc + 1 + b.toNat))) ∧
    (∀ d, let l := x.loops.getD d.toNat {}
      (l.active = false → ShIllegal s h n (.lpend d)) ∧
      (l.active = true → l.count = 1 → ShCompletes s h n (.lpend d)
        (s.putShuttle h n { x with loops := x.loops.set d.toNat { l with count := 0, active := false } })) ∧
      (l.active = true → l.count ≠ 1 → l.start < codeWords (s.launch (s.harness h).launch) → ShMoves s h n (.lpend d)
        (s.putShuttle h n { x with loops := x.loops.set d.toNat { l with count := l.count - 1 } }) l.start))

/-- ARRIVE, SHWAIT, SHPOST and SHEND: each waits for the Shuttle's own operations, then ARRIVE updates its slot, SHPOST puts its eight
words or takes its place among the mailbox's waiting puts, which ends when the put is done, and SHEND leaves the Shuttle in
STATE 0. -/
def Sys2Proof.Claims.ShuttleEnds : Prop :=
  ∀ (s : State) (h n : Nat), s.cur = .shuttle h n →
    let x := s.shuttle h n
    let w := x.view
    (∀ d a, let slot := (rd w d 0).toNat;
      let busy := x.accesses ≠ 0 ∨ (inFlight s h n).any (fun y => y.word.isSome) = true
      FaultsBy s (.arrive d a) (slotFault s false slot) ∧
      (slotFault s false slot = none → busy → ShWaits s h n (.arrive d a) s) ∧
      (slotFault s false slot = none → ¬ busy →
        ShCompletes s h n (.arrive d a) (slotUpdate s h slot true (-((rd w a 0).toNat : Int)) none))) ∧
    (∀ d, (d.toNat < flights s h n → ShWaits s h n (.shwait d) (paused s h n)) ∧
      (flights s h n ≤ d.toNat → ShCompletes s h n (.shwait d) s)) ∧
    (∀ d a, let m := (rd w a 0).toNat;
      let busy := flights s h n ≠ 0 ∨ x.accesses ≠ 0
      (65536 ≤ m → ShIllegal s h n (.shpost d a)) ∧
      (m < 65536 → busy → ShWaits s h n (.shpost d a) s) ∧
      let msg := (List.range 8).map (rdS w d)
      (m < 65536 → ¬ busy → x.posted = true → ShCompletes s h n (.shpost d a) (s.putShuttle h n { x with posted := false })) ∧
      (m < 65536 → ¬ busy → x.posted = false → putWaits s s.curFn m = true →
        ShWaits s h n (.shpost d a) (paused (joinPuts s s.curFn m (.shuttle h n) msg) h n)) ∧
      (m < 65536 → ¬ busy → x.posted = false → putWaits s s.curFn m = false →
        ShCompletes s h n (.shpost d a) (mboxPut s s.curFn m msg))) ∧
    (flights s h n ≠ 0 → ShWaits s h n .shend (paused s h n)) ∧
    (flights s h n = 0 → ShWaits s h n .shend (s.putShuttle h n { x with state := 0 }))

/-! ## Barriers and graded values -/

namespace Sys2Proof.Claims
open Sys2Proof.Machine

/-- A count of completed phases is ahead of an epoch by 1 to 32,767, modulo 65,536. -/
def Ahead (done e : Nat) : Prop := ∃ k, 1 ≤ k ∧ k ≤ 32767 ∧ (e + k) % 65536 = done % 65536

/-- The slot of a barrier instruction: the word of operand A. -/
def slotArg (s : State) (t : Nat) (a : Byte) : Nat := (rd (s.team t).view a 0).toNat

/-- The effect of a read of a register, in flight until its LOAD_RETURN. -/
def readInto (s : State) (t : Nat) (r : RegFile) (regs : List Byte) : State := startOp (withRegs s t r) .load regs

/-- The flight of a graded instruction of the party whose turn it is, with its range lock, in the state `u` after the batch is
joined; `l0` is the state before. -/
def gradedStart (u : State) (lock : Lock) (x : GradedFlight) (ev : Instr) : State :=
  let h := x.h
  let v := u.fresh.putHarness h { u.harness h with locks := (u.harness h).locks ++ [lock] }
  { v with graded := v.graded ++ [x] }.post ev { id := x.id }

/-- Party `p` has an access that it issued before number `id` still to act. -/
def LateBefore (s : State) (p : Party) (id : Nat) : Prop :=
  ∃ y ∈ s.late, y.party = p ∧ y.id < id ∧ (y.acts ≠ [] ∨ y.image ≠ none)

/-- A copy of team `t` that it issued before number `id` has bytes to read. -/
def CopyReads (s : State) (t id : Nat) : Prop := ∃ c ∈ s.copies, c.team = t ∧ c.id < id ∧ c.unread ≠ 0

/-- An operation or transfer of number `j` is in flight. -/
def Flying (s : State) (j : Nat) : Prop := (∃ o ∈ s.ops, o.id = j) ∨ ∃ x ∈ s.transfers, x.id = j

/-- The Shuttle of the party whose turn it is, none for a team. -/
def lockOwner (s : State) : Option Nat := match s.cur with | .shuttle _ n => some n | _ => none

end Sys2Proof.Claims

/-- One update of a barrier slot: a graded record opens a new summary or lowers its grade, raises its generation and sets its mask bit;
an arrival lowers PEND, the bytes are added; when both are 0 the phase flips, DONE advances and PEND is EXP again; PHASE is
bit 0 of DONE, and the four words hold the fields. -/
def Obligations.SlotUpdate : Prop :=
  (∀ (x : SlotFields) (a : Bool) (b : Int) (r : Option Rec),
    let y := x.update a b r
    let pend := if a ∧ 0 < x.pend then x.pend - 1 else x.pend
    let bytes := ((x.bytes + b) % 2 ^ 32).toNat
    let flip := pend = 0 ∧ bytes = 0
    y.exp = x.exp ∧ y.bytes = bytes ∧ y.pend = (if flip then x.exp else pend) ∧
    y.done = (if flip then (x.done + 1) % 2 ^ 16 else x.done) ∧
    y.snew = (if flip then true else if r.isSome then false else x.snew) ∧
    (r = none → y.lgrd = x.lgrd ∧ y.hgen = x.hgen ∧ y.mask = x.mask) ∧
    (∀ e, r = some e →
      y.lgrd = min (if x.snew then 3 else x.lgrd) e.grade ∧ y.hgen = max (if x.snew then 0 else x.hgen) e.gen ∧
      (∀ j, j < 32 → y.mask.getLsbD j = ((!x.snew && x.mask.getLsbD j) || j == e.input)))) ∧
  (∀ x : SlotFields, x.exp < 2 ^ 16 → x.pend < 2 ^ 16 → x.bytes < 2 ^ 32 → x.done < 2 ^ 16 → x.hgen < 32 → x.lgrd < 4 →
    ∀ w0 w1 w2 w3, x.words = [w0, w1, w2, w3] →
      SlotFields.read w0 w1 w2 w3 = x ∧ w0 = BitVec.ofNat 16 x.exp ++ BitVec.ofNat 16 x.pend ∧ w2.getLsbD 0 = decide (x.done % 2 = 1)) ∧
  (∀ (s : State) (h slot : Nat) (a : Bool) (b : Int) (r : Option Rec), s.wf = true → h < s.harnesses.length →
    ((s.harness h).isLive slot = false → slotUpdate s h slot a b r = s) ∧
    ((s.harness h).isLive slot = true →
      (∀ p, ¬ Within p (.shared h slot) 16 → (slotUpdate s h slot a b r).byteAt p = s.byteAt p) ∧
      (∀ j w, (((s.harness h).slotAt slot).update a b r).words[j]? = some w → slotWord ((slotUpdate s h slot a b r).harness h) slot j = w)))

/-- BINIT, BARR, BEXP, BWAIT, BTRY, BRET and BGRD: the checks of the slot in their order, and each one's effect; BINIT and BEXP wait for
the reads of die scratch of their path that have still to be fixed (log 102); BARR arrives at once
when no access that a FENCE #3, #1 would order is in flight, else it counts in S, and STORE_PERFORMED makes its arrival and ends it
once they have ended; BWAIT
completes when DONE is ahead of its epoch, else it waits; BRET ends the waits on the slot with the fault, whose TADDR is the slot
waited on. That the
TADDR of BINIT's illegal operands is the slot's address is the model's reading (log 17). -/
def Obligations.BarrierInstructions : Prop :=
  (∀ (s : State) (init : Bool) (slot : Nat),
    let h := s.harness s.curHarness
    let locked := ∃ l ∈ h.locks, slot < l.hi ∧ l.lo < slot + 16
    let r := slotFault s init slot
    (slot % 16 ≠ 0 → r = some (.fault 0x03 (w32 slot) 0)) ∧
    (slot % 16 = 0 → 0x180000 ≤ slot → r = some (.fault 0x04 (w32 slot) 0)) ∧
    (slot % 16 = 0 → slot < 0x180000 → init = true → locked → r = some (.fault 0x05 (w32 slot) 0)) ∧
    (slot % 16 = 0 → slot < 0x180000 → init = true → ¬ locked → h.isLive slot = true → r = some (.fault 0x06 (w32 slot) 0)) ∧
    (slot % 16 = 0 → slot < 0x180000 → init = false → h.isLive slot = false → r = some (.fault 0x04 (w32 slot) 0)) ∧
    (slot % 16 = 0 → slot < 0x180000 → init = true → ¬ locked → h.isLive slot = false → r = none) ∧
    (slot % 16 = 0 → slot < 0x180000 → init = false → h.isLive slot = true → r = none)) ∧
  (∀ (s : State) (o : PendOp) (t h k : Nat), o ∈ s.ops → (∀ q ∈ s.ops, q.id = s.ev.id → q = o) → o.id = s.ev.id → o.kind = .store →
    o.party = .team t → o.slot = some (h, k) → (∀ y ∈ s.late, y.id ≠ o.id) →
    let u := slotUpdate s h k true 0 none
    let x := u.team t
    ((∃ j ∈ o.after, Flying s j) → exec .storePerformed s = .next s) ∧
    ((∀ j ∈ o.after, ¬ Flying s j) → exec .storePerformed s =
      .next (({ u with ops := u.ops.filter fun q => q.id != o.id } : State).putTeam t
        { x with deps := { x.deps with s := x.deps.s - 1, marks := x.deps.marks.filter fun m => m.id != o.id } }))) ∧
  (∀ (h : Harness) (slot e : Nat), epochTest h slot e = true ↔ Ahead ((slotWord h slot 2).toNat / 65536) e) ∧
  (∀ (s : State) (t : Nat), s.cur = .team t →
    let x := s.team t
    let w := x.view
    let h := x.info.harness
    let hh := s.harness h
    let slot := slotArg s t
    (∀ a b, let e := rd w b 0;
      ((e = 0 ∨ 65536 ≤ e.toNat) → Faults s t (.binit a b) 0x01 (rd w a 0) 0) ∧
      (e ≠ 0 → e.toNat < 65536 → FaultsBy s (.binit a b) (slotFault s true (slot a))) ∧
      (e ≠ 0 → e.toNat < 65536 → slotFault s true (slot a) = none → ReadsOwed s x.path.mask → Waits s t (.binit a b) .retry) ∧
      (e ≠ 0 → e.toNat < 65536 → slotFault s true (slot a) = none → ¬ ReadsOwed s x.path.mask → Completes s t (.binit a b) (s.putHarness h
        { hh.putSlot (slot a) { exp := e.toNat, pend := e.toNat, bytes := 0, done := 0, snew := false, hgen := 0, lgrd := 3, mask := 0 }
          with live := sset 0 hh.live (slot a) 1 }))) ∧
    (∀ a b, let i := Instr.bexp a b;
      FaultsBy s i (slotFault s false (slot a)) ∧
      (slotFault s false (slot a) = none → ReadsOwed s x.path.mask → Waits s t i .retry) ∧
      (slotFault s false (slot a) = none → ¬ ReadsOwed s x.path.mask →
        Completes s t i (slotUpdate s h (slot a) false (rd w b 0).toNat none))) ∧
    (∀ a, FaultsBy s (.barr a) (slotFault s false (slot a)) ∧ FaultsBy s (.bret a) (slotFault s false (slot a)) ∧
      (slotFault s false (slot a) = none →
        (∃ ids, (∀ j, j ∈ ids ↔ Ordered s w.mask 1 3 j) ∧
          (ids = [] → Completes s t (.barr a) (slotUpdate s h (slot a) true 0 none)) ∧
          (ids ≠ [] →
            let op : PendOp :=
              { id := s.nextId, party := .team t, kind := .store, pc := x.path.pc, after := ids, slot := some (h, slot a) }
            Completes s t (.barr a) (({ s with nextId := s.nextId + 1, ops := s.ops ++ [op] } : State).putTeam t
              { x with deps := { x.deps with s := x.deps.s + 1 } }))) ∧
        Completes s t (.bret a)
          (endBarrierWaits (s.putHarness h { hh with live := sset 0 hh.live (slot a) 0 }) h (slot a) (fun _ => true) (.lost (slot a))))) ∧
    (∀ a b, let i := Instr.bwait a b; let e := ((rd w b 0).extractLsb' 0 16).toNat;
      let new := x.path.dep ≠ some .met ∧ ∀ k, x.path.dep ≠ some (.lost k)
      (x.path.dep = some .met → Completes s t i s) ∧ (∀ k, x.path.dep = some (.lost k) → Faults s t i 0x04 (w32 k) 0) ∧
      (new → FaultsBy s i (slotFault s false (slot a))) ∧
      (new → slotFault s false (slot a) = none → epochTest hh (slot a) e = true → Completes s t i s) ∧
      (new → slotFault s false (slot a) = none → epochTest hh (slot a) e = false → Waits s t i (.barrier (slot a) e))) ∧
    (∀ d a b, let e := ((rd w b 0).extractLsb' 0 16).toNat;
      FaultsBy s (.btry d a b) (slotFault s false (slot a)) ∧ (slotFault s false (slot a) = none →
        Completes s t (.btry d a b) (withRegs s t (wrS x.regs d (if epochTest hh (slot a) e = true then 1 else 0))))) ∧
    (∀ d a, FaultsBy s (.bgrd d a) (slotFault s false (slot a)) ∧ (slotFault s false (slot a) = none →
      Completes s t (.bgrd d a) (withRegs s t
        (wrS (wrS x.regs d (((slotWord hh (slot a) 2).extractLsb' 1 8).setWidth 32)) (d + 1) (slotWord hh (slot a) 3))))))

/-- What a graded write does to a cell's tag, by its grade, generation and CONS: GPUT, AMEND and FINAL, their failed checks in order, and
which of them are amendments. -/
def Obligations.GradedTags : Prop :=
  ∀ (g : Nat) (t : Byte), 1 ≤ g → g ≤ 3 →
    let gr := gradeOf t
    let n := genOf t
    let c := consOf t
    (t = mkTag c n gr) ∧
    (gr = 3 → planTag .gput g t = .error 0x21) ∧
    (gr ≠ 3 → g < gr → planTag .gput g t = .error 0x20) ∧
    (gr ≠ 3 → gr ≤ g → 0 < gr → c = true → n = 31 → planTag .gput g t = .error 0x22) ∧
    (gr = 0 → planTag .gput g t = .ok (mkTag c 0 g, false)) ∧
    (gr ≠ 3 → gr ≤ g → 0 < gr → c = true → n ≠ 31 → planTag .gput g t = .ok (mkTag false (n + 1) g, true)) ∧
    (gr ≠ 3 → gr ≤ g → 0 < gr → c = false → planTag .gput g t = .ok (mkTag false n g, false)) ∧
    (gr = 0 → planTag .amend g t = .error 0x12 ∧ planTag .final g t = .error 0x12) ∧
    (gr = 3 → planTag .amend g t = .error 0x21 ∧ planTag .final g t = .ok (t, false)) ∧
    (gr ≠ 0 → gr ≠ 3 → g < gr → planTag .amend g t = .error 0x20) ∧
    (gr ≠ 0 → gr ≠ 3 → gr ≤ g → n = 31 → planTag .amend g t = .error 0x22) ∧
    (gr ≠ 0 → gr ≠ 3 → gr ≤ g → n ≠ 31 → planTag .amend g t = .ok (mkTag false (n + 1) g, true)) ∧
    (gr ≠ 0 → gr ≠ 3 → c = true → n = 31 → planTag .final g t = .error 0x22) ∧
    (gr ≠ 0 → gr ≠ 3 → c = true → n ≠ 31 → planTag .final g t = .ok (mkTag false (n + 1) 3, true)) ∧
    (gr ≠ 0 → gr ≠ 3 → c = false → planTag .final g t = .ok (mkTag false n 3, false))

/-- A graded descriptor's checks: reserved fields and the fields its instruction does not use, the region and the cells,
the shared range with its locks and live slots. The single check of the shared range (log 40) and the TADDR of a range
error (log 43) are the model's readings. -/
def Sys2Proof.Claims.GradedDescriptors : Prop :=
  (∀ (i : Instr) (s : State) (u : GUse) (g : GDesc),
    let l := s.launch s.curLaunch
    let ok := g.word.extractLsb' 21 11 = 0 ∧ g.word.extractLsb' 8 8 = 0 ∧ (u.input = true ∨ g.input = 0) ∧
      (u.grade = true ↔ g.grade ≠ 0) ∧ (u.sh = true ∨ g.sh = 0)
    let fits := ∃ r, l.regions[g.reg]? = some r ∧ 1 ≤ g.count ∧ g.count ≤ u.most ∧ g.first + g.count ≤ r.cells
    (¬ ok → descRange i s u g = some (illegal i s)) ∧
    (ok → ¬ fits → descRange i s u g = some (.fault 0x04 (w32 g.first) (w32 g.reg))) ∧
    (ok → fits → descRange i s u g = none)) ∧
  (∀ (s : State) (write : Bool) (g : GDesc),
    let h := s.harness s.curHarness
    let n := 256 * g.count
    let lock := ∃ k ∈ h.locks, Foreign s k ∧ Overlaps k g.sh n ∧ (k.dest = true ∨ write = true)
    let own := ∃ k ∈ h.locks, ¬ Foreign s k ∧ Overlaps k g.sh n
    let r := descShared s write g
    (g.sh % 4 ≠ 0 → r = some (.fault 0x03 (w32 g.sh) 0)) ∧
    (g.sh % 4 = 0 → 0x180000 < g.sh + n → r = some (.fault 0x04 (w32 g.sh) 0)) ∧
    (g.sh % 4 = 0 → g.sh + n ≤ 0x180000 → lock → r = some (.fault 0x05 (w32 g.sh) 0)) ∧
    (g.sh % 4 = 0 → g.sh + n ≤ 0x180000 → ¬ lock → own → r = some (.wait (waiting s) .retry)) ∧
    (g.sh % 4 = 0 → g.sh + n ≤ 0x180000 → ¬ lock → ¬ own → write = true → liveHit h g.sh n = true → r = some (.fault 0x06 (w32 g.sh) 0)) ∧
    (g.sh % 4 = 0 → g.sh + n ≤ 0x180000 → ¬ lock → ¬ own → (write = false ∨ liveHit h g.sh n = false) → r = none))

/-- GPUT, AMEND, FINAL and RETIRE, by teams and Shuttles: the descriptor, its pages, the cells not reserved by another
write, the tag checks with the failing cell; then GPUT and AMEND are in flight until GRADED_WRITE_COMPLETE, which sends the cells
that a peer keeps by their port, the source's lock being freed with it, and ends with the peer's acknowledgement (log 103); FINAL changes its tags, RETIRE clears
them. A Shuttle's GPUT, AMEND and FINAL act after its earlier transfers and graded instructions, and any party's after its accesses that
have still to act, a team's after the reads of its copies (R371; log 102). The
permission RETIRE needs (log 42) and the step in which FINAL and RETIRE act (log 76) are the model's readings. -/
def Sys2Proof.Claims.GradedWrites : Prop :=
  ∀ s : State,
    let w := turnView s
    let h := s.curHarness
    let l := s.curLaunch
    (∀ a (amend : Bool),
      let i := if amend then Instr.amend a else Instr.gput a
      let k : GradedKind := if amend then .amend else .gput
      let g := readDesc w a
      let q := descPages s .gwrite g
      let u := q.1
      let cs := cellsOf g.first (cellLocs q.2.locs)
      let busy := cellsBusy u l g.reg g.first g.count
      let bad := planFault u (u.launch l) g.reg k g.grade cs
      let full := 64 ≤ (u.harness h).locks.length ∨ gradedRoom u (256 * g.count) = false
      FaultsBy s i (descRange i s { grade := true, sh := true } g) ∧
      (descRange i s { grade := true, sh := true } g = none → FaultsBy s i (descShared s false g)) ∧
      (descRange i s { grade := true, sh := true } g = none → descShared s false g = none →
        PageFaults s i u q.2.chk ∧
        (q.2.chk = .ok → busy = true → PartyWaits s i u) ∧
        (∀ c, q.2.chk = .ok → busy = false → bad = some c → PartyFaults s i c.1 (w32 c.2) (w32 g.reg)) ∧
        (q.2.chk = .ok → busy = false → bad = none → full → PartyWaits s i u) ∧
        (q.2.chk = .ok → busy = false → bad = none → ¬ full →
          let b := joinGraded u 1
          PartyCompletes s i (gradedStart b.1 { id := u.nextId, lo := g.sh, hi := g.sh + 256 * g.count, dest := false, shuttle := lockOwner u }
            { id := u.nextId, h := h, party := b.1.cur, run := b.1.curRun, team := b.1.curTeam, batch := b.2, kind := some k, launch := l, region := g.reg
              first := g.first, count := g.count, grade := g.grade, hop := teamHop u u.curTeam, data := [], sh := g.sh, slot := 0
              input := 0, lowG := 0, highN := 0, pc := issuePc b.1, locs := cellLocs q.2.locs, pages := q.2.pages }
            .gradedWriteComplete)))) ∧
    (∀ a, let g := readDesc w a; let q := descPages s .gwrite g; let u := q.1;
      let cs := cellsOf g.first (cellLocs q.2.locs)
      let busy := cellsBusy u l g.reg g.first g.count
      let held := gradedRoom u 0 = false ∨ gradedHeld u u.cur u.nextId = true
      FaultsBy s (.final a) (descRange (.final a) s {} g) ∧ FaultsBy s (.retire a) (descRange (.retire a) s {} g) ∧
      (descRange (.final a) s {} g = none →
        PageFaults s (.final a) u q.2.chk ∧
        (q.2.chk = .ok → (busy = true ∨ held) → PartyWaits s (.final a) u) ∧
        (∀ c, q.2.chk = .ok → busy = false → ¬ held → planFault u (u.launch l) g.reg .final 3 cs = some c →
          PartyFaults s (.final a) c.1 (w32 c.2) (w32 g.reg)) ∧
        (q.2.chk = .ok → busy = false → ¬ held → planFault u (u.launch l) g.reg .final 3 cs = none →
          PartyCompletes s (.final a) (applyTags (joinGraded u 0).1 l g.reg .final 3 (teamHop u u.curTeam) cs))) ∧
      (descRange (.retire a) s {} g = none →
        PageFaults s (.retire a) u q.2.chk ∧
        (q.2.chk = .ok → busy = true → PartyWaits s (.retire a) u) ∧
        (q.2.chk = .ok → busy = false → PartyCompletes s (.retire a)
          (cs.foldl (fun v c => putTagAt v (u.launch l).f (cellVa (u.launch l) g.reg c.1) c.2 0) u)))) ∧
    (∀ t id, gradedHeld s (.team t) id = true ↔ LateBefore s (.team t) id ∨ CopyReads s t id) ∧
    (∀ h n id, gradedHeld s (.shuttle h n) id = true ↔ LateBefore s (.shuttle h n) id ∨
      (∃ y ∈ s.transfers, y.id < id ∧ y.h = h ∧ y.shuttle = n ∧ y.copy = none) ∨ ∃ y ∈ s.graded, y.id < id ∧ y.party = .shuttle h n) ∧
    ((s.graded.find? fun y => y.id == s.ev.id) = none → exec .gradedWriteComplete s = .next s) ∧
    (∀ x k, (s.graded.find? fun y => y.id == s.ev.id) = some x → x.kind = some k →
      let cs := cellsOf x.first x.locs
      let data := memBytes (s.harness x.h).shared x.sh (256 * x.count)
      let applied := fun d => applyTags (writeCells s cs d) x.launch x.region k x.grade x.hop cs
      let away := ∃ p ∈ x.locs, portAt (x.die s) 0 p ≠ none
      (x.sent = none → gradedHeld s x.party x.id = true → exec .gradedWriteComplete s = .next s) ∧
      (x.sent = none → gradedHeld s x.party x.id = false → ¬ away → exec .gradedWriteComplete s = .next (endGraded (applied data) x)) ∧
      (x.sent = none → gradedHeld s x.party x.id = false → away →
        let gs := s.graded.map fun y => if y.id = x.id then { y with sent := some s.nextId, data := data } else y
        let v := freeLocks s x.h x.id false
        exec .gradedWriteComplete s = .next (({ v with nextId := s.nextId + 1, graded := gs } : State).post .gradedWriteComplete { id := x.id })) ∧
      (∀ y, x.held s = some y →
        (sentBefore s y = true → exec .gradedWriteComplete s = .next s) ∧
        (sentBefore s y = false → exec .gradedWriteComplete s = .next (endGraded (if x.applied then s else applied x.data) x))))

/-- GGET, GQRY and GWAIT, the landing of a GGET, and a peer's graded write, which wakes an idle module: the descriptor, barrier and pages; a cell
below the grade asked for faults; the snapshot and CONS are taken in one step, and the cells land, each once the reads that its
party issued before are fixed; GQRY answers up to four tags; GWAIT
waits for the grade. Where the barrier is checked (log 41), and the hop count that a peer brings (log 48), are the
model's readings. -/
def Sys2Proof.Claims.GradedReads : Prop :=
  ∀ s : State,
    let w := turnView s
    let h := s.curHarness
    let l := s.curLaunch
    (∀ a b, let i := Instr.gget a b; let g := readDesc w a; let slot := (rd w b 0).toNat; let q := descPages s .gread g;
      let u := q.1; let x := u.launch l; let cs := cellsOf g.first (cellLocs q.2.locs); let tags := tagsOf u x g.reg cs;
      let busy := cellsBusy u l g.reg g.first g.count || readsLeft u u.cur u.nextId
      let low := fun j => j < g.count ∧ gradeOf (tags.getD j 0) < g.grade
      let full := 64 ≤ (u.harness h).locks.length ∨ gradedRoom u (256 * g.count) = false
      let ok := descRange i s { input := true, grade := true, sh := true } g = none ∧ descShared s true g = none ∧
        slotFault s false slot = none
      FaultsBy s i (descRange i s { input := true, grade := true, sh := true } g) ∧
      (descRange i s { input := true, grade := true, sh := true } g = none → FaultsBy s i (descShared s true g)) ∧
      (descRange i s { input := true, grade := true, sh := true } g = none → descShared s true g = none →
        FaultsBy s i (slotFault s false slot)) ∧
      (ok → PageFaults s i u q.2.chk) ∧
      (ok → q.2.chk = .ok → busy = true → PartyWaits s i u) ∧
      (∀ j, ok → q.2.chk = .ok → busy = false → low j → (∀ m, m < j → ¬ low m) →
        PartyFaults s i 0x12 (w32 (g.first + j)) (w32 g.reg)) ∧
      (ok → q.2.chk = .ok → busy = false → (∀ j, ¬ low j) → full → PartyWaits s i u) ∧
      (ok → q.2.chk = .ok → busy = false → (∀ j, ¬ low j) → ¬ full →
        let v := cs.foldl (fun v c => putTagAt v x.f (cellVa x g.reg c.1) c.2
          (mkTag true (genOf (tagAt v x.f (cellVa x g.reg c.1) c.2)) (gradeOf (tagAt v x.f (cellVa x g.reg c.1) c.2)))) u
        let b := joinGraded v 1
        PartyCompletes s i (gradedStart b.1 { id := u.nextId, lo := g.sh, hi := g.sh + 256 * g.count, dest := true, shuttle := lockOwner u }
          { id := u.nextId, h := h, party := b.1.cur, run := b.1.curRun, team := b.1.curTeam, batch := b.2, kind := none, launch := l, region := g.reg
            first := g.first, count := g.count, grade := g.grade, hop := 0, data := cs.flatMap fun c => portRead u (dieOf (u.harness h).core) (freestPort u) c.2 256, sh := g.sh
            slot := slot, input := g.input, lowG := (tags.map gradeOf).foldl min 3, highN := (tags.map genOf).foldl max 0
            pc := issuePc b.1, pages := q.2.pages } .ggetLanding))) ∧
    (∀ p id, readsLeft s p id = true ↔ LateBefore s p id ∨
      (∃ y ∈ s.graded, y.id < id ∧ y.party = p ∧ y.kind ≠ none ∧ y.sent = none) ∨
      (∃ h n, p = .shuttle h n ∧ ∃ y ∈ s.transfers, y.id < id ∧ y.h = h ∧ y.shuttle = n ∧ y.copy = none ∧ y.data = none) ∨
      ∃ t, p = .team t ∧ CopyReads s t id) ∧
    (∀ x ∈ s.graded, (∀ y ∈ s.graded, y.id = s.ev.id → y = x) → readsLeft s x.party x.id = true → exec .ggetLanding s = .next s) ∧
    (∀ x, (s.graded.find? fun y => y.id == s.ev.id && y.kind.isNone) = some x → readsLeft s x.party x.id = false →
      exec .ggetLanding s = .next (slotUpdate (endGraded (s.locStore (.shared x.h x.sh) x.data) x) x.h x.slot true 0
        (some { grade := x.lowG, gen := x.highN, input := x.input }))) ∧
    (∀ d a, let g := readDesc w a; let q := descPages s .gread g; let u := q.1;
      let tags := tagsOf u (u.launch l) g.reg (cellsOf g.first (cellLocs q.2.locs))
      let busy := cellsBusy u l g.reg g.first g.count
      FaultsBy s (.gqry d a) (descRange (.gqry d a) s { most := 4 } g) ∧
      (descRange (.gqry d a) s { most := 4 } g = none →
        PageFaults s (.gqry d a) u q.2.chk ∧ (q.2.chk = .ok → busy = true → PartyWaits s (.gqry d a) u) ∧
        (q.2.chk = .ok → busy = false →
          PartyCompletes s (.gqry d a) (startOp (u.putRegs (wrS w.regs d (w32 (leNat tags)))) .load [d])))) ∧
    (∀ t a, s.cur = .team t → let g := readDesc w a; let q := descPages s .gread g; let u := q.1;
      let tags := tagsOf u (u.launch l) g.reg (cellsOf g.first (cellLocs q.2.locs))
      let busy := cellsBusy u l g.reg g.first g.count
      let there := ∀ x ∈ tags, g.grade ≤ gradeOf x
      FaultsBy s (.gwait a) (descRange (.gwait a) s { grade := true } g) ∧
      (descRange (.gwait a) s { grade := true } g = none →
        PageFaults s (.gwait a) u q.2.chk ∧ (q.2.chk = .ok → busy = true → PartyWaits s (.gwait a) u) ∧
        (q.2.chk = .ok → busy = false → there → Completes s t (.gwait a) u) ∧
        (q.2.chk = .ok → busy = false → ¬ there → ∀ r, needs s (.gwait a) = some r → s.Passes t r →
          exec (.gwait a) s = .next (waitOn u t (.grade g.reg g.first g.count g.grade))))) ∧
    (let va := s.ev.off / 256 * 256
     let q := resolve (wakeModule s) .io s.ev.f .gwrite va (256 * s.ev.n)
     let cs := cellsOf 0 (cellLocs q.2.locs)
     let g := s.ev.v.toNat % 4
     (q.2.chk = .ok → 1 ≤ s.ev.n → 1 ≤ g →
       (∀ c ∈ cs, (∃ r, planTag s.ev.graded g (tagAt q.1 s.ev.f (va + 256 * c.1) c.2) = .ok r) ∧
         ∀ l reg, regionAt q.1 s.ev.f (va + 256 * c.1) = some (l, reg) → cellsBusy q.1 l reg
           ((va + 256 * c.1 - ((q.1.launch l).regions.getD reg { base := 0, cells := 0, clr := false }).base) / 256) 1 = false) →
       exec .peerGradedWrite s = .next (cs.foldl (applyTagVa s.ev.f va s.ev.graded g s.ev.lane)
         (if s.ev.graded = .final then q.1 else writeCells q.1 cs s.ev.bytes))) ∧
     ((q.2.chk ≠ .ok ∨ s.ev.n = 0 ∨ g = 0) → exec .peerGradedWrite s = .next q.1))

/-! ## Tokens, mailboxes and tasks -/

namespace Sys2Proof.Claims
open Sys2Proof.Machine

/-- The launch of team `t` replaced. -/
def withLaunch (s : State) (t : Nat) (l : Launch) : State := s.putLaunch (s.team t).info.launch l

/-- The front end of team `t`'s die with another buffer and other waiters. -/
def withFront (s : State) (t : Nat) (f : FrontEnd) : State :=
  let x := s.launchOf t
  withLaunch s t { x with fronts := x.fronts.set (dieOf (s.team t).info.core) f }

/-- The front end that serves team `t`. -/
def frontEnd (s : State) (t : Nat) : FrontEnd := (s.launchOf t).fronts.getD (dieOf (s.team t).info.core) {}

/-- `r` is the list of what has still to act with what team `t` asks of the Sequencer, 240 cycles from now, put in its place. -/
def AskAdded (s : State) (t : Nat) (k : Ask) (r : List Late) : Prop :=
  let ask : Late :=
    { key := placeIn s (s.time + 240), id := s.nextId, party := .team t, path := s.curPath, cycle := s.time, issued := s.curIssued, ask := some k }
  (∀ y, y ∈ r ↔ y ∈ s.late ∨ y = ask) ∧
    (s.late.Pairwise (fun x y => x.key ≤ y.key) → r.Pairwise fun x y => x.key ≤ y.key)

/-- A sequence number has 24 bits. -/
def SeqOk (v : Word) : Prop := v.toNat < 2 ^ 24

/-- The rows of a batch, those void whose function is in reset. -/
def voided (s : State) (x : BfBatch) : List BfRow :=
  x.rows.map fun r => { r with void := r.void || decide ((s.func (s.launch r.launch).f).state = 2) }

end Sys2Proof.Claims

/-- BFJOIN: a done address aligned and in range; a cancelled sequence answers all ones and loses its pages and egress entries; a full
queue, or an access of the team that has still to act, waits; else the sequence's quarantine ends, its row joins the open batch of its key, and D takes the row and RCL. Batches
whose windows are over close first, in the order of their expiry; then the row joins, a batch of 256 rows closing, or opens
the group's next batch. The TADDR of a bad sequence number is that number (log 36); that it is checked before the done address,
and the address for alignment first, is the model's order (log 117). -/
def Sys2Proof.Claims.BatchJoin : Prop :=
  ∀ (s : State) (t : Nat) (d a : Byte), s.cur = .team t →
    let y := s.team t
    let w := y.view
    let i := Instr.bfjoin d a
    let v := rdS w a 0
    let done := rdS w a 2
    let l := y.info.launch
    let x := s.launch l
    let q := v.toNat
    let ok := SeqOk v ∧ done.toNat % 4 = 0 ∧ inRange s s.curFn true done.toNat = true
    (¬ SeqOk v → Faults s t i 0x04 v 0) ∧
    (SeqOk v → done.toNat % 4 ≠ 0 → Faults s t i 0x03 done 0) ∧
    (SeqOk v → done.toNat % 4 = 0 → inRange s s.curFn true done.toNat = false → Faults s t i 0x04 done 0) ∧
    (ok → q ∈ x.cancelled →
      Completes s t i (readInto (s.putLaunch l (x.dropSeq q)) t (wrS y.regs d 0xFFFFFFFF) [d])) ∧
    (ok → q ∉ x.cancelled → (65536 ≤ bfqRows s ∨ LateBefore s (.team t) s.nextId) → Waits s t i .retry) ∧
    (ok → q ∉ x.cancelled → bfqRows s < 65536 → ¬ LateBefore s (.team t) s.nextId →
      let u := s.putLaunch l { x.thaw q with rcl := (x.thaw q).rcl.filter (· != q) }
      let r := joinRow u (groupOf s l) (rdS w a 1) y.ctl.bfwin.toNat { seq := q, payload := rdS w a 3, done := done.toNat, launch := l }
      Completes s t i (readInto r.1 t (wrS y.regs d (w32 (if x.rcl.contains q then 512 + r.2 else r.2))) [d])) ∧
    (∀ k, (x.dropSeq k).pool = x.pool.map (·.release fun p => p.seq == some k)) ∧
    (∀ b ∈ (closeExpired s).batches, windowOver s b = false) ∧
    ((∀ b ∈ s.batches, windowOver s b = false) → closeExpired s = s) ∧
    (∀ c, firstOver s = some c → c ∈ s.batches ∧ windowOver s c = true ∧
      (∀ b ∈ s.batches, windowOver s b = true → c.opened + c.win ≤ b.opened + b.win) ∧
      closeExpired s = closeOver (s.batches.length - 1) (closeBatch s c.group c.no)) ∧
    (∀ g key win r,
      let u := closeExpired s
      let same := fun b : BfBatch => b.group == g && b.key == key && !b.closed
      let no := (u.batchNos.lookup g).getD 0 + 1
      (u.batches.find? same = none → joinRow s g key win r =
        ({ u with batchNos := (g, no) :: u.batchNos.filter (·.1 != g)
                  batches := u.batches ++ [{ group := g, key := key, no := no, rows := [r], opened := u.time, win := win }] }, 0)) ∧
      (∀ b, u.batches.find? same = some b →
        let v : State := { u with batches := u.batches.map fun z => if z = b then { b with rows := b.rows ++ [r] } else z }
        joinRow s g key win r = (if b.rows.length = 255 then closeBatch v g b.no else v, b.rows.length)))

/-- BFTAKE answers 0 when no closed batch of the key is left, else it takes the first one, writes its row table to shared memory, where
that waits for the reads of die scratch of its path still to be fixed (log 102), and
answers its number and rows, once every batch whose window is over has closed; BFDONE, once no access of
its team has still to act, stores the batch number in the done word of each row that is not void and frees the batch; a batch whose window is over closes. A row is void once its function
is in reset. The TADDR of BFDONE's bad batch number is that number, the model's choice (log 117). -/
def Sys2Proof.Claims.BatchTakeDone : Prop :=
  (∀ (s : State) (t : Nat) (d a b : Byte), s.cur = .team t →
    let w := (s.team t).view
    let i := Instr.bftake d a b
    let key := rd w a 0
    let g := groupOf s (s.team t).info.launch
    let p := (rd w b 0).toNat
    let h := (s.team t).info.harness
    let v := closeExpired s
    let found := v.batches.find? fun x => x.group == g && x.closed && x.taker.isNone && (key == 0xFFFFFFFF || x.key == key)
    (found = none → Completes s t i (readInto v t (wrS (wrS (s.team t).regs d 0) (d + 1) 0) [d, d + 1])) ∧
    (∀ x, found = some x →
      let n := 16 * x.rows.length
      let lock := ∃ k ∈ (s.harness h).locks, Overlaps k p n
      let live := liveHit (s.harness h) p n = true
      (p % 4 ≠ 0 → Faults s t i 0x03 (w32 p) 0) ∧
      (p % 4 = 0 → 0x180000 < p + n → Faults s t i 0x04 (w32 p) 0) ∧
      (p % 4 = 0 → p + n ≤ 0x180000 → lock → Faults s t i 0x05 (w32 p) 0) ∧
      (p % 4 = 0 → p + n ≤ 0x180000 → ¬ lock → live → Faults s t i 0x06 (w32 p) 0) ∧
      (p % 4 = 0 → p + n ≤ 0x180000 → ¬ lock → ¬ live → ReadsOwed s (s.team t).path.mask → PartyWaits s i v) ∧
      (p % 4 = 0 → p + n ≤ 0x180000 → ¬ lock → ¬ live → ¬ ReadsOwed s (s.team t).path.mask →
        let y := { x with taker := some (t, h, p), rows := voided v x }
        let u := v.locStore (.shared h p) (rowTable y)
        Completes s t i (readInto { u with batches := u.batches.map fun z => if z = x then y else z }
          t (wrS (wrS (s.team t).regs d x.no) (d + 1) (w32 x.rows.length)) [d, d + 1])))) ∧
  (∀ (s : State) (t : Nat) (a : Byte), s.cur = .team t →
    let no := rd (s.team t).view a 0
    let mine := fun x : BfBatch => x.no == no && (match x.taker with | some k => k.1 == t | none => false)
    (s.batches.find? mine = none → Faults s t (.bfdone a) 0x04 no 0) ∧
    (∀ x, s.batches.find? mine = some x →
      (LateBefore s (.team t) s.nextId → Waits s t (.bfdone a) .retry) ∧
      let u := ((voided s x).filter fun r => !r.void).foldl (fun s r => s.locStore (.scratch (r.done / 2 ^ 27) (r.done % 2 ^ 27)) (leBytes 4 no.toNat)) s
      (¬ LateBefore s (.team t) s.nextId →
        Completes s t (.bfdone a) (startOp { u with batches := u.batches.filter (· != x) } .store [])) ∧
      (s.wf = true → ∀ p, (∀ r ∈ x.rows, ¬ Within p (.scratch (r.done / 2 ^ 27) (r.done % 2 ^ 27)) 4) → u.byteAt p = s.byteAt p))) ∧
  (∀ s : State, exec .batchWindowExpiry s = .next (
    if s.batches.any fun b => b.group == s.ev.launch && b.no == s.ev.seq && windowOver s b then closeExpired s else s)) ∧
  (∀ (s : State) (b : BfBatch), windowOver s b = true ↔ b.closed = false ∧ b.opened + b.win ≤ s.time)

/-- SPECPG gives a free page, one of those free, as the sequence's; at the watermark every speculative page goes into
quarantine first; with none free, or for a refused sequence, it answers all ones. COMMIT commits the sequence's oldest
pages and frees its speculative or all of its pages as its bits say. CANCELQ answers whether the sequence is
cancelled. Which free page is taken is a free value (log 12); that a refusal starts with the BFJOIN of the sequence,
and comes before the reclaim, is the model's reading (log 45). The TADDR of a bad sequence number is that number (log 36). -/
def Sys2Proof.Claims.KvPages : Prop :=
  ∀ (s : State) (t : Nat), s.cur = .team t →
    let y := s.team t
    let w := y.view
    let l := y.info.launch
    let x := s.launch l
    (∀ d a, let v := rd w a 0; let i := Instr.specpg d a;
      (¬ SeqOk v → Faults s t i 0x04 v 0) ∧ (SeqOk v → x.pool = none → Faults s t i 0x04 v 0) ∧
      (∀ p, SeqOk v → x.pool = some p →
        (v.toNat ∈ x.refused → Completes s t i (readInto s t (wrS y.regs d 0xFFFFFFFF) [d])) ∧
        (v.toNat ∉ x.refused →
          let z := if p.pages - p.owned.length < p.wmark + 1 then x.reclaim p else x
          ∀ p', z.pool = some p' →
            (p'.freePages = [] → Completes s t i (readInto (s.putLaunch l z) t (wrS y.regs d 0xFFFFFFFF) [d])) ∧
            (p'.freePages ≠ [] → ∃ n ∈ p'.freePages, Completes s t i (readInto
              (s.putLaunch l { z with pool := some { p' with owned := p'.owned ++ [(n, .spec v.toNat)] } }) t (wrS y.regs d (w32 n)) [d]))))) ∧
    (∀ (p : Pool) n, n ∈ p.freePages ↔ n < p.pages ∧ p.owned.lookup n = none) ∧
    (∀ (p : Pool) e, e ∈ ((x.reclaim p).pool.getD p).owned ↔
      (∃ q, e.2 = .quarantine q ∧ (e.1, KvPage.spec q) ∈ p.owned) ∨ (e ∈ p.owned ∧ ∀ q, e.2 ≠ .spec q)) ∧
    (∀ d a b, let v := rd w a 0; let c := rd w b 0; let i := Instr.commit d a b;
      (2 ^ 18 ≤ c.toNat → Illegal s t i) ∧
      (c.toNat < 2 ^ 18 → ¬ SeqOk v → Faults s t i 0x04 v 0) ∧
      (c.toNat < 2 ^ 18 → SeqOk v → x.pool = none → Faults s t i 0x04 v 0) ∧
      (∀ p, c.toNat < 2 ^ 18 → SeqOk v → x.pool = some p →
        let q := v.toNat
        let k := commitPages q (c.toNat % 65536) (p.release (· == .quarantine q)).owned
        let keep := fun e : Nat × KvPage =>
          !((c.getLsbD 16 && e.2 == .spec q) || (c.getLsbD 17 && e.2.seq == some q))
        Completes s t i (readInto (s.putLaunch l { x with pool := some { p with owned := k.1.filter keep } }) t (wrS y.regs d (w32 k.2)) [d]))) ∧
    (∀ d a, let v := rd w a 0;
      (¬ SeqOk v → Faults s t (.cancelq d a) 0x04 v 0) ∧
      (SeqOk v → Completes s t (.cancelq d a) (readInto s t (wrS y.regs d (if v.toNat ∈ x.cancelled then 1 else 0)) [d])))

/-- EGRESS adds a cell to a bound stream, or waits when it holds 4,096; RELEASE advances the stream's release mark by one
when its operand is the mark, and answers 0, 1, 2 or 3; EGRESS_DEPARTURE sends the first final, released cell with
credit to the ring, and advances NOTE in another such step once the oldest ring write without its NOTE and the last NOTE are
acknowledged (log 103). That RELEASE
answers 3 only after a BFJOIN has refused the sequence is the model's reading (log 45); the TADDR of a stream number that is
bound to nothing is that number, the model's choice (log 117). MBXPUT, once no access of its team has still to act, and MBXGET, once its path's reads of die scratch are fixed, put and take one message; a put that finds its mailbox full, or others
waiting, waits in its order until a take gives it room. A credit that cannot be read blocks the departure: the model's
reading (log 46). -/
def Sys2Proof.Claims.EgressAndMailboxes : Prop :=
  (∀ (s : State) (t : Nat) (a b : Byte), s.cur = .team t →
    let w := (s.team t).view
    let i := Instr.egress a b
    let g := readDesc w a
    let n := rd w b 0
    let q := descPages s .gread g
    let u := q.1
    let l := s.curLaunch
    FaultsBy s i (descRange i s { most := 1 } g) ∧
    (descRange i s { most := 1 } g = none →
      PageFaults s i u q.2.chk ∧
      (q.2.chk = .ok → streamOf (u.launch l) n.toNat = none → Faults s t i 0x04 n 0) ∧
      (∀ x, q.2.chk = .ok → streamOf (u.launch l) n.toNat = some x →
        (4096 ≤ x.entries.length → PartyWaits s i u) ∧
        (x.entries.length < 4096 → Completes s t i (startOp (u.putLaunch l ((u.launch l).putStream
          { x with entries := x.entries ++ [{ region := g.reg, cell := g.first }] })) .store []))))) ∧
  (∀ (s : State) (t : Nat) (d a b : Byte), s.cur = .team t →
    let y := s.team t
    let n := rd y.view a 0
    let k := (rd y.view b 0).toNat
    let l := y.info.launch
    let i := Instr.release d a b
    (streamOf (s.launch l) n.toNat = none → Faults s t i 0x04 n 0) ∧
    (∀ x, streamOf (s.launch l) n.toNat = some x →
      let gone := x.seq ∈ (s.launch l).refused
      (gone → Completes s t i (readInto s t (wrS y.regs d 3) [d])) ∧
      (¬ gone → k = x.released → Completes s t i (readInto
        (s.putLaunch l ((s.launch l).putStream { x with released := x.released + 1 })) t (wrS y.regs d 0) [d])) ∧
      (¬ gone → k < x.released → Completes s t i (readInto s t (wrS y.regs d 1) [d])) ∧
      (¬ gone → x.released < k → Completes s t i (readInto s t (wrS y.regs d 2) [d])))) ∧
  (∀ (s : State) x, streamOf (s.launch s.ev.launch) s.ev.n = some x →
    let y := s.launch s.ev.launch
    let left := fun z : Egress => s.putLaunch s.ev.launch (y.putStream z)
    (∀ k, noteDue s x = some k → exec .egressDeparture s = .next
      ((left { x with slotOut := x.slotOut.drop 1, noteOut := some s.nextId }).ioStore none (.host x.note) (leBytes 8 k))) ∧
    (∀ e, noteDue s x = none → departs s s.ev.launch x = some e → exec .egressDeparture s = .next
      ((left { x with entries := x.entries.drop 1, leaves := x.leaves + 1, slotOut := x.slotOut ++ [(s.nextId, x.leaves + 1)] }).ioStore none
        (.host (x.ring + 256 * (x.leaves % (x.slots + 1)))) (s.ioBytes (s.placeOf .io y.f (cellVa y e.region e.cell)) 256)))) ∧
  (∀ (s : State) (x : Egress) k, noteDue s x = some k ↔ ∃ id r, x.slotOut = (id, k) :: r ∧
    ∀ w ∈ s.portWrites, w.id ≠ id ∧ x.noteOut ≠ some w.id) ∧
  (∀ (s : State) l x e, departs s l x = some e → x.entries.head? = some e ∧ x.leaves < x.released ∧
    gradeOf (cellTag s .io (s.launch l) e.region e.cell) = 3) ∧
  (∀ (s : State) p l bs,
    let k := freestPort s
    (portAt 0 k l = none → s.ioStore p l bs = s.locStore l bs) ∧
    (portAt 0 k l ≠ none → s.ioStore p l bs =
      ({ s with nextId := s.nextId + 1
                portWrites := s.portWrites ++ [{ id := s.nextId, port := k, loc := l, bytes := bs, packet := p }] } : State).post
        .transferComplete { id := s.nextId })) ∧
  (∀ (s : State) (t : Nat), s.cur = .team t →
    let y := s.team t
    let w := y.view
    let f := s.curFn
    (∀ a b, let m := (rd w b 0).toNat; let msg := (List.range 8).map (rdS w a);
      let new := y.path.dep ≠ some .met
      (¬ new → Completes s t (.mbxput a b) (startOp s .store [])) ∧
      (new → 65536 ≤ m → Illegal s t (.mbxput a b)) ∧
      let late := LateBefore s (.team t) s.nextId
      (new → m < 65536 → late → Waits s t (.mbxput a b) .retry) ∧
      (new → m < 65536 → ¬ late → putWaits s f m = true → ∀ r, needs s (.mbxput a b) = some r → s.Passes t r →
        exec (.mbxput a b) s = .next (waitOn (joinPuts s f m (.team t y.flow.path) msg) t (.put m))) ∧
      (new → m < 65536 → ¬ late → putWaits s f m = false → Completes s t (.mbxput a b) (startOp (mboxPut s f m msg) .store []))) ∧
    (∀ d a b, let m := (rd w a 0).toNat;
      (65536 ≤ m → Illegal s t (.mbxget d a b)) ∧
      (m < 65536 → mboxTail s f m = mboxHead s f m → Completes s t (.mbxget d a b) (readInto s t (wrS y.regs b 0) [b])) ∧
      (m < 65536 → mboxTail s f m ≠ mboxHead s f m → ReadsOwed s y.path.mask → Waits s t (.mbxget d a b) .retry) ∧
      (m < 65536 → mboxTail s f m ≠ mboxHead s f m → ¬ ReadsOwed s y.path.mask → Completes s t (.mbxget d a b)
        (readInto (mboxServe (mboxTake s f m) f m) t (wrS (wrSs y.regs d (mboxMessage s f m)) b 1)
          (b :: (List.range 8).map (regAt d)))))) ∧
  (∀ (s : State) (f m : Nat),
    let fn := s.func f
    (putWaits s f m = true ↔ 7 ≤ (mboxTail s f m - mboxHead s f m).toNat ∨ ∃ p ∈ fn.puts, p.mailbox = m) ∧
    (∀ who msg, joinPuts s f m who msg =
      if fn.puts.any (·.who == who) then s else s.putFunc f { fn with puts := fn.puts ++ [⟨m, who, msg⟩] }) ∧
    ((∀ p ∈ fn.puts, p.mailbox ≠ m) → mboxServe s f m = s) ∧
    (∀ p r, fn.puts = p :: r → p.mailbox = m → mboxFull s f m = false →
      let u := mboxPut s f m p.msg
      mboxServe s f m = servePuts f m r (finishPut
        (u.putFunc f { u.func f with puts := (u.func f).puts.filter (·.who != p.who) }) f p.who))) ∧
  (∀ (s : State) (f m : Nat) (msg : List Word), s.wf = true → f < s.funcs.length → m < 65536 → msg.length = 8 →
    let s' := mboxPut s f m msg
    mboxTail s' f m = mboxTail s f m + 1 ∧ mboxHead s' f m = mboxHead s f m ∧
    (∀ j, j < 8 → memWord (s'.func f).mbox (mboxSlot m (mboxTail s f m) + 4 * j) = msg.getD j 0) ∧
    mboxHead (mboxTake s f m) f m = mboxHead s f m + 1 ∧ mboxTail (mboxTake s f m) f m = mboxTail s f m)

/-- FETCHW and TRYW take the first tile of the die's buffer that the team's role admits; FETCHW waits without one, TRYW
answers all ones; a team that holds 16 tiles faults. TILE_DEAL deals the head of the dispensing order to a front end
with room, one of a launch in a cycle, and DEALT_TILE_ARRIVAL brings it there and serves the requesters that wait. The
model's readings: the fault of a team with 16 tiles comes at issue (log 49) with TADDR 0 (log 117), and the first deal
goes to the lowest die (log 44). -/
def Sys2Proof.Claims.TakingTiles : Prop :=
  (∀ (s : State) (t : Nat) (d : Byte), s.cur = .team t →
    let x := s.team t
    let l := x.info.launch
    let f := frontEnd s t
    let got := takeFirst (s.launchOf t) x.info.role f.buffer
    (x.path.dep = some .met → Completes s t (.fetchw d) s) ∧
    (x.path.dep ≠ some .met → 16 ≤ x.tiles.length → Faults s t (.fetchw d) 0x04 0 0) ∧
    (∀ u b, got = some (u, b) → 16 ≤ x.tiles.length → Faults s t (.tryw d) 0x04 0 0) ∧
    (∀ u b, got = some (u, b) → x.tiles.length < 16 →
      (x.path.dep ≠ some .met → Completes s t (.fetchw d) (giveTile (withFront s t { f with buffer := b }) l t d.toNat u)) ∧
      Completes s t (.tryw d) (giveTile (withFront s t { f with buffer := b }) l t d.toNat u)) ∧
    (got = none → x.tiles.length < 16 → x.path.dep ≠ some .met → ∀ r, needs s (.fetchw d) = some r → s.Passes t r →
      exec (.fetchw d) s = .next (waitOn (withFront s t { f with waiters := f.waiters ++ [{ team := t, dreg := d.toNat, path := x.flow.path }] }) t .tile)) ∧
    (got = none → Completes s t (.tryw d) (withRegs s t (wrSs x.regs d [0xFFFFFFFF, 0, 0, 0])))) ∧
  (∀ (x : Launch) (r : Nat) (b : List Tile) u c, takeFirst x r b = some (u, c) →
    ∃ pre post, b = pre ++ u :: post ∧ c = pre ++ post ∧ admits x r u = true ∧ ∀ y ∈ pre, admits x r y = false) ∧
  (∀ (s : State) (l team dreg : Nat) (u : Tile), team < s.teams.length →
    ((giveTile s l team dreg u).team team).tiles = (s.team team).tiles ++ [u] ∧
    ((giveTile s l team dreg u).team team).regs = wrSs (s.team team).regs (BitVec.ofNat 8 dreg) [u.task, u.x, u.y, u.z]) ∧
  (∀ (s : State) u x d, headTile (s.launch s.ev.launch) = some (u, x) → nextFront s s.ev.launch = some d →
    let y := s.launch s.ev.launch
    let f := x.fronts.getD d {}
    (y.live = true → y.dealFrom ≤ s.time → exec .tileDeal s = .next (s.putLaunch s.ev.launch
      { x with dealFrom := s.time + 1, lastDie := some d, fronts := x.fronts.set d { f with transit := f.transit ++ [u] } })) ∧
    ((y.live = false ∨ s.time < y.dealFrom) → exec .tileDeal s = .next s)) ∧
  (∀ (s : State) u r, let x := s.launch s.ev.launch; let f := x.fronts.getD s.ev.die {};
    f.transit = u :: r → exec .dealtTileArrival s = .next (serveFront (s.putLaunch s.ev.launch
      { x with fronts := x.fronts.set s.ev.die { f with transit := r, buffer := f.buffer ++ [u] } }) s.ev.launch s.ev.die)) ∧
  (∀ i (ts : List Task) j k, headTask i ts = some (j, k) →
    i ≤ j ∧ ts[j - i]? = some k ∧ k.waiting = true ∧
    ∀ m q, ts[m]? = some q → q.waiting = true → q.tpri ≤ k.tpri ∧ (q.tpri = k.tpri → j ≤ i + m))

/-- TASKEND reports a tile the team holds, with the slot's generation and mask; TASKEND_REPORT reaches the Sequencer once
what came before it has completed, and the last tile completes the firing; REFIRE and TASKQ check their task and ask the Sequencer,
which re-fires it, or gives TASKQ's word of it as it then is, 240 cycles later (at a place in that cycle of the model's choice, log 109), D being pending until then; DISPQ reads the front end.
That a firing takes place in the step that causes it is the model's choice (log 50), and so is the TADDR of a
bad task number, that number (log 117). -/
def Sys2Proof.Claims.ReportingTiles : Prop :=
  (∀ (s : State) (t : Nat), s.cur = .team t →
    let x := s.team t
    let w := x.view
    let l := x.info.launch
    (∀ a b, let i := Instr.taskend a b;
      let u : Tile := { task := rdS w a 0, x := rdS w a 1, y := rdS w a 2, z := rdS w a 3 }
      let slot := (rd w b 0).toNat
      let bad := if isZero b then none else slotFault s false slot
      let sum := (s.harness x.info.harness).slotAt slot
      (u ∉ x.tiles → Faults s t i 0x04 u.task 0) ∧
      (u ∈ x.tiles → FaultsBy s i bad) ∧
      (u ∈ x.tiles → bad = none → u.task = 0xFFFFFFFE → isZero b = false → Illegal s t i) ∧
      (u ∈ x.tiles → bad = none → (u.task ≠ 0xFFFFFFFE ∨ isZero b = true) →
        let r : Report := { id := s.nextId, team := t, tile := u, hgen := sum.hgen, mask := if isZero b then 0 else sum.mask
                            after := unfinished s t }
        let v := s.putTeam t { x with tiles := x.tiles.erase u }
        Completes s t i (v.putLaunch l { v.launch l with reports := (v.launch l).reports ++ [r] }).fresh)) ∧
    (let fits := fun v : Word => v.toNat < 65536 ∧ v.toNat < (s.launchOf t).tasks.length;
      (∀ a, let v := rd w a 0;
        (¬ fits v → Faults s t (.refire a) 0x04 v 0) ∧
        (fits v → ∃ r, Completes s t (.refire a) { s with nextId := s.nextId + 1, late := r } ∧ AskAdded s t (.refire v.toNat) r)) ∧
      (∀ d a b, let v := rd w a 0;
        (¬ fits v → Faults s t (.taskq d a b) 0x04 v 0) ∧
        (fits v → ∃ r,
          let op : PendOp := { id := s.nextId, party := .team t, kind := .hold, pc := x.path.pc }
          let marks := ([d].filter fun r => isV r || isS r).map fun r => (⟨r, x.path.pc, s.nextId⟩ : Mark)
          AskAdded s t (.query v.toNat b.toNat d) r ∧
          Completes s t (.taskq d a b) (({ s with nextId := s.nextId + 1, late := r, ops := s.ops ++ [op] } : State).putTeam t
            { x with deps := { x.deps with marks := x.deps.marks ++ marks } })))) ∧
    (∀ d a, let f := frontEnd s t;
      Completes s t (.dispq d a) (withRegs s t (wrS x.regs d (
        if a = 0 then w32 f.buffer.length else if a = 1 then w32 f.waiters.length
        else match (s.launchOf t).tasks.findIdx? (·.held) with | some i => w32 i | none => 0xFFFFFFFF))))) ∧
  (∀ (s : State) (y : Late) (t n : Nat), y.party = .team t → y.image = none →
    let x := s.team t
    let l := (s.harness x.info.harness).launch
    let v : State := { s with late := s.late.filter (· != y) }
    (y.ask = some (.refire n) → s.ops.find? (·.id == y.id) = none →
      (∀ k, (s.launch l).live = true → s.task l n = some k → runLate s y = v.putTask l n k.refire) ∧
      ((s.launch l).live = false ∨ s.task l n = none → runLate s y = v)) ∧
    (∀ sel d, y.ask = some (.query n sel d) →
      (s.ops.find? (·.id == y.id) = none → runLate s y = v) ∧
      (∀ o k, s.ops.find? (·.id == y.id) = some o → o.kind = .hold → o.after = [] → (∀ z ∈ s.late, z ≠ y → z.id ≠ y.id) →
        s.task l n = some k → runLate s y = (withRegs v t (wrS x.regs d (taskWord k sel))).post .wmOperationComplete { id := y.id }))) ∧
  (∀ (k : Task) (f : Nat), taskWord k f =
    if f = 1 then k.arg
    else if f = 2 then w32 ((List.range 6).map fun i => ((k.ins[i]?).map (·.cgen)).getD 0 % 32 * 2 ^ (5 * i)).sum
    else w32 (k.tpri % 256 * 2 ^ 16 + k.fires % 256 * 2 ^ 8 + k.hop % 16 * 16 + 8 * k.pend.isSome.toNat + k.state)) ∧
  (∀ (k : Task), (k.removed = true → k.refire = k) ∧
    (k.removed = false → k.done = true → k.refire.fired = true ∧ k.refire.hop = 0 ∧ k.refire.fires = k.fires + 1 ∧ k.refire.held = false) ∧
    (k.removed = false → k.done = false → k.given = true → k.refire.pend.isSome = true ∧ k.refire.fires = k.fires) ∧
    (k.removed = false → k.done = false → k.given = false → k.refire = k)) ∧
  (∀ (s : State) r, ((s.launch s.ev.launch).reports.find? (·.id == s.ev.id)) = some r →
    (r.after.any (inProgress s) = true → exec .taskendReport s = .next s) ∧
    (r.after.any (inProgress s) = false →
      let v := s.putLaunch s.ev.launch { s.launch s.ev.launch with reports := (s.launch s.ev.launch).reports.filter (·.id != r.id) }
      (v.task s.ev.launch r.tile.task.toNat = none → exec .taskendReport s = .next v) ∧
      (∀ k, v.task s.ev.launch r.tile.task.toNat = some k →
        exec .taskendReport s = .next (v.putTask s.ev.launch r.tile.task.toNat (k.report r))))) ∧
  (∀ (k : Task) (r : Report), 1 ≤ k.left → (k.report r).left = (if k.left = 1 ∧ k.pend.isSome then (k.report r).tiles else k.left - 1) ∧
    (1 < k.left → (k.report r).done = k.done) ∧ (k.left = 1 → k.pend = none → (k.report r).done = true))

/-! ## The Wide Multipliers -/

namespace Sys2Proof.Claims
open Sys2Proof.Machine

/-- Team `t` with another WM state. -/
def withWm (s : State) (t : Nat) (x : WmState) : State := s.putTeam t { s.team t with wm := x }

/-- An integer fits `c` bits, signed. -/
def FitsBits (c : Nat) (v : Int) : Prop := -(2 ^ (c - 1) : Int) ≤ v ∧ v ≤ 2 ^ (c - 1) - 1

/-- How a member of the PACK family goes on from its coefficients: the lowest one that does not fit faults, with its value; else the
string stands in register `d`. -/
def Packs (s : State) (t : Nat) (i : Instr) (d : Byte) (width c : Nat) (cs : List Coef) : Prop :=
  (∀ x ∈ cs, ¬ FitsBits c x.val → (∀ y ∈ cs, y.slot < x.slot → FitsBits c y.val) →
    Faults s t i 0x19 (w32 x.slot) (BitVec.ofInt 32 x.val)) ∧
  ((∀ x ∈ cs, FitsBits c x.val) → Completes s t i
    (withRegs s t (writeString (s.team t).regs (s.team t).view.nl d.toNat (packString width cs) false)))

/-- The sum of the products L[i] · S[d - i]. -/
def prodSum (n : Nat) (l s : List Int) (d : Nat) : Int :=
  ((List.range n).map fun i => if i ≤ d ∧ d - i < n then l.getD i 0 * s.getD (d - i) 0 else 0).sum

/-- A WM instruction of team `t` has a running lane. -/
def Lanes (s : State) (t : Nat) : Prop := (s.team t).view.run ≠ 0

/-- The partition record of a team's harness stands in the tables. -/
def PartPlaced (s : State) (t : Nat) : Prop :=
  t < s.teams.length ∧ (s.team t).info.harness < s.harnesses.length ∧ (s.team t).info.part < (s.harnessOf t).parts.length

/-- Team `t` has begun a multiply of the configuration: its pair units, and 32 times the cost off its partition's credit where its
function has a WMW (R436, R441). -/
def worked (s : State) (t : Nat) (c : WmConfig) : State :=
  let i := (s.team t).info
  let h := s.harness i.harness
  let k := s.core i.core
  let p := k.parts.getD i.part {}
  let u := s.putHarness i.harness { h with pairs := h.pairs.set i.part (h.pairs.getD i.part 0 + BitVec.ofNat 64 c.units) }
  if (s.func (s.fnOf t)).wmw = 0 then u
  else u.putCore i.core { k with parts := k.parts.set i.part { p with credit := p.credit - 32 * c.cost } }

/-- The same with WM `k` of the partition occupied by the operation that starts (R289). -/
def started (s : State) (t : Nat) (c : WmConfig) (k : Nat) : State :=
  let u := worked s t c
  let i := (s.team t).info
  let p := (u.core i.core).parts.getD i.part {}
  u.putCore i.core { u.core i.core with parts := (u.core i.core).parts.set i.part { p with busy := p.busy.set k (some s.nextId) } }

/-- An operation of kind `kind` of team `t` is in flight on WM `k` of its partition; its end is set unless a wave of it has still
to act. -/
def inWm (s : State) (t k : Nat) (kind : OpKind) : State :=
  let x := s.team t
  let c := s.core x.info.core
  let p := c.parts.getD x.info.part {}
  let op : PendOp := { id := s.nextId, party := .team t, kind := kind, part := x.info.part, pc := x.path.pc, wm := some k }
  let u := ({ s with nextId := s.nextId + 1, ops := s.ops ++ [op] } : State).putCore x.info.core
    { c with parts := c.parts.set x.info.part { p with busy := p.busy.set k (some s.nextId) } }
  if s.late.any (·.id == s.nextId) then u else u.post .wmOperationComplete { id := s.nextId }

/-- Team `t` holds a subscription whose row is ready. -/
def RowReady (s : State) (t : Nat) : Prop := ∃ k p, (s.team t).wm.sub = some (k, p) ∧ rowReady s (s.team t).info.harness k p = true

/-- The instructions of rows 0xC and 0xD that act on the Wide Multipliers. -/
def isWm : Instr → Bool
  | .guard _ _ | .pack _ _ | .packr _ _ | .packq _ _ _ | .packa _ _ _ | .packs _ _ _ | .wmul _ _ _ | .wmulk _ _ _ | .wmulg _ _ _
    | .wmulgk _ _ _ | .extr _ _ | .extsF32 _ _ _ | .extsBf16 _ _ _ | .extsF16 _ _ _ | .norm _ | .aclr _ | .strm _ _ | .subs _
    | .unsubs | .rls | .skipq _ _ | .wstat _ _ | .accst _ _ | .accld _ _ _ => true
  | _ => false

end Sys2Proof.Claims

/-- GUARD sets a valid configuration; PACK, PACKR, PACKS, PACKQ and PACKA need one, and write the coefficients of their
slots to lanes 0 to 63; one out of range faults with its slot and value; a predicted skip writes zeros and the mark. A
WM instruction on a path with no running lane changes nothing. That no instruction of the family has an effect, or a
fault, without a running lane is the model's reading (log 25); that PACKQ and PACKA without a configuration fault with 0x1A
whatever their other operands, before the slot's KIND is looked at, is the model's choice (log 92). -/
def Sys2Proof.Claims.GuardAndPack : Prop :=
  (∀ (s : State) (t : Nat) (i : Instr), isWm i = true → ¬ Lanes s t → Completes s t i s) ∧
  (∀ (s : State) (t : Nat), s.cur = .team t → Lanes s t →
    let y := s.team t
    let w := y.view
    (∀ a b, let x := rd w a 0; let z := rd w b 0; let c := guardOf x z;
      let ok := x.toNat < 2 ^ 27 ∧ z.toNat < 2 ^ 30 ∧ (slotOf s c.fr).kind ≠ 0
      let valid := c.w ∈ [8, 12, 16, 20, 24, 28, 32] ∧ 2 ≤ c.cL ∧ c.cL ≤ 18 ∧ 2 ≤ c.cS ∧ c.cS ≤ 18 ∧ c.cL + c.cS ≤ c.w ∧ c.cnt ≠ 0 ∧
        c.lo + c.cnt ≤ 2 * (2048 / c.w) - 1 ∧ c.base + c.cnt ≤ 4096 / c.w
      (¬ ok → Illegal s t (.guard a b)) ∧ (ok → ¬ valid → Faults s t (.guard a b) 0x1A 0 0) ∧
      (ok → valid → Completes s t (.guard a b) (withWm s t { y.wm with cfg := some c }))) ∧
    (y.wm.cfg = none → ∀ d a b, Faults s t (.pack d a) 0x1A 0 0 ∧ Faults s t (.packr d a) 0x1A 0 0 ∧ Faults s t (.packs d a b) 0x1A 0 0 ∧
      Faults s t (.packq d a b) 0x1A 0 0 ∧ Faults s t (.packa d a b) 0x1A 0 0) ∧
    (∀ c, y.wm.cfg = some c → ∀ d a b,
      let n := 2048 / c.w
      let src := fun k => if k < w.nl ∧ w.run.getLsbD k = true then rd w a k else 0
      let v := rd w b 0
      Packs s t (.pack d a) d c.w c.cL ((List.range n).map fun k => ⟨k, (src k).toInt⟩) ∧
      Packs s t (.packr d a) d c.w c.cS ((List.range n).map fun k => ⟨n - 1 - k, (src k).toInt⟩) ∧
      (let m := v.toNat
       ((m = 0 ∨ 256 ≤ m) → Illegal s t (.packs d a b)) ∧
       (1 ≤ m → m < 256 → Packs s t (.packs d a b) d c.w c.cS ((List.range ((n + m - 1) / m)).map fun k => ⟨k * m, (src k).toInt⟩))) ∧
      (let blk := (v.extractLsb' 27 3).toNat
       let f := slotOf s (v.extractLsb' 24 3).toNat
       let skip := predictSkip f.thr (v.extractLsb' 16 8).toInt (v.extractLsb' 0 8).toNat (v.extractLsb' 8 8).toNat
       ((2 ^ 30 ≤ v.toNat ∨ f.kind ≠ 1) → Illegal s t (.packq d a b)) ∧
       (v.toNat < 2 ^ 30 → f.kind = 1 → skip = true → Completes s t (.packq d a b) (s.putTeam t { y with
         regs := writeString y.regs w.nl d.toNat 0 true, wm := { y.wm with skips := y.wm.skips + 1 } })) ∧
       (v.toNat < 2 ^ 30 → f.kind = 1 → skip = false → Packs s t (.packq d a b) d c.w c.cL ((List.range 64).map fun e =>
         ⟨e, if 8 * blk + e / 8 < w.nl ∧ w.run.getLsbD (8 * blk + e / 8) = true
           then nq4 ((rd w a (8 * blk + e / 8)).extractLsb' (4 * (e % 8)) 4).toNat else 0⟩))) ∧
      (let e0 := (v.extractLsb' 16 8).toNat
       let m := if (v.extractLsb' 0 8).toNat = 0 then n else (v.extractLsb' 0 8).toNat
       let ok := v.extractLsb' 24 8 = 0 ∧ v.extractLsb' 9 7 = 0 ∧ m ≤ n ∧ e0 + m - 1 ≤ 255
       (¬ ok → Illegal s t (.packa d a b)) ∧
       (ok → Packs s t (.packa d a b) d c.w c.cS ((List.range m).map fun j =>
         ⟨if v.getLsbD 8 then m - 1 - j else j, ((src ((e0 + j) / 4)).extractLsb' (8 * ((e0 + j) % 4)) 8).toInt⟩))))) ∧
  (∀ (width : Nat) (cs : List Coef), 1 ≤ width → width ≤ 32 → cs.Pairwise (fun x y => x.slot ≠ y.slot) →
    (∀ x ∈ cs, FitsBits width x.val ∧ (x.slot + 1) * width ≤ 2048) →
    ∀ k, (k + 1) * width ≤ 2048 → ((packString width cs).extractLsb' (k * width) width).toInt = ((cs.find? fun x => x.slot == k).map (·.val)).getD 0)

/-- A product adds to each digit of the window the sum of the products L[i] · S[d - i], and leaves every other digit
alone; under the relaxed mode only the two low bits of a digit of the window are open; the first sum that does not fit
its digit is found. The two low bits of a relaxed digit are a free value (log 12). -/
def Sys2Proof.Claims.WideProducts : Prop :=
  (∀ (n : Nat) (l s : List Int) (d : Nat), l.length = n → s.length = n → 1 ≤ n → d ≤ 2 * n - 2 → product n l s d = prodSum n l s d) ∧
  (∀ (s : State) (t : Nat) (c : WmConfig) (a : BitVec 4096) (lop sop : BitVec 2048), c.valid = true →
    let n := 2048 / c.w
    let l := coeffs c.w c.cL lop
    let m := coeffs c.w c.cS sop
    let ts := windowSums c a lop sop
    (∀ k, k < n → l.getD k 0 = (lop.extractLsb' (k * c.w) c.cL).toInt ∧ m.getD k 0 = (sop.extractLsb' (k * c.w) c.cS).toInt) ∧
    ts.length = c.cnt ∧
    (∀ j, j < c.cnt → ts.getD j 0 = digit c.w a (c.base + j) + prodSum n l m (c.lo + j)) ∧
    (∀ j, overflowAt c ts = some j ↔ j < c.cnt ∧ ¬ FitsBits c.w (ts.getD j 0) ∧ ∀ k, k < j → FitsBits c.w (ts.getD k 0)) ∧
    (overflowAt c ts = none →
      (∀ j, j < c.cnt → digit c.w (writeWindow s t c false a ts) (c.base + j) = ts.getD j 0) ∧
      (∀ j, j < c.cnt → digit c.w (writeWindow s t c true a ts) (c.base + j) / 4 = ts.getD j 0 / 4) ∧
      (∀ (x : Bool) e, e < c.digits → (e < c.base ∨ c.base + c.cnt ≤ e) → digit c.w (writeWindow s t c x a ts) e = digit c.w a e) ∧
      (∀ x : Bool, (writeWindow s t c x a ts).toNat < 2 ^ (c.w * c.digits))))

/-- WMUL and WMULK: without a configuration, on an accumulator in binary form or without a subscription they fault; a row
not there yet makes them wait; a skipped operand multiplies nothing; a sum that does not fit faults with its digit and
sets OVF, its WM occupied all the same; else the accumulator takes the window and the operation is in flight, its WM occupied and M raised. An operand that
is not skipped counts its pair units in the harness and, with a WMW, its WM credit, the overflow too. Every other team,
harness and core stays as it was, and off the stream that is all. RLS empties the latch. WM_OPERATION_COMPLETE ends the
operation. That the TADDR of an overflow counts digits of the accumulator is the model's reading (log 16). -/
def Sys2Proof.Claims.WideMultiply : Prop :=
  (∀ (s : State) (t : Nat) (d a b : Byte) (keep : Bool), s.cur = .team t → Lanes s t →
    let i := if keep then Instr.wmulk d a b else Instr.wmul d a b
    let x := s.team t
    let n := d.toNat - 0xF0
    (x.wm.cfg = none → Faults s t i 0x1A 0 0) ∧
    (x.wm.cfg ≠ none → s.form t n = true → Illegal s t i) ∧
    (x.wm.cfg ≠ none → s.form t n = false → b = 0xED → x.wm.sub = none → Illegal s t i) ∧
    (∀ k p, x.wm.cfg ≠ none → s.form t n = false → b = 0xED → x.wm.sub = some (k, p) → rowReady s x.info.harness k p = false →
      Waits s t i .retry) ∧
    (∀ c, x.wm.cfg = some c → s.form t n = false →
      (b ≠ 0xED ∨ ∃ k p, x.wm.sub = some (k, p) ∧ rowReady s x.info.harness k p = true) →
      let o := longOf s t a
      let after' := fun u : State => latchAfter (if b = 0xED then advance u t else u) t keep a o
      let ts := windowSums c (s.acc t n) o.1 (shortOf s t b)
      (o.2 = true → Completes s t i (after' s)) ∧
      (∀ j, o.2 = false → overflowAt c ts = some j → ∀ r, needs s i = some r → s.Passes t r →
        exec i s = .next
          (teamFault (withWm (inWm (worked s t c) t (n / 2) .hold) t { x.wm with ovf := true }) t 0x18 (w32 (c.base + j)) 0)) ∧
      (o.2 = false → overflowAt c ts = none → ∃ u, Completes s t i (after' u) ∧
        (PartPlaced s t → n < 16 → sparseWf 0 ((s.harnessOf t).parts.getD x.info.part {}).acc = true →
          u.acc t n = writeWindow s t c ((s.launchOf t).slots.getD c.fr {}).rlx (s.acc t n) ts ∧ u.form t n = false ∧
          (∀ m, m ≠ n → u.acc t m = s.acc t m) ∧
          (u.team t).deps.m = x.deps.m + 1 ∧ (u.team t).regs = x.regs ∧ u.core x.info.core = (started s t c (n / 2)).core x.info.core ∧
          (∀ p, u.byteAt p = s.byteAt p)) ∧
        (∀ y, y ≠ t → u.team y = s.team y ∧ (b ≠ 0xED → (after' u).team y = s.team y)) ∧
        (∀ g, u.harness g = { (worked s t c).harness g with parts := (u.harness g).parts }) ∧
        (∀ g, g ≠ x.info.harness → u.harness g = s.harness g) ∧ (∀ k, k ≠ x.info.core → u.core k = s.core k)))) ∧
  (∀ (s : State) (t k : Nat) (r : List Byte), let x := s.team t;
    startWm s t r k = (inWm s t k .wm).putTeam t
      { x with deps := { x.deps with m := x.deps.m + 1, marks := x.deps.marks ++ r.map fun b => (⟨b, x.path.pc, s.nextId⟩ : Mark) } }) ∧
  (∀ (s : State) (t : Nat), Lanes s t → s.cur = .team t → Completes s t .rls (withWm s t { (s.team t).wm with latch := none })) ∧
  (∀ (s : State) (o : PendOp) (t k : Nat), (s.ops.find? fun q => q.id == s.ev.id && (q.kind == OpKind.wm || q.kind == OpKind.hold)) = some o →
    (∀ y ∈ s.late, y.id ≠ s.ev.id) → o.party = .team t → o.wm = some k →
    let x := s.team t
    let c := s.core x.info.core
    let p := c.parts.getD o.part {}
    let u := { s with ops := s.ops.filter fun q => q.id != o.id }.putTeam t
      { x with deps := { x.deps with
        m := x.deps.m - (if o.kind = OpKind.wm then 1 else 0), marks := x.deps.marks.filter fun q => q.id != o.id } }
    exec .wmOperationComplete s = .next (if p.busy.getD k none = some o.id
      then u.putCore x.info.core { c with parts := c.parts.set o.part { p with busy := p.busy.set k none } } else u))

/-- WMULG and WMULGK: a team outside its gang, or whose form differs from the round's, faults; without a configuration, on a
binary form or without a subscription too; so does a member that would fall off the code, at its arrival (log 14); that these come before the fault of a form that differs is the model's order (log 123), and teams with other
gang registers wait in rounds of their own (log 124); a row not
there yet makes it wait; a member waits until all have arrived; the last one issues the round, which ends the rendezvous: each
member in turn multiplies the leader's long operand by its own short operand into its own accumulator and goes on at its next
word, or faults with its digit and OVF, its WM occupied too; the leader's latch follows unless the leader overflowed. Members on distinct partitions,
off the stream, all take the windows of the sums, and no other team changes. -/
def Sys2Proof.Claims.GangMultiply : Prop :=
  (∀ (s : State) (t : Nat) (d a b : Byte) (keep : Bool), s.cur = .team t → Lanes s t →
    let i := if keep then Instr.wmulgk d a b else Instr.wmulg d a b
    let x := s.team t
    let h := x.info.harness
    let g := x.ctl.gang
    let ts := gangTeams s h g
    let n := d.toNat - 0xF0
    let inside := gangN g ≠ 0 ∧ t ∈ ts
    (¬ inside → Faults s t i 0x1B 0 0) ∧
    (inside → x.wm.cfg = none → Faults s t i 0x1A 0 0) ∧
    (inside → x.wm.cfg ≠ none → s.form t n = true → Illegal s t i) ∧
    (inside → x.wm.cfg ≠ none → s.form t n = false → b = 0xED → x.wm.sub = none → Illegal s t i) ∧
    (inside → x.wm.cfg ≠ none → s.form t n = false → b = 0xED → x.wm.sub ≠ none → ¬ RowReady s t → Waits s t i .retry) ∧
    (∀ c, inside → x.wm.cfg = some c → s.form t n = false → (b ≠ 0xED ∨ RowReady s t) →
      let r := (roundOf s h g).getD { gang := g, keep := keep, acc := n, cfg := c, strm := b == 0xED, here := [] }
      let same := r.keep = keep ∧ r.acc = n ∧ r.cfg = c ∧ r.strm = (b == 0xED)
      let ms := r.here.filter (fun m => m.1 != t) ++ [(t, a, b)]
      (¬ same → Faults s t i 0x1B 0 0) ∧
      (same → ¬ s.goesOn t → ∀ q, needs s i = some q → s.Passes t q → exec i s = .next (beyond s t i)) ∧
      (same → ms.length < ts.length → ∀ q, needs s i = some q → s.Normal t q → exec i s = .next (waitOn (s.putHarness h
        { s.harness h with gangs := (s.harness h).gangs.filter (·.gang != g) ++ [{ r with here := ms }] }) t .gang)) ∧
      (same → ts.length ≤ ms.length →
        let lead := ts.headD t
        let la := ((ms.find? fun m => m.1 == lead).map fun m => m.2.1).getD 0
        let o := longOf s lead la
        let v := memberParts i t c n o (s.putHarness h { s.harness h with gangs := (s.harness h).gangs.filter (·.gang != g) }) ms
        let u := if lead ∈ v.2 then v.1 else latchAfter v.1 lead keep la o
        (t ∉ v.2 → Completes s t i u) ∧
        (t ∈ v.2 → ∀ q, needs s i = some q → s.Normal t q → exec i s = .next u)))) ∧
  (∀ (i : Instr) (t0 : Nat) (c : WmConfig) (n : Nat) (o : BitVec 2048 × Bool) (s : State), memberParts i t0 c n o s [] = (s, []) ∧
    ∀ (m : Nat × Byte × Byte) (ms : List (Nat × Byte × Byte)),
      let p := memberPart i t0 c n o s m
      let q := memberParts i t0 c n o p.1 ms
      memberParts i t0 c n o s (m :: ms) = (q.1, p.2 ++ q.2)) ∧
  (∀ (i : Instr) (t0 t : Nat) (a b : Byte) (c : WmConfig) (n : Nat) (o : BitVec 2048 × Bool) (s : State), s.goesOn t →
    let on := fun u : State => if t = t0 then u else s.after t { passes := some 1 } u
    let moved := fun u : State => if b = 0xED then advance u t else u
    let ts := windowSums c (s.acc t n) o.1 (shortOf s t b)
    let res := memberPart i t0 c n o s (t, a, b)
    (o.2 = true → res = (on (moved s), [])) ∧
    (∀ j, o.2 = false → overflowAt c ts = some j →
      let w := if t = t0 then worked s t c else wake (worked s t c) t (s.team t).flow.path .retry
      let v := inWm w t (n / 2) .hold
      res = (teamFault (withWm v t { (v.team t).wm with ovf := true }) t 0x18 (w32 (c.base + j)) 0, [t])) ∧
    (o.2 = false → overflowAt c ts = none → ∃ u, res = (on (moved u), []) ∧
      (PartPlaced s t → n < 16 → sparseWf 0 ((s.harnessOf t).parts.getD (s.team t).info.part {}).acc = true →
        u.acc t n = writeWindow s t c ((s.launchOf t).slots.getD c.fr {}).rlx (s.acc t n) ts ∧ u.form t n = false ∧
        (u.team t).deps.m = (s.team t).deps.m + 1 ∧ (u.team t).regs = (s.team t).regs ∧ (u.team t).flow = (s.team t).flow ∧
        u.core (s.team t).info.core = (started s t c (n / 2)).core (s.team t).info.core ∧ (∀ p, u.byteAt p = s.byteAt p)))) ∧
  (∀ (i : Instr) (t0 : Nat) (c : WmConfig) (n : Nat) (o : BitVec 2048 × Bool) (s : State) (ms : List (Nat × Byte × Byte)),
    n < 16 → o.2 = false →
    ms.Pairwise (fun x y => x.1 ≠ y.1 ∧ ((s.team x.1).info.harness ≠ (s.team y.1).info.harness ∨
      (s.team x.1).info.part ≠ (s.team y.1).info.part)) →
    (∀ m ∈ ms, PartPlaced s m.1 ∧ s.goesOn m.1 ∧ m.2.2 ≠ 0xED ∧
      sparseWf 0 ((s.harnessOf m.1).parts.getD (s.team m.1).info.part {}).acc = true ∧
      overflowAt c (windowSums c (s.acc m.1 n) o.1 (shortOf s m.1 m.2.2)) = none) →
    let v := memberParts i t0 c n o s ms
    v.2 = [] ∧ (∀ t, (∀ m ∈ ms, m.1 ≠ t) → v.1.team t = s.team t) ∧ ∀ m ∈ ms,
      v.1.acc m.1 n = writeWindow s m.1 c ((s.launchOf m.1).slots.getD c.fr {}).rlx (s.acc m.1 n)
        (windowSums c (s.acc m.1 n) o.1 (shortOf s m.1 m.2.2)) ∧
      (v.1.team m.1).deps.m = (s.team m.1).deps.m + 1)

/-- EXTR writes digits from BASE on, 0 beyond the last; the EXTS family adds scaled digits to its elements; NORM replaces a digit form by
its value in binary form; ACLR clears; each occupies its WM. ACCST stores the 512 bytes of its issue, and ACCLD loads them with
the form B, by a wave two cycles after the issue; ACCST marks no register, waits for the reads of die scratch of its path that have still to act (log 102), and while a
watchpoint of shared memory is armed it holds the team's fetch (log 128); without a configuration, or on a binary form, EXTR and the EXTS family fault. -/
def Obligations.DigitsAndImages : Prop :=
  ∀ (s : State) (t : Nat), s.cur = .team t → Lanes s t →
    let x := s.team t
    let w := x.view
    let n := fun y : Byte => y.toNat - 0xF0
    let reads := ReadsOwed s x.path.mask
    let armed := ∃ k ∈ (s.harness x.info.harness).watch, ∃ y, k = some y ∧ y.scratch = false
    (x.wm.cfg = none → ∀ d a b, Faults s t (.extr d a) 0x1A 0 0 ∧ Faults s t (.norm d) 0x1A 0 0 ∧ Faults s t (.extsF32 d a b) 0x1A 0 0 ∧
      Faults s t (.extsBf16 d a b) 0x1A 0 0 ∧ Faults s t (.extsF16 d a b) 0x1A 0 0) ∧
    (∀ c, x.wm.cfg = some c → ∀ d a b,
      let v := s.acc t (n a)
      let dig := fun e => if e < 4096 / c.w then digit c.w v e else 0
      let exts := fun (f : Fmt) (m : Nat) => startWm (withRegs s t (wr w d fun k => BitVec.ofNat 32 (packElems f.width m fun j =>
        scaleAdd w f (elemOf f.width ((rd w d k).setWidth 64) j) (dig (c.base + m * k + j)) (elemOf f.width ((rd w b k).setWidth 64) j))))
        t [d] (n a / 2)
      (s.form t (n a) = true → Illegal s t (.extr d a) ∧ Illegal s t (.extsF32 d a b) ∧ Illegal s t (.extsBf16 d a b) ∧
        Illegal s t (.extsF16 d a b)) ∧
      (s.form t (n a) = false →
        Completes s t (.extr d a) (inWm (withRegs s t (wr w d fun k => BitVec.ofInt 32 (dig (c.base + k)))) t (n a / 2) .hold) ∧
        Completes s t (.extsF32 d a b) (exts fmt32 1) ∧ Completes s t (.extsBf16 d a b) (exts fmtBf 2) ∧
        Completes s t (.extsF16 d a b) (exts fmt16 2)) ∧
      (s.form t (n d) = true → Completes s t (.norm d) (startWm s t [d] (n d / 2))) ∧
      (s.form t (n d) = false → Completes s t (.norm d) (startWm (s.putAcc t (n d)
        (BitVec.ofInt 4096 ((List.range (4096 / c.w)).map fun e => digit c.w (s.acc t (n d)) e * 2 ^ (e * c.w)).sum) true) t [d] (n d / 2)))) ∧
    (∀ d, Completes s t (.aclr d) (inWm (s.putAcc t (n d) 0 false) t (n d / 2) .hold)) ∧
    (∀ d a b, let p := (rd w a 0).toNat; let h := s.harness x.info.harness;
      let lock := fun st : Bool => ∃ l ∈ h.locks, Overlaps l p 512 ∧ (l.dest = true ∨ st = true)
      let words := (List.range 128).map fun j =>
        ({ lane := 0, addr := p + 4 * j, op := some .xchg, d := (s.acc t (n d)).extractLsb' (32 * j) 32 } : Act)
      let ok := p % 64 = 0 ∧ p + 512 ≤ 0x180000
      (p % 64 ≠ 0 → Faults s t (.accst d a) 0x03 (w32 p) 0 ∧ Faults s t (.accld d a b) 0x03 (w32 p) 0) ∧
      (p % 64 = 0 → 0x180000 < p + 512 → Faults s t (.accst d a) 0x04 (w32 p) 0 ∧ Faults s t (.accld d a b) 0x04 (w32 p) 0) ∧
      (ok → lock true → Faults s t (.accst d a) 0x05 (w32 p) 0) ∧
      (ok → lock false → Faults s t (.accld d a b) 0x05 (w32 p) 0) ∧
      (ok → ¬ lock true → liveHit h p 512 = true → Faults s t (.accst d a) 0x06 (w32 p) 0) ∧
      (ok → ¬ lock true → liveHit h p 512 = false → reads → Waits s t (.accst d a) .retry) ∧
      (ok → ¬ lock true → liveHit h p 512 = false → ¬ reads →
        let u := startWm (laterWave s words none) t [] (n d / 2)
        (¬ armed → Completes s t (.accst d a) u) ∧
        (armed → Completes s t (.accst d a) (u.putTeam t { u.team t with fetch := [s.nextId] }))) ∧
      (ok → ¬ lock false →
        Completes s t (.accld d a b) (startWm (laterWave s [] (some (n d, b == 1, p))) t [d] (n d / 2)))) ∧
    (∀ (acts : List Act) (im : Option (Nat × Bool × Nat)),
      let u := laterWave s acts im
      u = { s with late := u.late } ∧ ∀ y, y ∈ u.late ↔ y ∈ s.late ∨
        y = { key := (s.time + 2) * 20000 + 5120 + x.info.core * 20 + x.info.part * 2, id := s.nextId, party := .team t
              path := x.flow.path, cycle := s.time, issued := x.perf.issued, acts := acts, image := im }) ∧
    (∀ (y : Late) z k bin p, y.image = some (k, bin, p) → y.party = .team z → PartPlaced s z → k < 16 →
      sparseWf 0 ((s.harnessOf z).parts.getD (s.team z).info.part {}).acc = true →
      let u := runLate s y
      u.acc z k = BitVec.ofNat 4096 (leNat (memBytes (s.harnessOf z).shared p 512)) ∧ u.form z k = bin ∧
      (∀ m, m ≠ k → u.acc z m = s.acc z m) ∧ (∀ q, u.byteAt q = s.byteAt q))

/-- STRM sets a stream from its descriptor, whose fields and addresses are checked; SUBS subscribes at the first row not
freed and UNSUBS ends that, freeing the rows that every other subscriber has passed; SKIPQ and WSTAT read the skip
count and the status, whose form bit is that after every operation issued on the accumulator, an ACCLD whose wave is to come among
them. The subscription of an ended team still counts: the model's choice (log 47). -/
def Obligations.StreamsAndStatus : Prop :=
  ∀ (s : State) (t : Nat), s.cur = .team t → Lanes s t →
    let x := s.team t
    let w := x.view
    let h := x.info.harness
    let hh := s.harness h
    (∀ d a, let p := (rd w a 0).toNat; let i := Instr.strm d a;
      let base := (memWord hh.shared p).toNat
      let rows := ((memWord hh.shared (p + 4)).extractLsb' 0 16).toNat
      let win := ((memWord hh.shared (p + 4)).extractLsb' 16 16).toNat
      let fill := (memWord hh.shared (p + 8)).toNat
      let free := (memWord hh.shared (p + 12)).toNat
      let aligned := base % 256 = 0 ∧ fill % 16 = 0 ∧ free % 16 = 0
      let fits := base + 256 * rows ≤ 0x180000 ∧ fill < 0x180000 ∧ free < 0x180000
      let ok := 1 ≤ rows ∧ rows ≤ 6144 ∧ 1 ≤ win ∧ win ≤ rows ∧ positions s h d.toNat = []
      (p % 16 ≠ 0 → Faults s t i 0x03 (w32 p) 0) ∧
      (p % 16 = 0 → 0x180000 < p + 16 → Faults s t i 0x04 (w32 p) 0) ∧
      (p % 16 = 0 → p + 16 ≤ 0x180000 → ¬ aligned → ∃ v, Faults s t i 0x03 v 0) ∧
      (p % 16 = 0 → p + 16 ≤ 0x180000 → aligned → ¬ fits → ∃ v, Faults s t i 0x04 v 0) ∧
      (p % 16 = 0 → p + 16 ≤ 0x180000 → aligned → fits → ¬ ok → Illegal s t i) ∧
      (p % 16 = 0 → p + 16 ≤ 0x180000 → aligned → fits → ok → Completes s t i (s.putHarness h { hh with
        streams := hh.streams.set d.toNat
          (some { base := base, rows := rows, win := win, fill := fill, free := free, filled := 0, freed := 0 }) }))) ∧
    (∀ d y, x.wm.sub = none → hh.streams.getD d.toNat none = some y →
      Completes s t (.subs d) (withWm s t { x.wm with sub := some (d.toNat, y.freed) })) ∧
    (∀ d, (x.wm.sub ≠ none ∨ hh.streams.getD d.toNat none = none) → Illegal s t (.subs d)) ∧
    (x.wm.sub = none → Completes s t .unsubs s) ∧
    (∀ k p, x.wm.sub = some (k, p) →
      let u := withWm s t { x.wm with sub := none }
      Completes s t .unsubs (freeRows h k (freeable u h k) u)) ∧
    (∀ d a, Completes s t (.skipq d a)
      (s.putTeam t { x with regs := wrS x.regs d x.wm.skips, wm := { x.wm with skips := if a = 1 then 0 else x.wm.skips } })) ∧
    (∀ d a,
      let l := match x.wm.latch with
        | some l => (if l.skip then 2 ^ 16 else 0) + 2 ^ 15 + l.reg
        | none => 0
      let k := a.toNat - 0xF0
      let sets := fun (y : Late) (bin : Bool) => ∃ u p, y.party = .team u ∧ y.image = some (k, bin, p) ∧
        (s.team u).info.harness = h ∧ (s.team u).info.part = x.info.part
      ∃ form : Bool, ((∀ y ∈ s.late, ∀ bin, ¬ sets y bin) → form = s.form t k) ∧
        (∀ pre y post bin, s.late = pre ++ y :: post → sets y bin → (∀ z ∈ post, ∀ b, ¬ sets z b) → form = bin) ∧
      let v := (if form then 2 ^ 19 else 0) + (if x.wm.cfg.isSome then 2 ^ 18 else 0) + (if x.wm.ovf then 2 ^ 17 else 0) + l
      Completes s t (.wstat d a) (s.putTeam t { x with regs := wrS x.regs d (w32 v), wm := { x.wm with ovf := false } }))

/-! ## What hosts, queues and the module's own engines do -/

namespace Sys2Proof.Claims
open Sys2Proof.Machine

/-- The action event starts the packet `raw` that stands at hand in its queue: the checks of acceptance let it through as `p`, and
it is accepted; `b` is the state before the acceptance, `v` the one after it. -/
def Begins (s : State) (ty : Nat) (raw p : Packet) (b v : State) : Prop :=
  let f := s.ev.f
  let q := s.ev.q
  startsFor s f q s.ev.seq ty = some raw ∧ (s.queue f q).held = none ∧ ∃ p0 buf, admission s f q raw = .ok b p0 buf ∧ p0.done = false ∧
    p = { p0 with started := true, id := b.nextId, unit := (b.queue f q).rdidx, raw := raw.words } ∧ v = accept (serveQueue b f q) f q raw p buf

/-- The home processor has served the queue, and the writes that the program of the held packet `raw` has buffered are made. -/
def heldWritten (s : State) (f q : Nat) (raw : Packet) : State := sigWrites (serveQueue s f q) f (some (f, q, raw.id)) raw.buf

/-- The action event starts the packet `raw`, accepted before and held until now, as `p`. -/
def BeginsHeld (s : State) (ty : Nat) (raw p : Packet) (v : State) : Prop :=
  let f := s.ev.f
  let q := s.ev.q
  startsFor s f q s.ev.seq ty = some raw ∧ (s.queue f q).held = some raw ∧ raw.done = false ∧
    p = { raw with started := true, buf := [] } ∧ v = putPacket (heldWritten s f q raw) f q raw p

/-- The action event goes on with the packet `p`, started before. -/
def GoesOn (s : State) (ty : Nat) (p : Packet) : Prop :=
  startsFor s s.ev.f s.ev.q s.ev.seq ty = none ∧ packetFor s s.ev.f s.ev.q s.ev.seq ty = some p

/-- What an error with code `n` of an accepted packet leaves: the packet leaves its queue, which stops unless it is of an earlier
life, and the packets accepted after it that have not started are taken back. -/
def lostPacket (f q : Nat) (p : Packet) (u : State) (n : Nat) : State :=
  if p.orphan then sendEvent (dropPacket u f q p) f 1 [w32 q, p.seq, w32 n]
  else packetError (dropPacket (takeBack u f q p) f q p) f q p.seq n

/-- The action event of type `ty` works on packet `p` from state `v`; `e u n` is what an error with code `n` leaves when the action
stops in `u`: a packet that is accepted with its start is read and not accepted, an accepted one leaves its queue; at the start
of a held one nothing else of it has taken effect. -/
def Acts (s : State) (ty : Nat) (p : Packet) (v : State) (e : State → Nat → State) : Prop :=
  let f := s.ev.f
  let q := s.ev.q
  (GoesOn s ty p ∧ v = s ∧ e = lostPacket f q p) ∨ (∃ raw, BeginsHeld s ty raw p v ∧ e = fun _ n => lostPacket f q raw (serveQueue s f q) n) ∨
  (∃ raw b, Begins s ty raw p b v ∧ e = fun _ n => packetError (commit (serveQueue b f q) f q raw) f q raw.seq n)

/-- The action of a packet is done, in the state `u` it has left. -/
def PacketDone (s : State) (i : Instr) (p : Packet) (u : State) : Prop :=
  exec i s = .next (putPacket u s.ev.f s.ev.q p { p with done := true })

/-- The action events of packets: the type, the operation of a GRAPHOP, the event. -/
def packetKinds : List (Nat × Option Nat × Instr) :=
  [(1, none, .launch), (2, none, .waitall), (3, none, .waitany), (4, none, .signal), (5, none, .mbox), (6, none, .gputPacket),
    (7, none, .cancel), (8, none, .copy), (9, none, .qfence), (11, none, .eventreq), (12, none, .qprog), (10, some 1, .graphopSetPriority),
    (10, some 2, .graphopAppendTask), (10, some 3, .graphopRemoveTask), (10, some 4, .graphopDefinePool), (10, some 5, .graphopBindEgress),
    (10, some 6, .graphopBindServiceRing), (10, some 7, .graphopBindTraceRing)]

/-- A GRAPHOP packet of operation `op` on launch `l`, worked on from `v`. -/
def Graph (s : State) (op : Nat) (p : Packet) (v : State) (e : State → Nat → State) (l : Nat) : Prop :=
  Acts s 10 p v e ∧ (p.w 4).toNat = op ∧ handleOf v s.ev.f p = some l

/-- No entry of a TLB maps a byte of `n` at `va` for function `f`. -/
def Unmapped (f va n : Nat) (l : List TlbEntry) : Prop := ∀ e ∈ l, e.f = f → va + n ≤ e.base ∨ e.base + e.size ≤ va

end Sys2Proof.Claims

section
open Sys2Proof Sys2Proof.Machine Sys2Proof.Claims

/-- A notify ahead by 1 to 2^31 moves the index of a queue in state 1, 2 or 3, and any other is ignored; beyond the ring
it is an overrun, with state 3 and code 7; each of these wakes an idle module. Create, destroy and resume act in the states the spec gives them;
packets of an earlier life do not hold a destroy back. The model's choices here: the SEQ field of the overrun message is a free value (log 12), a function not in STATE 1 is not
served (log 59), and a create leaves LASTACC and LASTCOMP at NEXTSEQ - 1 (log 83). -/
def Sys2Proof.Claims.QueueControl : Prop :=
  (∀ s : State, wakeModule s = if s.svc.power = .idle ∧ ∀ e ∈ s.agenda, e.1 ≠ .idleExit then s.post .idleExit {} else s) ∧
  (∀ (s : State),
    let f := s.ev.f
    let q := (s.ev.v.extractLsb' 0 11).toNat
    let i := s.ev.v.extractLsb' 32 32
    let x := s.queue f q
    let d := (i - x.notified).toNat
    let takes := fnUp s f = true ∧ (x.state = 1 ∨ x.state = 2 ∨ x.state = 3) ∧ 1 ≤ d ∧ d ≤ 2 ^ 31
    let past := x.state = 1 ∧ 2 ^ x.logn < (i - x.rdidx).toNat
    let u := wakeModule s
    (¬ takes → exec .notify s = .next u) ∧
    (takes → (f < 64 → f < s.funcs.length) → ¬ past → exec .notify s = .next (u.putQueue f q { x with notified := i })) ∧
    (takes → (f < 64 → f < s.funcs.length) → past → exec .notify s = .next
      (sendEvent (u.putQueue f q { x with notified := i, state := 3, taken := none }) f 1 [w32 q, Config.freeWord s.freeIx, 7]))) ∧
  (∀ (s : State),
    let f := s.ev.f
    let q := s.ev.q
    let x := s.queue f q
    let up := fnUp s f = true
    let u := wakeModule s
    let badSize := x.logn < 6 ∨ 16 < x.logn
    let badRing := x.ringoff.toNat % 4096 ≠ 0 ∨ s.svc.qmemLen < x.ringoff.toNat + 64 * 2 ^ x.logn
    let past := 2 ^ x.logn < (x.notified - x.rdidx).toNat
    (¬ (up ∧ x.state = 0) → exec .queueCreate s = .next u) ∧
    (up → x.state = 0 → ¬ badSize → ¬ badRing → exec .queueCreate s = .next (u.putQueue f q { x with
      state := 1, rdidx := 0, notified := 0, lastacc := x.nextseq - 1, lastcomp := x.nextseq - 1, finished := [] })) ∧
    (up → x.state = 0 → badSize → exec .queueCreate s = .next (sendEvent u f 1 [w32 q, x.nextseq, 2])) ∧
    (up → x.state = 0 → ¬ badSize → badRing → exec .queueCreate s = .next (sendEvent u f 1 [w32 q, x.nextseq, 3])) ∧
    (up → x.state = 4 → exec .queueDestroy s =
      .next (u.putQueue f q { x with state := 0, taken := none, accepted := x.accepted.map fun p => { p with orphan := true } })) ∧
    (up → x.state = 1 ∨ x.state = 2 ∨ x.state = 3 →
      ((∀ p ∈ x.accepted, p.orphan = true) → exec .queueDestroy s = .next (u.putQueue f q { x with state := 0, taken := none })) ∧
      (∀ p ∈ x.accepted, p.orphan = false → exec .queueDestroy s = .next (u.putQueue f q { x with state := 5, taken := none }))) ∧
    (¬ up ∨ x.state = 0 ∨ x.state = 5 → exec .queueDestroy s = .next u) ∧
    (¬ (up ∧ (x.state = 2 ∨ x.state = 3)) → exec .queueResume s = .next u) ∧
    (up → x.state = 2 ∨ x.state = 3 →
      (¬ past → exec .queueResume s = .next (u.putQueue f q { x with state := 1 })) ∧
      (past → exec .queueResume s = .next
        (sendEvent (u.putQueue f q { x with state := 3, taken := none }) f 1 [w32 q, Config.freeWord s.freeIx, 7]))))

/-- An 8-byte write to a register without behaviour: a queue entry takes LOGN, RINGOFF and NEXTSEQ in states 0, 2 and 3
alone, which wakes an idle module; a function-table entry its fields in STATE 0 alone, DBGDATA and the nonce all 8 bytes. That a field which may
not be written keeps its value, and a partial write the other bytes, is the model's choice (log 71). -/
def Sys2Proof.Claims.RegisterFields : Prop :=
  ∀ (s : State), s.ev.bytes.length = 8 → s.ev.off % 8 = 0 →
    let f := s.ev.f
    let u := wakeModule s
    let o := s.ev.off
    let v := BitVec.ofNat 64 (leNat s.ev.bytes)
    (o < 0x10000 →
      let q := o / 32
      let x := s.queue f q
      let opens := x.state = 0 ∨ x.state = 2 ∨ x.state = 3
      (¬ opens → exec .registerWrite s = .next (u.putQueue f q x)) ∧
      (opens → o % 32 = 0 → exec .registerWrite s =
        .next (u.putQueue f q { x with logn := (v.extractLsb' 16 5).toNat, ringoff := v.extractLsb' 32 32 })) ∧
      (opens → o % 32 = 16 → exec .registerWrite s = .next (u.putQueue f q { x with nextseq := v.extractLsb' 32 32 }))) ∧
    (o = 0x20020 → exec .registerWrite s = .next (u.putFunc f { s.func f with dbgdata := v })) ∧
    (∀ p, p < 4 → o = 0x20040 + 8 * p →
      ∃ n, exec .registerWrite s = .next (u.putFunc f { s.func f with nonce := n }) ∧
        n.extractLsb' (64 * p) 64 = v ∧
        ∀ r, r < 4 → r ≠ p → n.extractLsb' (64 * r) 64 = (s.func f).nonce.extractLsb' (64 * r) 64) ∧
    (64 ≤ f → 0x30000 ≤ o → o < 0x30800 →
      let g := (o - 0x30000) / 32
      let x := s.func g
      (x.state ≠ 0 → exec .registerWrite s = .next (u.putFunc g x)) ∧
      (x.state = 0 → o % 32 = 0 → exec .registerWrite s = .next (u.putFunc g { x with root := v.setWidth 57 &&& ~~~0x1FFFF })) ∧
      (x.state = 0 → o % 32 = 8 → exec .registerWrite s = .next (u.putFunc g { x with
        slw := v.extractLsb' 24 8, wmw := v.extractLsb' 16 8, bfgrp := v.extractLsb' 12 4, ccnt := v.extractLsb' 0 9
        cbase := v.extractLsb' 56 8, slen := v.extractLsb' 44 12, sbase := v.extractLsb' 32 12 })) ∧
      (x.state = 0 → o % 32 = 16 → exec .registerWrite s = .next (u.putFunc g { x with evtaddr := v &&& ~~~0x1F })))

/-- PACKET_ACCEPT and PACKET_POLL read the unit at RDIDX once it is notified and V = 1, unless a QPROG before it is still at work. A
SEQ ahead stops the queue with code 8, one behind is dropped; the next one is an error with state 3 when its type is undefined,
stands at hand when its action may start, and is accepted at once when its action is held by what is accepted before it. Its
program, its checks and its signal come first, and an error leaves it read and not accepted, its program's writes undone; those of a
held packet are made when it starts. A packet at hand is accepted with the start of its action, when its home processor's round (its order: log 106) reaches
its queue; a GPUT starts once no earlier operation has reserved its cells. When acceptance
comes (log 88), the order of the checks (logs 56, 93) and the code of a bad SIGNAL operation (log 94) are the model's. -/
def Sys2Proof.Claims.PacketReading : Prop :=
  (∀ (s : State) (i : Instr), i = .packetAccept ∨ i = .packetPoll →
    let f := s.ev.f
    let q := s.ev.q
    let x := s.queue f q
    let first := unitWords s f x 0
    let n := if packetType first = 2 ∨ packetType first = 3 then 4 else 1
    let ready := canRead s f q = true ∧ (first.getD 0 0).getLsbD 8 = true ∧ n ≤ (x.notified - x.rdidx).toNat
    let ws := (List.range n).flatMap (unitWords s f x)
    let seq := ws.getD 1 0
    let behind := (x.nextseq - seq).toNat
    let ty := packetType ws
    let p : Packet := { seq := seq, words := ws }
    (¬ ready → exec i s = .next s) ∧
    (ready → 2 ^ 31 < behind → exec i s = .next (sendEvent (s.putQueue f q { x with state := 2 }) f 1 [w32 q, seq, 8])) ∧
    (ready → 1 ≤ behind → behind ≤ 2 ^ 31 → exec i s = .next ((clearValid s f x n).putQueue f q { x with rdidx := x.rdidx + w32 n })) ∧
    (ready → behind = 0 → ty = 0 ∨ 12 < ty → exec i s = .next (packetError (commit s f q p) f q seq 1)) ∧
    (ready → behind = 0 → 1 ≤ ty → ty ≤ 12 → mayStart x.accepted p = true → exec i s = .next (s.putQueue f q { x with taken := some p })) ∧
    (ready → behind = 0 → 1 ≤ ty → ty ≤ 12 → mayStart x.accepted p = false →
      (∀ u code, admission s f q p = .fail u code → exec i s = .next (packetError (commit u f q p) f q seq code)) ∧
      (∀ u r buf, admission s f q p = .ok u r buf → exec i s = .next (accept u f q p { r with buf := buf } [])))) ∧
  (∀ (s : State) f q, let x := s.queue f q
    let d := (x.notified - x.rdidx).toNat
    canRead s f q = true ↔ s.svc.power = .run ∧ fnUp s f = true ∧ x.state = 1 ∧ (∃ n, homeOf s f q = some n) ∧ 1 ≤ d ∧ d ≤ 2 ^ 31 ∧
      x.taken = none ∧ ∀ p ∈ x.accepted, p.orphan = true ∨ p.type ≠ 12 ∨ p.done = true) ∧
  (∀ (s : State) f q seq ty p, startsFor s f q seq ty = some p →
    let x := s.queue f q
    p.seq = seq ∧ p.type = ty ∧ fnUp s f = true ∧ (s.svc.power = .run ∨ s.svc.power = .idle) ∧
    ((x.held = some p ∧ x.state ∈ [1, 2, 3, 5] ∧ (∃ pre post, x.accepted = pre ++ p :: post ∧ mayStart pre p = true) ∧ cellsTaken s f p = false) ∨
      (x.held = none ∧ x.taken = some p ∧ x.state = 1 ∧ mayStart x.accepted p = true ∧ waitsForCells s f q p = false)) ∧
    ∃ n, homeOf s f q = some n ∧ ∀ g r, (g, r) ∈ allQueues s → homeOf s g r = some n → isReady s g r = true →
      let far := fun k : Nat => (k + 133120 - s.turns.getD n 0 % 133120) % 133120
      far (queueKey f q) ≤ far (queueKey g r)) ∧
  (∀ (s : State) f (p : Packet), cellsTaken s f p = true ↔ p.type = 6 ∧ p.done = false ∧
    ∃ l, handleOf s f p = some l ∧ cellsBusy s l (p.w 6).toNat (p.w 7).toNat (p.w 8).toNat = true) ∧
  (∀ (s : State) f q (p : Packet), waitsForCells s f q p = true ↔ p.type = 6 ∧
    ∃ u r buf, admission s f q p = .ok u r buf ∧ cellsTaken u f r = true) ∧
  (∀ (l : List Packet) (p : Packet), mayStart l p = true ↔
    (∀ e ∈ l, e.orphan = false → e.started = true ∧ e.type ≠ 2 ∧ e.type ≠ 3) ∧ (p.bar = true ∨ p.type = 9 → ∀ e ∈ l, e.orphan = true)) ∧
  (∀ (s : State) f q (p : Packet),
    let a := qProgram s f (s.queue f q) p.words
    (∀ n, a.2 = .fail n → admission s f q p = .fail a.1 n) ∧
    (∀ r, a.2 = .drop r → let p' := { p with words := r.words, done := true }
      (p'.csigAddr % 8 ≠ 0 → admission s f q p = .fail a.1 3) ∧
      (∀ u n, p'.csigAddr % 8 = 0 → holdCsig a.1 f p' = (u, .error n) → admission s f q p = .fail u n) ∧
      (∀ u l, p'.csigAddr % 8 = 0 → holdCsig a.1 f p' = (u, .ok l) → admission s f q p = .ok u { p' with csig := l } r.buf)) ∧
    (∀ r, a.2 = .pass r → let p' := { p with words := r.words }
      (packetCheck p' ≠ 0 → admission s f q p = .fail a.1 (packetCheck p')) ∧
      (∀ u n, packetCheck p' = 0 → holdCsig a.1 f p' = (u, .error n) → admission s f q p = .fail u n) ∧
      (∀ u l, packetCheck p' = 0 → holdCsig a.1 f p' = (u, .ok l) → admission s f q p = .ok u { p' with csig := l } r.buf))) ∧
  (∀ (s : State) ty o i p, (ty, o, i) ∈ packetKinds → startsFor s s.ev.f s.ev.q s.ev.seq ty = some p →
    let f := s.ev.f
    let q := s.ev.q
    let x := s.queue f q
    (x.held = none →
      (∀ u n, admission s f q p = .fail u n → exec i s = .next (packetError (commit (serveQueue u f q) f q p) f q p.seq n)) ∧
      (∀ u r buf, admission s f q p = .ok u r buf →
        (r.done = true → exec i s = .next (accept (serveQueue u f q) f q p { r with started := true, id := u.nextId } buf)) ∧
        (∀ k, r.done = false → o = some k → (r.w 4).toNat ≠ k → exec i s = .next s))) ∧
    (x.held = some p →
      (p.done = true → exec i s = .next (putPacket (heldWritten s f q p) f q p { p with started := true, buf := [] })) ∧
      (∀ k, p.done = false → o = some k → (p.w 4).toNat ≠ k → exec i s = .next s))) ∧
  (∀ (s : State) f q (p r : Packet) buf, (f < 64 → f < s.funcs.length) →
    let x := s.queue f q
    let y : Queue := { x with rdidx := x.rdidx + w32 p.units, lastacc := p.seq, nextseq := p.seq + 1, taken := none }
    (commit s f q p).queue f q = y ∧
    (accept s f q p r buf).queue f q = { y with accepted := x.accepted ++ [{ r with id := s.nextId, unit := x.rdidx, raw := p.words }] }) ∧
  (∀ (p : Packet), 1 ≤ p.type → p.type ≤ 12 →
    let ty := p.type
    let cond := fun c : Nat => c ≤ 3 ∨ c = 6 ∨ c = 7
    let fields := (p.w 0).extractLsb' 11 21 = 0 ∧ ∀ j, j < 12 → p.w (4 + j) &&& ~~~((payloadMask ty).getD j 0) = 0
    let ok := fields ∧ (ty = 2 ∨ ty = 3 → 1 ≤ p.count ∧ p.count ≤ 12 ∧ ∀ j, j < p.count → cond (p.entry j).2.1) ∧
      (ty = 11 → cond ((p.w 4).extractLsb' 0 3).toNat) ∧ (ty = 4 → (p.w 8).extractLsb' 0 2 ≠ 3) ∧
      (ty = 6 → p.w 8 ≠ 0 ∧ (p.w 9).extractLsb' 0 2 ≠ 0) ∧ (ty = 8 → p.w 8 ≠ 0) ∧
      (ty = 10 → 1 ≤ (p.w 4).toNat ∧ (p.w 4).toNat ≤ 7) ∧ (ty = 12 → (p.w 6).toNat ≤ 1024)
    let aligned := p.csigAddr % 8 = 0 ∧ (ty = 4 → p.q64 4 % 8 = 0) ∧ (ty = 1 → p.q64 4 % 256 = 0)
    (¬ ok → packetCheck p = 2) ∧ (ok → ¬ aligned → packetCheck p = 3) ∧ (ok → aligned → packetCheck p = 0))

/-- Which packet an action event works on, and the actions of SIGNAL, WAITALL, WAITANY, MBOX, CANCEL, COPY, QFENCE, QPROG
and EVENTREQ: what each does, when it waits, and the code of each error, at its start and when it goes on. An MBOX first waits until the
ports hold no more of the writes that its home processor's packets had made (log 103). A handle that fits two
live launches (log 89), a CANCEL of an unused sequence (log 62), the single step of COPY (log 63), the order of EVENTREQ's
codes (log 111), the one message of an event request (log 65), a SIGNAL that adds at the word's home (log 103) and checks
of records at the start (log 56) are the model's choices. -/
def Sys2Proof.Claims.PacketActions : Prop :=
  (∀ (s : State) f q seq ty p, packetFor s f q seq ty = some p →
    p ∈ (s.queue f q).accepted ∧ p.seq = seq ∧ p.type = ty ∧ p.started = true ∧ p.done = false ∧
    (s.svc.power = .run ∨ s.svc.power = .idle) ∧ (homeOf s f q).isSome = true ∧
    (fnUp s f = true ∨ (s.func f).state = 2)) ∧
  (∀ (s : State) p v e, Acts s 4 p v e →
    (∀ u, signalPlace v s.ev.f .write (p.q64 4) = (u, none) → exec .signal s = .next (e u 3)) ∧
    (∀ u l, signalPlace v s.ev.f .write (p.q64 4) = (u, some l) →
      let x := BitVec.ofNat 64 (p.q64 6)
      let by' := some (s.ev.f, s.ev.q, p.id)
      (p.w 8 = 0 → PacketDone s .signal p (u.ioStore by' l (leBytes 8 x.toNat))) ∧
      (p.w 8 = 1 → PacketDone s .signal p (u.ioAdd by' l x)) ∧ (p.w 8 = 2 → PacketDone s .signal p (u.ioAdd by' l (-x))))) ∧
  (∀ (s : State) p l v,
    let k := freestPort s
    (portAt 0 k l = none → s.ioAdd p l v = s.locStore l (leBytes 8 (BitVec.ofNat 64 (leNat (s.locBytes l 8)) + v).toNat)) ∧
    (portAt 0 k l ≠ none → s.ioAdd p l v =
      ({ s with nextId := s.nextId + 1
                portWrites := s.portWrites ++ [{ id := s.nextId, port := k, loc := l, bytes := [], add := some v, packet := p }] } :
        State).post .transferComplete { id := s.nextId })) ∧
  (∀ (s : State) p v e (all : Bool), Acts s (if all then 2 else 3) p v e →
    let i := if all then Instr.waitall else Instr.waitany
    let c := comparisons s.ev.f v ((List.range p.count).map p.entry)
    let met := fun bs : List Bool => if all then ∀ b ∈ bs, b = true else true ∈ bs
    (∀ u, c = (u, none) → exec i s = .next (e u 3)) ∧
    (∀ u bs, c = (u, some bs) → (met bs → PacketDone s i p u) ∧ (¬ met bs → exec i s = .next u))) ∧
  (∀ (s : State) p (all : Bool), GoesOn s (if all then 2 else 3) p → (all = false → packetFor s s.ev.f s.ev.q s.ev.seq 2 = none) →
    exec .waitEvaluation s = exec (if all then .waitall else .waitany) s) ∧
  (∀ (s : State), (∀ ty, ty = 2 ∨ ty = 3 → packetFor s s.ev.f s.ev.q s.ev.seq ty = none) → exec .waitEvaluation s = .next s) ∧
  (∀ (es : List (Nat × Nat × BitVec 64)) (s u : State) (f : Nat) bs, comparisons f s es = (u, some bs) →
    bs.length = es.length ∧ ∀ j (hj : j < es.length), ∃ w l, (signalPlace w f .read es[j].1).2 = some l ∧
      bs[j]? = some (cond50 es[j].2.1 (signalValue s l) es[j].2.2)) ∧
  (∀ (s : State) p v e, Acts s 5 p v e →
    let f := s.ev.f
    let m := (p.w 4).toNat
    let msg := [p.w 6, p.w 7, p.w 8, p.w 9, p.w 10, p.w 11, p.w 12, p.w 13]
    let before := match p.after with
      | some ids => ids
      | none => writesOut v f s.ev.q
    let out := ∃ j ∈ before, (∃ w ∈ v.portWrites, w.id = j) ∨ ∃ g ∈ v.graded, g.id = j
    (out → exec .mbox s = .next (putPacket v f s.ev.q p { p with after := some before })) ∧
    (¬ out → putWaits v f m = true → exec .mbox s = .next (joinPuts v f m (.packet s.ev.q p.id) msg)) ∧
    (¬ out → putWaits v f m = false → PacketDone s .mbox p (mboxPut v f m msg))) ∧
  (∀ (s : State) f q j,
    let mine := fun k : Option (Nat × Nat × Nat) => ∃ g r n, k = some (g, r, n) ∧ homeOf s g r = homeOf s f q
    j ∈ writesOut s f q ↔ (∃ w ∈ s.portWrites, w.id = j ∧ mine w.packet) ∨ ∃ w ∈ s.graded, w.id = j ∧ mine w.packet) ∧
  (∀ (s : State) p v e, Acts s 7 p v e →
    (handleOf v s.ev.f p = none → exec .cancel s = .next (e v 2)) ∧
    (∀ l, handleOf v s.ev.f p = some l →
      let x := v.launch l
      let q := (p.w 12).toNat
      (q ∈ x.cancelled → PacketDone s .cancel p v) ∧
      (q ∉ x.cancelled → PacketDone s .cancel p (v.putLaunch l { x with cancelled := x.cancelled ++ [q] })))) ∧
  (∀ (s : State) p v e, Acts s 8 p v e →
    let n := (p.w 8).toNat
    let a := resolve v .io s.ev.f .read (p.q64 4) n
    let b := resolve a.1 .io s.ev.f .write (p.q64 6) n
    (a.2.chk ≠ .ok → exec .copy s = .next (e a.1 3)) ∧ (a.2.chk = .ok → b.2.chk ≠ .ok → exec .copy s = .next (e b.1 3)) ∧
    (a.2.chk = .ok → b.2.chk = .ok →
      PacketDone s .copy p (ioPlaces (some (s.ev.f, s.ev.q, p.id)) b.1 b.2.locs (a.2.locs.flatMap fun e => b.1.ioBytes e.1 e.2)))) ∧
  (∀ (s : State) p v e, Acts s 9 p v e → PacketDone s .qfence p v) ∧
  (∀ (s : State) p v e, Acts s 12 p v e →
    let f := s.ev.f
    let q := s.ev.q
    let x := v.queue f q
    let a := p.q64 4
    let n := (p.w 6).toNat
    let ws := (List.range n).map fun i => memWord (v.func f).qmem (a + 4 * i)
    let badPlace := a % 4 ≠ 0 ∨ v.svc.qmemLen < a + 4 * n
    (n = 0 → PacketDone s .qprog p (v.putQueue f q { x with prog := [], progMask := 0 })) ∧
    (n ≠ 0 → badPlace → exec .qprog s = .next (e v 3)) ∧
    (n ≠ 0 → ¬ badPlace → qProgramOk ws = false → exec .qprog s = .next (e v 6)) ∧
    (n ≠ 0 → ¬ badPlace → qProgramOk ws = true → PacketDone s .qprog p (v.putQueue f q { x with
      prog := ws, progMask := (p.w 7).extractLsb' 0 12, sigBase := p.q64 8, sigLen := (p.w 10).toNat }))) ∧
  (∀ (s : State) p v e, Acts s 11 p v e →
    let f := s.ev.f
    let a := p.q64 4 / 8 * 8
    (∀ u, signalPlace v f .read a = (u, none) → exec .eventreq s = .next (e u 3)) ∧
    (∀ u l, signalPlace v f .read a = (u, some l) →
      let fn := u.func f
      (256 ≤ fn.evreqs.length → exec .eventreq s = .next (e u 6)) ∧
      (fn.evreqs.length < 256 → PacketDone s .eventreq p (u.putFunc f { fn with
        evreqs := fn.evreqs ++ [{ addr := a, cond := ((p.w 4).extractLsb' 0 3).toNat, cmp := BitVec.ofNat 64 (p.q64 6) }] }))))

/-- LAUNCH ends with the code of its first failed check, or is accepted; a GPUT from a host checks all its cells before it
writes any; what an accepted launch adds: one launch, which holds the places of its code as they were found at its acceptance, one
harness for each virtual core, its teams as the seats give them. That the records are read in one step (log 75), that graded and pool pages are checked there and at the code range (log 120), that a code range past the address space is code 3 (log 90), the order of GPUT's codes (log 111) and that a host's hop count
is 0 (log 48) are the model's choices. -/
def Sys2Proof.Claims.LaunchAndHostWrites : Prop :=
  (∀ (s : State) p v0 e, Acts s 1 p v0 e →
    let f := s.ev.f
    let fails := fun (u : State) (code : Nat) => exec .launch s = .next (e u code)
    (∀ u, readRecord v0 f (p.q64 4) 256 = (u, none) → fails u 9) ∧
    (∀ u b, readRecord v0 f (p.q64 4) 256 = (u, some b) →
      let h := readHeader b
      let roles := (List.range h.nrole).map fun r => (readRole b (0x40 + 32 * r)).1
      (firstPhase b ≠ 0 → fails u (firstPhase b)) ∧
      (∀ v, firstPhase b = 0 → secondRecords u f h = (v, none) → fails v 9) ∧
      (∀ v held rb tb, firstPhase b = 0 → secondRecords u f h = (v, some (held, rb, tb)) →
        let rs := (List.range h.nreg).map fun g => readRegion rb (32 * g)
        let ts := (List.range h.ntask).map fun t => readTask (tb.drop (128 * t)) h.nrole (rs.map (·.1))
        let r := secondPhase v f h.ncore roles rs ts
        let code := resolve u .io f .read h.codebase h.codesize
        code.2.chk = .ok ∧ held = code.2.locs ∧
        (r.2 ≠ 0 → fails r.1 r.2) ∧
        (r.2 = 0 → PacketDone s .launch p (acceptLaunch r.1 f s.ev.q p.seq h roles
          ((List.range 8).map fun i => (readSlot b (0xC0 + 8 * i)).1) (rs.map (·.1)) (ts.map (·.1)) held))))) ∧
  (∀ (s : State) f q seq h roles slots rs ts held x, placement s f h.ncore roles = some x →
    let s' := acceptLaunch s f q seq h roles slots rs ts held
    let l := s.launches.length
    s'.launches.length = l + 1 ∧ (∀ m, m < l → s'.launch m = s.launch m) ∧
    (s'.launch l).f = f ∧ (s'.launch l).q = q ∧ (s'.launch l).seq = seq ∧ (s'.launch l).fpol = h.fpol ∧
    (s'.launch l).roles = roles ∧ (s'.launch l).slots = slots ∧ (s'.launch l).regions = rs ∧ (s'.launch l).codeMap = held ∧ (s'.launch l).live = true ∧
    s'.harnesses.length = s.harnesses.length + h.ncore ∧ s'.teams.length = s.teams.length + h.ncore * x.seats.length ∧
    (∀ v, v < h.ncore → (s'.harness (s.harnesses.length + v)).core = ((s.func f).cbase.toNat + v) % 256) ∧
    (∀ v j y, v < h.ncore → x.seats[j]? = some y →
      s'.team (s.teams.length + v * x.seats.length + j) =
        newTeam (s.harnesses.length + v) l (((s.func f).cbase.toNat + v) % 256) v roles y) ∧
    (∀ t, t < s.teams.length → s'.team t = s.team t)) ∧
  (∀ h l core cid (roles : List Role) (x : Seat),
    let r := roles.getD x.role {}
    let t := newTeam h l core cid roles x
    t.path = { pc := r.entry, mask := lanesMask r.grp } ∧ t.flow.path = 0 ∧ t.live = 1 ∧ t.regs = {} ∧ t.info.budget = 8 * r.bud ∧
      t.info.grp = r.grp ∧ t.ctl.tvec = BitVec.ofNat 22 r.trapv ∧ t.ctl.inh = false ∧ t.ctl.mr = 0) ∧
  (∀ (s : State) p v e, Acts s 6 p v e →
    let f := s.ev.f
    let reg := (p.w 6).toNat
    let first := (p.w 7).toNat
    let n := (p.w 8).toNat
    let g := (p.w 9).toNat
    let fails := fun (u : State) (code : Nat) => exec .gputPacket s = .next (e u code)
    let src := resolve v .io f .read (p.q64 4) (256 * n)
    (handleOf v f p = none → fails v 2) ∧
    (∀ l, handleOf v f p = some l → (v.launch l).regions[reg]? = none → fails v 2) ∧
    (∀ l r, handleOf v f p = some l → (v.launch l).regions[reg]? = some r →
      let dst := resolve src.1 .io f .gwrite (r.base + 256 * first) (256 * n)
      let cs := cellsOf first (cellLocs dst.2.locs)
      let u := dst.1
      (r.cells < first + n → fails v 2) ∧
      (first + n ≤ r.cells → src.2.chk ≠ .ok → fails src.1 3) ∧
      (first + n ≤ r.cells → src.2.chk = .ok → dst.2.chk ≠ .ok → fails u 3) ∧
      (first + n ≤ r.cells → src.2.chk = .ok → dst.2.chk = .ok →
        (∀ k, planFault u (u.launch l) reg .gput g cs = some k → fails u 6) ∧
        (planFault u (u.launch l) reg .gput g cs = none →
          let data := src.2.locs.flatMap fun e => u.ioBytes e.1 e.2
          let away := ∃ c ∈ cellLocs dst.2.locs, portAt 0 0 c ≠ none
          (¬ away → PacketDone s .gputPacket p (applyTags (writeCells u cs data) l reg .gput g 0 cs)) ∧
          (away → PacketDone s .gputPacket p
            (sendCells u (some (s.ev.f, s.ev.q, p.id)) l reg first g (cellLocs dst.2.locs) data))))))

/-- A packet whose action is done, and whose writes the ports hold no more (log 103), decrements its completion signal, moves LASTCOMP
over the unbroken run of completed packets, leaves its queue, and sends its message when EVT asks for one; a signal off the module
is decremented at its home, and the packet ends once that is acknowledged. The packets accepted after one that ends in error and not
started are taken back, unless the queue drains: LASTACC, NEXTSEQ and RDIDX go back, and V is 1 again in their units that still hold them (log 88); an armed event request whose condition holds
sends its message once; a lost queue processor puts the queues whose entries are lost in state 4. The queues that a
lost processor takes down are those the event names (log 58), and an event request is gone after its message (log 65):
the model's choices. -/
def Sys2Proof.Claims.CompletionsAndLosses : Prop :=
  (∀ (s : State) p, (s.queue s.ev.f s.ev.q).accepted.find?
      (fun p => p.seq == s.ev.seq && p.started && p.done && p.settled s s.ev.f s.ev.q) = some p →
    let f := s.ev.f
    let q := s.ev.q
    let ends := fun u : State =>
      let x := u.queue f q
      let v := if p.orphan then u
        else u.putQueue f q (advanceComp (x.finished.length + 1) { x with finished := x.finished ++ [p.seq] })
      let w := dropPacket v f q p
      if p.evt then sendEvent w f 2 [w32 q, p.seq] else w
    (p.csig = none ∨ p.signalled = true → exec .packetCompletion s = .next (ends s)) ∧
    (∀ l, p.csig = some l → p.signalled = false →
      let u := s.ioAdd (some (f, q, p.id)) l (-1)
      exec .packetCompletion s = .next (if portAt 0 0 l = none then ends u else putPacket u f q p { p with signalled := true }))) ∧
  (∀ (x : Queue) (p : Packet) pre post, x.accepted = pre ++ p :: post → p ∉ pre →
    let later := post.filter fun e => e != p && !e.started
    x.later p = later ∧ (later = [] → x.unaccept p = x) ∧
    (∀ e r, later = e :: r → x.unaccept p = { x with
      lastacc := e.seq - 1, nextseq := e.seq, rdidx := e.unit, accepted := x.accepted.filter fun k => !later.contains k })) ∧
  (∀ (s : State) f q (p : Packet),
    let x := s.queue f q
    (x.state = 5 → takeBack s f q p = s) ∧
    (x.state ≠ 5 → takeBack s f q p = ((x.later p).foldl (reopenUnits f x) s).putQueue f q (x.unaccept p))) ∧
  (∀ (f : Nat) (x : Queue) (s : State) (e : Packet), s.wf = true → (f < 64 → f < s.funcs.length) → e.units ≤ 2 ^ x.logn →
    let y := { x with rdidx := e.unit }
    let stands := ∀ i, i < e.units → ∀ j, j < 16 →
      (unitWords s f y i).getD j 0 = if j = 0 then e.raw.getD (16 * i) 0 &&& ~~~0x100 else e.raw.getD (16 * i + j) 0
    let u := reopenUnits f x s e
    e.raw.length = 16 * e.units →
    (¬ stands → u = s) ∧
    (stands → (∀ i, i < e.units → memWord (u.func f).qmem (unitAddr y i) = e.raw.getD (16 * i) 0) ∧
      u = s.putFunc f { s.func f with qmem := (u.func f).qmem } ∧
      ∀ b, (∀ i, i < e.units → b < unitAddr y i ∨ unitAddr y i + 4 ≤ b) → memByte (u.func f).qmem b = memByte (s.func f).qmem b)) ∧
  (∀ (s : State) f q (p : Packet), p.settled s f q = true ↔ (∀ w ∈ s.portWrites, w.packet ≠ some (f, q, p.id)) ∧
    ∀ g ∈ s.graded, g.packet ≠ some (f, q, p.id)) ∧
  (∀ (x : Queue),
    let y := advanceComp (x.finished.length + 1) x
    y.lastcomp + 1 ∉ y.finished ∧
    ∃ j, y.lastcomp = x.lastcomp + w32 j ∧ ∀ k, 1 ≤ k → k ≤ j → x.lastcomp + w32 k ∈ x.finished) ∧
  (∀ (s : State) f q p, (f < 64 → f < s.funcs.length) →
    let x := s.queue f q
    let l := x.accepted.filter (· != p)
    let ends := x.state = 5 ∧ ∀ e ∈ l, e.orphan = true
    (ends → (dropPacket s f q p).queue f q = { x with accepted := l, state := 0 }) ∧
    (¬ ends → (dropPacket s f q p).queue f q = { x with accepted := l })) ∧
  (∀ (s : State) r, (s.func s.ev.f).evreqs[s.ev.n]? = some r →
    let fn := s.func s.ev.f
    (eventHolds s s.ev.f r = false → exec .eventreqConditionHolds s = .next s) ∧
    (eventHolds s s.ev.f r = true → exec .eventreqConditionHolds s =
      .next (sendEvent (s.putFunc s.ev.f { fn with evreqs := fn.evreqs.eraseIdx s.ev.n }) s.ev.f 4 [w32 r.addr, w32 (r.addr / 2 ^ 32)]))) ∧
  (∀ (s : State), s.ev.n ∈ s.lostProcs → exec .queueProcessorLost s = .next s) ∧
  (∀ (s : State), s.ev.n ∉ s.lostProcs → (∀ e ∈ s.ev.pairs, e.1 ≤ 64) → s.funcs.length = 64 →
    let lost := fun f q => (f, q) ∈ s.ev.pairs ∧ homeOf s f q = some s.ev.n
    ∃ s', exec .queueProcessorLost s = .next s' ∧ s'.lostProcs = s.lostProcs ++ [s.ev.n] ∧ ∀ f, f ≤ 64 →
      (∀ q, let x := s.queue f q
        let y := s'.queue f q
        (lost f q → y = { x with state := 4, taken := none, accepted := x.accepted.filter fun p => p.started && (p.done || !(p.type == 2 || p.type == 3)) }) ∧
        (¬ lost f q → y = { x with taken := if homeOf s f q = some s.ev.n then none else x.taken })) ∧
      ((s.func f).state ≠ 2 → (∃ q, lost f q) → (s'.func f).evtNum = (s.func f).evtNum + 1) ∧
      ((s.func f).state = 2 ∨ (∀ q, ¬ lost f q) → (s'.func f).evtNum = (s.func f).evtNum))

/-- The seven operations of GRAPHOP: on a launch that is not live each ends with code 2, on a record that cannot be read
with code 3, on a record or task that breaks its rules with code 6; otherwise each has its effect. The code for a task
number without a task is the model's choice (log 60), as are the order of a launch handle, a record and its contents that all fail (log 111)
and the zeros in a ring at its bind (log 61). -/
def Sys2Proof.Claims.GraphOperations : Prop :=
  (∀ (s : State) p v e op i n, Acts s 10 p v e → (p.w 4).toNat = op →
    (op, i, n) ∈ [(1, Instr.graphopSetPriority, 128), (2, .graphopAppendTask, 128), (4, .graphopDefinePool, 16), (5, .graphopBindEgress, 32),
      (6, .graphopBindServiceRing, 16), (7, .graphopBindTraceRing, 16)] →
    (handleOf v s.ev.f p = none → exec i s = .next (e v 2)) ∧
    (∀ u l, handleOf v s.ev.f p = some l → readRecord v s.ev.f (p.q64 6) n = (u, none) → exec i s = .next (e u 3))) ∧
  (∀ (s : State) p v e, Acts s 10 p v e → (p.w 4).toNat = 3 → handleOf v s.ev.f p = none →
    exec .graphopRemoveTask s = .next (e v 2)) ∧
  (∀ (s : State) p v e l u b, Graph s 1 p v e l → readRecord v s.ev.f (p.q64 6) 128 = (u, some b) →
    let x := u.launch l
    let k := readTask b x.roles.length x.regions
    (∀ t, u.task l (p.w 8).toNat = some t → k.2 = true → t.removed = false →
      PacketDone s .graphopSetPriority p (u.putTask l (p.w 8).toNat { t with tpri := k.1.tpri })) ∧
    (∀ t, u.task l (p.w 8).toNat = some t → t.removed = true → exec .graphopSetPriority s = .next (e u 6)) ∧
    (u.task l (p.w 8).toNat = none ∨ k.2 = false → exec .graphopSetPriority s = .next (e u 6))) ∧
  (∀ (s : State) p v e l u b, Graph s 2 p v e l → readRecord v s.ev.f (p.q64 6) 128 = (u, some b) →
    let x := u.launch l
    let k := readTask b x.roles.length x.regions
    let ok := k.2 = true ∧ x.tasks.length < 65536 ∧ graphOk ((x.tasks.filter (!·.removed)) ++ [k.1]) = true
    (ok → PacketDone s .graphopAppendTask p (fireReady (u.putLaunch l { x with tasks := x.tasks ++ [k.1] }) l)) ∧
    (¬ ok → exec .graphopAppendTask s = .next (e u 6))) ∧
  (∀ (s : State) p v e l, Graph s 3 p v e l →
    let x := v.launch l
    let t := (p.w 8).toNat
    (v.task l t = none → exec .graphopRemoveTask s = .next (e v 6)) ∧
    (∀ k, v.task l t = some k →
      (k.ever = true ∨ k.removed = true → exec .graphopRemoveTask s = .next (e v 6)) ∧
      (k.ever = false → k.removed = false → PacketDone s .graphopRemoveTask p (v.putLaunch l { x with
        tasks := x.tasks.set t { k with removed := true, pend := none }, fronts := x.fronts.map (·.without t) })))) ∧
  (∀ (s : State) p v e l u b, Graph s 4 p v e l → readRecord v s.ev.f (p.q64 6) 16 = (u, some b) →
    let x := u.launch l
    let base := rec64 b 0
    let pages := (rec32 b 8).toNat
    let wmark := (rec32 b 12).toNat
    let ok := x.pool = none ∧ base % 65536 = 0 ∧ base + 65536 * pages ≤ 2 ^ 57 ∧ 1 ≤ pages ∧ pages ≤ 1048576 ∧ wmark ≤ pages ∧
      ∀ i, i < pages → match u.page .io x.f (base + 65536 * i) with
        | .page _ _ f => f.tier = 0
        | .absent => True
    (ok → PacketDone s .graphopDefinePool p
      (u.putLaunch l { x with pool := some { base := base, pages := pages, wmark := wmark, owned := [] } })) ∧
    (¬ ok → exec .graphopDefinePool s = .next (e u 6))) ∧
  (∀ (s : State) p v e l u b, Graph s 5 p v e l → readRecord v s.ev.f (p.q64 6) 32 = (u, some b) →
    let x := u.launch l
    let w6 := rec32 b 0x18
    let w7 := rec32 b 0x1C
    let g : Egress :=
      { stream := (w7.extractLsb' 0 12).toNat, ring := rec64 b 0, credit := rec64 b 8, note := rec64 b 0x10
        seq := (w6.extractLsb' 0 24).toNat, slots := (w7.extractLsb' 16 16).toNat }
    let ok := g.ring % 256 = 0 ∧ g.note % 8 = 0 ∧ w6.extractLsb' 24 8 = 0 ∧ w7.extractLsb' 12 4 = 0 ∧ streamOf x g.stream = none
    (ok → PacketDone s .graphopBindEgress p (u.putLaunch l { x with egress := x.egress ++ [g] })) ∧
    (¬ ok → exec .graphopBindEgress s = .next (e u 6))) ∧
  (∀ (s : State) p v e l u b, Graph s 6 p v e l → readRecord v s.ev.f (p.q64 6) 16 = (u, some b) →
    let x := u.launch l
    let w1 := rec32 b 4
    let r : SvcRing :=
      { ring := (w1.extractLsb' 8 8).toNat, base := (rec32 b 0).toNat, evt := w1.getLsbD 16, logn := (w1.extractLsb' 0 4).toNat }
    let ok := r.base % 4096 = 0 ∧ w1.extractLsb' 17 15 = 0 ∧ w1.extractLsb' 4 4 = 0 ∧ rec64 b 8 = 0 ∧ r.ring ≠ 0 ∧ 10 ≤ r.logn ∧
      r.logn ≤ 12 ∧ r.base + 64 + 64 * 2 ^ r.logn ≤ u.svc.qmemLen ∧ ringOf x r.ring = none
    (ok → PacketDone s .graphopBindServiceRing p (putQmem (u.putLaunch l { x with rings := x.rings ++ [r] }) x.f r.base (leBytes 8 0))) ∧
    (¬ ok → exec .graphopBindServiceRing s = .next (e u 6))) ∧
  (∀ (s : State) p v e l u b, Graph s 7 p v e l → readRecord v s.ev.f (p.q64 6) 16 = (u, some b) →
    let x := u.launch l
    let w1 := rec32 b 4
    let r : TraceRing :=
      { base := (rec32 b 0).toNat, per := (w1.extractLsb' 16 5).toNat, evt := w1.getLsbD 8, logn := (w1.extractLsb' 0 4).toNat }
    let ok := x.trace = none ∧ r.base % 4096 = 0 ∧ w1.extractLsb' 21 11 = 0 ∧ w1.extractLsb' 9 7 = 0 ∧ w1.extractLsb' 4 4 = 0 ∧
      rec64 b 8 = 0 ∧ (r.per = 0 ∨ 8 ≤ r.per) ∧ r.per ≤ 20 ∧ 8 ≤ r.logn ∧ r.logn ≤ 16 ∧ r.base + 64 + 32 * 2 ^ r.logn ≤ u.svc.qmemLen
    let w := u.putLaunch l { x with trace := some r }
    (ok → PacketDone s .graphopBindTraceRing p (putQmem (putQmem w x.f r.base (leBytes 4 0)) x.f (r.base + 8) (leBytes 4 0))) ∧
    (¬ ok → exec .graphopBindTraceRing s = .next (e u 6)))

/-- A remote write, read or atomic add outside every window, or on a function that does not answer, is a transport error;
each wakes an idle module;
in queue memory and in device memory each acts on the bytes it names, those of a peer's or of host memory through one port, where an
add is answered once the word's home has made it (R365, R424; log 103); a write to the notify register notifies. The
answer of a function in STATE 0 (log 70) and partial writes of registers (log 71) are the model's choices. -/
def Sys2Proof.Claims.RemoteAccesses : Prop :=
  (∀ (s : State),
    let f := s.ev.f
    let o := s.ev.off
    let bad := Host.Outcome.next (answer (wakeModule s) (.transportError f o))
    (answers s f = false → exec .remoteWrite s = bad ∧ exec .remoteRead s = bad ∧ exec .remoteAtomicAdd s = bad) ∧
    (answers s f = true → o < 2 ^ 32 →
      (windowsOk s f o s.ev.bytes.length true = false → exec .remoteWrite s = bad) ∧
      (windowsOk s f o s.ev.n false = false → exec .remoteRead s = bad) ∧
      (o % 8 ≠ 0 ∨ windowsOk s f o 8 true = false → exec .remoteAtomicAdd s = bad))) ∧
  (∀ (s : State), answers s s.ev.f = true → 2 ^ 32 ≤ s.ev.off →
    let f := s.ev.f
    let o := s.ev.off
    let w := resolve (wakeModule s) .io f .write (o - 2 ^ 32) s.ev.bytes.length
    let r := resolve (wakeModule s) .io f .read (o - 2 ^ 32) s.ev.n
    let a := resolve (wakeModule s) .io f .write (o - 2 ^ 32) 8
    (w.2.chk = .ok → exec .remoteWrite s = .next (answer (ioPlaces none w.1 w.2.locs s.ev.bytes) (.ok f o))) ∧
    (w.2.chk ≠ .ok → exec .remoteWrite s = .next (answer w.1 (.transportError f o))) ∧
    (r.2.chk = .ok → exec .remoteRead s = .next (answer r.1 (.data f o (r.2.locs.flatMap fun e => r.1.ioBytes e.1 e.2)))) ∧
    (r.2.chk ≠ .ok → exec .remoteRead s = .next (answer r.1 (.transportError f o))) ∧
    (∀ l n t, o % 8 = 0 → a.2.chk = .ok → a.2.locs = (l, n) :: t →
      let u := a.1
      let k := freestPort u
      let old := BitVec.ofNat 64 (leNat (u.locBytes l 8))
      let w : PortWrite := { id := u.nextId, port := k, loc := l, bytes := [], add := some s.ev.v, reply := some (f, o) }
      (portAt 0 k l = none → exec .remoteAtomicAdd s =
        .next (answer (u.locStore l (leBytes 8 (old + s.ev.v).toNat)) (.data f o (leBytes 8 old.toNat)))) ∧
      (portAt 0 k l ≠ none → exec .remoteAtomicAdd s =
        .next (({ u with nextId := u.nextId + 1, portWrites := u.portWrites ++ [w] } : State).post .transferComplete
          { id := u.nextId })))) ∧
  (∀ (s : State) p bs, ioPlaces p s [] bs = s ∧ ∀ l n r, ioPlaces p s ((l, n) :: r) bs =
    ioPlacesAt (freestPort s) p (s.ioStoreAt (freestPort s) p l (bs.take n)) r (bs.drop n)) ∧
  (∀ (s : State) k p bs, ioPlacesAt k p s [] bs = s ∧ ∀ l n r, ioPlacesAt k p s ((l, n) :: r) bs =
    ioPlacesAt k p (s.ioStoreAt k p l (bs.take n)) r (bs.drop n)) ∧
  (∀ (s : State), answers s s.ev.f = true → 0x1000000 ≤ s.ev.off → s.ev.off < 2 ^ 32 → s.wf = true →
    (∀ l ∈ s.launches, l.f = s.ev.f → l.rings = []) →
    let f := s.ev.f
    let o := s.ev.off
    let a := o - 0x1000000
    let m := (s.func f).qmem
    (1 ≤ s.ev.n → a + s.ev.n ≤ s.svc.qmemLen → exec .remoteRead s = .next (answer (wakeModule s) (.data f o (memBytes m a s.ev.n)))) ∧
    (s.ev.bytes ≠ [] → a + s.ev.bytes.length ≤ s.svc.qmemLen → ∃ s', exec .remoteWrite s = .next s' ∧
      s'.outbox = s.outbox ++ [.ok f o] ∧ s'.teams = s.teams ∧ s'.hbm = s.hbm ∧
      ∀ b, memByte (s'.func f).qmem b = if a ≤ b ∧ b < a + s.ev.bytes.length then s.ev.bytes.getD (b - a) 0 else memByte m b) ∧
    (o % 8 = 0 → a + 8 ≤ s.svc.qmemLen →
      let old := part64 m a
      exec .remoteAtomicAdd s =
        .next (answer (putQmem (wakeModule s) f a (leBytes 8 (old + s.ev.v).toNat)) (.data f o (leBytes 8 old.toNat))))) ∧
  (∀ (s : State), answers s s.ev.f = true → s.ev.off = 0x20000 → s.ev.bytes.length = 8 →
    let v := BitVec.ofNat 64 (leNat s.ev.bytes)
    exec .remoteWrite s =
      .next (answer (notify (wakeModule s) s.ev.f (v.extractLsb' 0 11).toNat (v.extractLsb' 32 32)) (.ok s.ev.f s.ev.off)))
end


section
open Sys2Proof Sys2Proof.Machine Sys2Proof.Claims

/-- A served reply ends the waits on the record and drops the TLB entries of its page; a refused one fails what waits on
it, each access bringing an idle module back to run; an invalidation drops the entries of its range, those of the walker complexes too, notes who holds one, and counts once nobody
does; a doorbell and the service-ring check find the calls whose entries are done, on the ring on which each was made, and such a call
ends 300 cycles later if its harness is resident then, else at its restore. When an invalidation is complete is the model's choice
(log 74). -/
def Sys2Proof.Claims.RepliesAndInvalidations : Prop :=
  (∀ (s : State) r, faultRec s s.ev.f s.ev.id = some r →
    let w := wakeModule s
    (∃ s', exec .replyServed s = .next s' ∧ s'.faults = s.faults.filter (· != r) ∧
      Unmapped s.ev.f (65536 * r.page) 65536 s'.ioTlb ∧
      (∀ c, Unmapped s.ev.f (65536 * r.page) 65536 (s'.core c).copyTlb ∧
        ∀ l ∈ (s'.core c).tlbs, Unmapped s.ev.f (65536 * r.page) 65536 l) ∧
      (∀ e ∈ r.teams, (s'.team e.1).ctl.pflt.getLsbD 8 = false ∧ (s'.team e.1).regs = (s.team e.1).regs ∧
        (s'.team e.1).flow = (s.team e.1).flow ∧
        ((∀ u, (s'.team u).info.harness = (s.team e.1).info.harness → (s'.team u).ctl.pflt.getLsbD 8 = false) →
          (s'.harness (s.team e.1).info.harness).blocked = false)) ∧
      (∀ e ∈ r.shuttles, (s'.shuttle e.1 e.2).fault = false) ∧
      (∀ t, (∀ e ∈ r.teams, e.1 ≠ t) → s'.team t = s.team t) ∧ s'.hbm = s.hbm ∧ s'.dies = s.dies) ∧
    (∀ t va, r.teams = [(t, va)] → r.shuttles = [] → exec .replyRefused s =
      .next (refuseFault (clearPend { w with faults := s.faults.filter (· != r) } t) (.team t) r.cause va)) ∧
    (∀ h n, r.teams = [] → r.shuttles = [(h, n)] → exec .replyRefused s =
      .next (refuseFault { w with faults := s.faults.filter (· != r) } (.shuttle h n) r.cause (s.shuttle h n).faddr.toNat))) ∧
  (∀ (s : State), faultRec s s.ev.f s.ev.id = none →
    exec .replyServed s = .next (wakeModule s) ∧ exec .replyRefused s = .next (wakeModule s)) ∧
  (∀ (s : State), (s.ev.f < s.funcs.length ∨ 64 ≤ s.ev.f) →
    let f := s.ev.f
    let z := leafSize s.ev.off
    let va := 65536 * s.ev.n / z * z
    let drops := fun (i : Instr) (va n : Nat) => ∃ s', exec i s = .next s' ∧ Unmapped f va n s'.ioTlb ∧
      (∀ c, Unmapped f va n (s'.core c).copyTlb ∧ ∀ l ∈ (s'.core c).tlbs, Unmapped f va n l) ∧
      (∀ d, ∀ w ∈ (s'.die d).walker, w.f = f → va + n ≤ w.tag * entrySpan w.lv ∨ (w.tag + 1) * entrySpan w.lv ≤ va) ∧ s'.teams = s.teams ∧
      ∃ ids, (s'.func f).invals = (s.func f).invals ++ [ids] ∧
        ∀ j, j ∈ ids ↔ (∃ x ∈ s.transfers, x.id = j ∧ holds f va n x.pages = true) ∨
          (∃ x ∈ s.copies, x.id = j ∧ holds f va n x.pages = true) ∨ (∃ x ∈ s.graded, x.id = j ∧ holds f va n x.pages = true)
    (s.ev.off < 3 → drops .invalidatePage va z) ∧ (3 ≤ s.ev.off → exec .invalidatePage s = .next (wakeModule s)) ∧
    drops .invalidateFunction 0 (2 ^ 57)) ∧
  (∀ (s : State) r, let fn := s.func s.ev.f;
    (fn.invals = [] :: r → exec .invalidationComplete s = .next (s.putFunc s.ev.f { fn with invals := r, invseq := fn.invseq + 1 })) ∧
    (∀ i l, fn.invals = (i :: l) :: r → exec .invalidationComplete s = .next s)) ∧
  (∀ (s : State) (t : Nat), t < s.teams.length → s.fnOf t = s.ev.f → callDone s t = true →
    (∀ u, u ≠ t → u < s.teams.length → s.fnOf u = s.ev.f → (s.team u).place ≠ .parked) →
    exec .doorbell s = .next (findCall (wakeModule s) t) ∧ exec .serviceRingCheck s = .next (findCall s t)) ∧
  (∀ (s : State), (∀ t, t < s.teams.length → s.fnOf t = s.ev.f → callDone s t = false) →
    exec .doorbell s = .next (wakeModule s) ∧ exec .serviceRingCheck s = .next s) ∧
  (∀ (s : State) (t : Nat), let x := s.team t
    callDone s t = true ↔ ∃ r, ringOf (s.launchOf t) x.svcOn = some r ∧ x.place = .parked ∧ x.svcFound = false ∧
      ∀ e ∈ x.svc, (memWord (s.func (s.launchOf t).f).qmem (entryAddr r (w32 e.1))).getLsbD 31 = true) ∧
  (∀ (s : State) (t : Nat), ∃ l,
    findCall s t = { s.putTeam t { s.team t with svcFound := true } with nextId := s.nextId + 1, late := l } ∧
    ∀ y, y ∈ l ↔ y ∈ s.late ∨ y = { key := (s.time + 300) * 20000 + 15360, id := s.nextId, party := .none, path := 0, cycle := s.time
                                    issued := 0, ask := some (.resume t) }) ∧
  (∀ (s : State) (y : Late) (t : Nat), y.ask = some (.resume t) → y.image = none → s.ops.find? (·.id == y.id) = none →
    let v : State := { s with cur := y.party, late := s.late.filter (· != y) }
    let x := s.team t
    let ends := x.place = .parked ∧ x.svcFound = true ∧ (s.core x.info.core).resident = some x.info.harness
    (ends → runLate s y = { endCall v t with cur := s.cur }) ∧ (¬ ends → runLate s y = { v with cur := s.cur })) ∧
  (∀ (s : State) (t : Nat) r, t < s.teams.length → ringOf (s.launchOf t) (s.team t).svcOn = some r →
    let x := s.team t
    let y := (endCall s t).team t
    let word := fun n o => memWord (s.func (s.fnOf t)).qmem (entryAddr r (w32 n) + o)
    y.ctl = { x.ctl with parked := false } ∧ y.place = .pending ∧ y.svc = [] ∧ y.svcFound = false ∧ y.flow = x.flow ∧
    (∀ n k, x.svc = [(n, k)] → y.regs = putV (putV x.regs 0 [k] fun _ => word n 0x28) 1 [k] fun _ => word n 0x2C))

/-- The debugger's commands on the live team they name: halt, its taking at a boundary, resume, step of a path, hold and
release of a path, read and write of a halted team's registers; a command that names no live team has no effect, but that the access brings an idle module back to run. A path held at a gang
rendezvous withdraws its arrival. A stall sample is taken in its cycle, its team's timer and the waits that time ends with it, and enters the ring by a step of its own
(what the ring then holds, ServicesAndTrace states). Which team a
command names (log 52), that it drops reserved bits (log 118), the path after a step (log 125), that a resume ends a halt request not yet taken (log 51), what a debugger reads of wide operands (logs 12,
53), the sampling of stalls (log 54), the path sampled of a team whose current path has ended (log 127) and the REASON of a held path and of an SVC whose entries are to come (log 12) are the model's choices. -/
def Obligations.DebugCommands : Prop :=
  (∀ (s : State) i, i ∈ [Instr.debugHalt, .debugResume, .debugStepPath, .debugHoldPath, .debugReleasePath, .debugRead, .debugWrite] →
    debugTeam s = none → exec i s = .next (wakeModule s)) ∧
  (∀ (s : State) (t : Nat), debugTeam s = some t →
    let x := s.team t
    s.fnOf t = s.ev.f ∧ x.info.cid = s.ev.cid ∧ x.info.role = s.ev.role ∧ x.info.tid = s.ev.tid ∧ x.place ≠ .ended) ∧
  (∀ (s : State) (t : Nat), debugTeam s = some t →
    let x := s.team t
    let y : Team := { x with ctl := { x.ctl with halted := false }, due := { x.due with halt := false } }
    let plain := x.due.entry = false ∧ x.due.served = none ∧ t ∉ (s.core x.info.core).heldReq
    let runs := fun (i : Instr) (s' : State) => exec i s = .next s'
    let w := wakeModule s
    runs .debugHalt (if x.ctl.halted ∨ x.due.halt then w
      else wakeModule (s.putTeam t { x with due := { x.due with halt := true, haltAt := s.time } })) ∧
    (x.ctl.halted = false → x.due.halt = false → runs .debugResume w) ∧
    (x.ctl.halted = true ∨ x.due.halt = true → plain → runs .debugResume (wakeModule (s.putTeam t y))) ∧
    (x.ctl.halted = true → x.due.entry = true → t ∉ (s.core x.info.core).heldReq → runs .debugResume (wakeModule (enterTrap
      (s.putTeam t { y with due := { y.due with entry := false, served := none } }) t x.ctl.tcause x.ctl.tpcPc.toNat x.ctl.tpcMwi.toNat
        x.ctl.taddrLo x.ctl.taddrHi))) ∧
    (x.ctl.halted = true ∨ x.due.halt = true → x.due.entry = false → x.due.served = none → t ∈ (s.core x.info.core).heldReq →
      (s.core x.info.core).preempt = false → x.info.core < s.cores.length →
        let k := s.core x.info.core
        let rest := k.heldReq.filter (· != t)
        (rest ≠ [] → runs .debugResume (wakeModule ((s.putTeam t y).putCore x.info.core { k with heldReq := rest }))) ∧
        (rest = [] → runs .debugResume (wakeModule (((s.putTeam t y).putCore x.info.core { k with heldReq := [], preempt := true, preemptAt := s.time }).post
          .preemptionComplete { core := x.info.core })))) ∧
    (∀ p, x.flow.paths.getD s.ev.path none = some p → x.place = .pending → x.due.one = some s.ev.path → waitsLong s t p = false →
      teamReady s t = true) ∧
    (x.isHalted = true → x.isLive s.ev.path = true → plain →
      let p := if x.ctl.inh then x.flow.path else s.ev.path
      runs .debugStepPath (wakeModule (s.putTeam t { y with flow := { y.flow with path := p }, due := { y.due with one := some p } }))) ∧
    (x.isHalted = false ∨ x.isLive s.ev.path = false → runs .debugStepPath w) ∧
    (∀ p, x.flow.paths.getD s.ev.path none = some p →
      let gang := s.ev.path = x.flow.path ∧ p.dep = some .gang
      (¬ gang → runs .debugHoldPath (wakeModule (s.putTeam t (x.putPathAt s.ev.path (some { p with held := true }))))) ∧
      (gang → t < s.teams.length → x.info.harness < s.harnesses.length → ∃ s', runs .debugHoldPath s' ∧
        s'.team t = x.putPathAt s.ev.path (some { p with held := true, dep := none }) ∧
        ∀ g ∈ (s'.harness x.info.harness).gangs, ∀ e ∈ g.here, e.1 ≠ t) ∧
      runs .debugReleasePath (wakeModule (s.putTeam t (x.putPathAt s.ev.path (some { p with held := false }))))) ∧
    (x.flow.paths.getD s.ev.path none = none → runs .debugHoldPath w ∧ runs .debugReleasePath w) ∧
    (x.isHalted = false → runs .debugRead w ∧ runs .debugWrite w) ∧
    (x.isHalted = true →
      let f := s.func s.ev.f
      let v : Word := f.dbgdata.setWidth 32
      let b := BitVec.ofNat 8 s.ev.opnd
      (∀ r, s.ev.ctl = true → readCr s t s.ev.opnd = some r →
        runs .debugRead (wakeModule (s.putFunc s.ev.f { f with dbgdata := r.setWidth 64 }))) ∧
      (∀ n, s.ev.ctl = false → opd b = .v n ∨ opd b = .s n →
        runs .debugRead (wakeModule (s.putFunc s.ev.f { f with dbgdata := (rd x.view b s.ev.lane).setWidth 64 }))) ∧
      (s.ev.ctl = true →
        (crWidth s.ev.opnd = none → runs .debugWrite w) ∧
        (∀ k, crWidth s.ev.opnd = some k →
          (s.ev.opnd = 0 → v.extractLsb' 1 7 ≠ 0 → runs .debugWrite w) ∧
          (s.ev.opnd ≠ 0 ∨ v.extractLsb' 1 7 = 0 →
            runs .debugWrite (wakeModule (s.putTeam t { x with ctl := writeCr x.ctl s.ev.opnd (BitVec.ofNat 32 (v.toNat % 2 ^ k)) }))))) ∧
      (s.ev.ctl = false → s.ev.lane < 32 * x.info.grp →
        (∀ n, opd b = .v n → runs .debugWrite (wakeModule (s.putTeam t { x with regs := putV x.regs n [s.ev.lane] fun _ => v }))) ∧
        (∀ n, opd b = .s n → runs .debugWrite (wakeModule (s.putTeam t { x with regs := putS x.regs n v }))) ∧
        (∀ n, opd b = .p n →
          runs .debugWrite (wakeModule (s.putTeam t { x with regs := putP x.regs n [s.ev.lane] fun _ => v.getLsbD 0 })))))) ∧
  (∀ (s : State), let t := s.ev.team;
    let x := s.team t
    (x.due.halt = true → x.path.isOver = true → exec .debugHaltTaken s = .next s) ∧
    (x.due.halt = true → x.path.isOver = false → x.path.dep ≠ some .gang →
      exec .debugHaltTaken s = .next (s.putTeam t { x.halt with due := { x.halt.due with haltAt := s.time } })) ∧
    (x.due.halt = true → x.path.dep = some .gang → t < s.teams.length → x.flow.path < x.flow.paths.length →
      ∃ s', exec .debugHaltTaken s = .next s' ∧ (s'.team t).ctl = { x.ctl with halted := true } ∧ (s'.team t).path.dep = none ∧
        ∀ g ∈ (s'.harness x.info.harness).gangs, x.info.harness < s.harnesses.length → ∀ e ∈ g.here, e.1 ≠ t) ∧
    (x.due.halt = false → exec .debugHaltTaken s = .next s)) ∧
  (∀ (s : State), let q := s.part s.ev.core s.ev.part;
    (q.taken = [] → exec .stallSample s = .next s) ∧
    (∀ l ws r, q.taken = (l, ws) :: r → exec .stallSample s =
      .next (traceRecord l (s.putPart s.ev.core s.ev.part { q with taken := r }) ws))) ∧
  (∀ (s : State) (n : Nat) (k : Core),
    (∀ h r, k.resident = some h → (s.launch (s.harness h).launch).trace = some r → r.per ≠ 0 → sampleCore s n k = { k with
      parts := k.parts.map fun q => (sampleTimes k.cyc.toNat r.per n).foldl (samplePart s (s.harness h).launch) q }) ∧
    ((∀ h r, k.resident = some h → (s.launch (s.harness h).launch).trace = some r → r.per = 0) → sampleCore s n k = k)) ∧
  (∀ cyc per n, (sampleTimes cyc per n).Pairwise (· < ·) ∧ ∀ j, j ∈ sampleTimes cyc per n ↔ j < n ∧ (cyc + j) % 2 ^ per = 0) ∧
  (∀ (s : State) l (q : CPart) k,
    (∀ t, q.active[q.samples % 8]? = some t →
      samplePart s l q k = { q with samples := q.samples + 1, taken := q.taken ++ [(l, sampleRecord s t k)] }) ∧
    (q.active[q.samples % 8]? = none → samplePart s l q k = { q with samples := q.samples + 1 })) ∧
  (∀ (s : State) (t k : Nat) r b,
    let u := standIn (settle { s.putTeam t ((s.team t).later s k) with time := s.time + k } t) t
    let x := u.team t
    let i := x.info
    let m := x.path.mask
    let tmr := x.ctl.tmr
    reasonOf u t = (r, b) → sampleRecord s t k =
      [w32 (4 * 2 ^ 28 + x.flow.path * 2 ^ 24 + i.role * 2 ^ 22 + i.tid * 2 ^ 14 + i.part * 2 ^ 11 + i.cid), w32 x.path.pc,
        tmr.setWidth 32, tmr.extractLsb' 32 32, summaryOf m i.grp, lowestWord m i.grp, w32 (r * 2 ^ 28 + b.getD 0x3FFFFF),
        w32 (min (s.time + k - x.perf.lastIssue) 0xFFFFFFFF)]) ∧
  (∀ (s : State) (k : Nat) (x : Team), let y := x.later s k;
    y.ctl.tmr = (if timeRuns s x then x.ctl.tmr + BitVec.ofNat 64 k else x.ctl.tmr) ∧ y.regs = x.regs ∧ y.info = x.info ∧
      y.flow.path = x.flow.path ∧ ∀ i p, x.flow.paths.getD i none = some p →
        y.flow.paths.getD i none = some (match p.join with
          | some ⟨some d⟩ => if d ≤ y.ctl.tmr.toNat ∧ p.held = false then { p with join := none, pc := p.pc + 1 } else p
          | _ => p)) ∧
  (∀ (s : State) (t : Nat), let x := s.team t;
    let w := wordFor s (.team t)
    let still := x.isHalted = false ∧ x.place ≠ .moving
    let issues := x.busy s.time = true ∨ (x.perf.lastIssue = s.time ∧ x.perf.issued ≠ 0)
    let awaits := still ∧ ¬ issues ∧ fenced s x.fetch = false
    let long := x.path.join ≠ none ∨ waitsLong s t x.path = true
    let keptBack := x.path.held = true ∧ x.due.one = none
    let now := awaits ∧ ¬ long ∧ ¬ keptBack
    let free := now ∧ x.path.dep = none ∧ fenced s x.path.fence = false
    let acts := x.dormant = false ∨ isCounter (opOf w) = true
    (x.isHalted = true → reasonOf s t = (8, none)) ∧ (x.isHalted = false → x.place = .moving → reasonOf s t = (7, none)) ∧
    (still → issues → reasonOf s t = (0, none)) ∧ 
    (still → ¬ issues → fenced s x.fetch = true →
      (∀ o, (s.ops.find? fun o => x.fetch.contains o.id) = some o →
        reasonOf s t = if o.kind = .hold then ((Config.freeWord s.freeIx).toNat % 10, none) else (6, some o.pc)) ∧
      ((s.ops.find? fun o => x.fetch.contains o.id) = none → reasonOf s t = (6, none))) ∧
    (awaits → long → reasonOf s t = (9, some x.path.pc)) ∧
    (awaits → ¬ long → keptBack → reasonOf s t = ((Config.freeWord s.freeIx).toNat % 10, none)) ∧ (now → x.path.dep = some .gang → reasonOf s t = (5, none)) ∧
    (∀ l st c m, now → x.path.dep = some (.counters l st c m) →
      (reasonOf s t).1 = if depMet s t (.counters l st c m) then 3 else 2) ∧
    (free → ¬ acts → reasonOf s t = (3, none)) ∧
    (∀ m, free → acts → x.stallMark w = some m → reasonOf s t = (1, some m.pc)))

/-- A function is enabled when its entry is legal, else the physical function is told why; a reset or a disable discards
its harnesses or asks for them, frees its fault records and sends no more event message; once they are gone, and what they had in flight and what an engine does for
its packets is over, its queues are off, what their packets had still to do is abandoned and its rows leave the BFQ; it completes once nothing of it is left; an
attestation is requested once, its report answers the nonce read then, and the event follows once the host has the report; each of these accesses brings an idle module back to
run. The signature of a report is an input (log 10); that a packet's put with no room does not hold a reset up is log 129. -/
def Obligations.FunctionsAndAttestation : Prop :=
  (∀ (s : State), let f := s.ev.f;
    let fn := s.func f
    let w := wakeModule s
    (64 ≤ f ∨ fn.state ≠ 0 → exec .functionEnable s = .next w) ∧
    (f < 64 → fn.state = 0 →
      (fn.ccnt = 0 → exec .functionEnable s = .next (sendEvent w 64 0xD [w32 f, 1, 1])) ∧
      (fn.ccnt ≠ 0 → 2048 < fn.sbase.toNat + fn.slen.toNat → exec .functionEnable s = .next (sendEvent w 64 0xD [w32 f, 1, 2])) ∧
      (fn.ccnt ≠ 0 → fn.sbase.toNat + fn.slen.toNat ≤ 2048 →
        exec .functionEnable s = .next (w.putFunc f { fn with state := 1 })))) ∧
  (∀ (s : State) i, i = .functionReset ∨ i = .functionDisable →
    let f := s.ev.f
    (64 ≤ f ∨ (s.func f).state ≠ 1 → exec i s = .next (wakeModule s)) ∧
    (f < 64 → (s.func f).state = 1 → ∃ s', exec i s = .next s' ∧
      (s'.func f).state = 2 ∧ ((s'.func f).disable = true ↔ i = .functionDisable) ∧ (s'.func f).swept = false ∧ (s'.func f).evwait = [] ∧
      (∀ r ∈ s'.faults, r.f ≠ f) ∧ (∀ q, s'.queue f q = s.queue f q) ∧
      (∀ h, h < s.harnesses.length → (s.launch (s.harness h).launch).f = f → (s.harness h).alive = true →
        ((s.core (s.harness h).core).resident ≠ some h → (s'.harness h).alive = false) ∧
        ((s.core (s.harness h).core).resident = some h → (s.harness h).core < s.cores.length →
          let halts := fun t => t < s.teams.length ∧ (s.team t).info.harness = h ∧
            ((s.team t).due.halt = true ∨ ((s.team t).ctl.halted = true ∧ (s.team t).due.haltAt = s.time))
          ((∀ t, ¬ halts t) → (s'.core (s.harness h).core).preempt = true) ∧
          (∀ t, halts t → (s.core (s.harness h).core).preempt = false → t ∈ (s'.core (s.harness h).core).heldReq))) ∧
      (∀ h, (s.launch (s.harness h).launch).f ≠ f → (s'.harness h).alive = (s.harness h).alive))) ∧
  (∀ (s : State), let f := s.ev.f;
    let mine := fun h => (s.launch (s.harness h).launch).f = f
    (resetStill s f = true ↔ f < 64 ∧ (s.func f).state = 2 ∧ (∀ h, h < s.harnesses.length → mine h → (s.harness h).alive = false) ∧
      (∀ x ∈ s.transfers, ¬ mine x.h) ∧ (∀ x ∈ s.copies, ¬ mine x.h) ∧ (∀ x ∈ s.graded, ¬ mine x.h) ∧
      ∀ e ∈ (s.func f).queues, ∀ p ∈ e.2.accepted, p.goesOn = true → p.done = false ∧ p.type = 5) ∧
    (resetOver s f = true ↔ resetStill s f = true ∧ (s.func f).swept = true ∧ ∀ b ∈ s.batches, ∀ r ∈ b.rows, (s.launch r.launch).f ≠ f) ∧
    (resetStill s f = false → exec .functionResetComplete s = .next s) ∧
    (resetStill s f = true → (s.func f).swept = true → resetOver s f = false → exec .functionResetComplete s = .next s) ∧
    (resetStill s f = true → (s.func f).swept = false → f < s.funcs.length → ∃ u,
      exec .functionResetComplete s = .next (if resetOver u f then sendEvent (clearFunction u f) f 0xB [0] else u) ∧
      (u.func f).swept = true ∧ (u.func f).state = 2 ∧
      (∀ q, (u.queue f q).state = 0 ∧ (u.queue f q).taken = none ∧ (u.queue f q).accepted = []) ∧
      (∀ b ∈ u.batches, ∀ r ∈ b.rows, (s.launch r.launch).f = f → b.taker ≠ none ∧ r.void = true) ∧
      u.teams = s.teams ∧ u.launches = s.launches ∧ ∀ g, g < 64 → g ≠ f → u.func g = s.func g) ∧
    (resetOver s f = true → ∃ s', exec .functionResetComplete s = .next s' ∧
      (s'.func f).state = (if (s.func f).disable then 0 else 1) ∧ (s'.func f).mbox = [] ∧ (s'.func f).evtNum = 1 ∧
      (s'.func f).evreqs = [] ∧ (s'.func f).qmem = (s.func f).qmem ∧
      (∀ l ∈ s'.launches, l.f = f → l.live = false) ∧
      (∀ d a, 65536 * (s.func f).sbase.toNat ≤ a → a < 65536 * ((s.func f).sbase.toNat + (s.func f).slen.toNat) →
        memByte (s'.die d).scratch a = 0) ∧
      (s.wf = true → ∀ d a, a < 65536 * (s.func f).sbase.toNat ∨ 65536 * ((s.func f).sbase.toNat + (s.func f).slen.toNat) ≤ a →
        memByte (s'.die d).scratch a = memByte (s.die d).scratch a) ∧
      ∀ g, g < 64 → g ≠ f → s'.func g = s.func g)) ∧
  (∀ (s : State), let f := s.ev.f;
    let v := s.ev.v
    let fn := s.func f
    let good := v.extractLsb' 57 7 = 0 ∧ v.extractLsb' 0 8 = 0 ∧ fn.attest = none
    (good → exec .attestationRequest s = .next ((wakeModule s).putFunc f { fn with attest := some (v.toNat, fn.nonce) })) ∧
    (¬ good → exec .attestationRequest s = .next (wakeModule s)) ∧
    (fn.attest = none → exec .attestationReport s = .next s) ∧
    (∀ a n, fn.attest = some (a, n) → fn.report = none → ∃ sig : List Byte, sig.length = 16224 ∧ exec .attestationReport s =
      .next ((s.putFunc f { fn with report := some s.nextId }).ioStore none (.host a) (reportHead s f n ++ sig))) ∧
    (∀ a n k, fn.attest = some (a, n) → fn.report = some k →
      ((∃ w ∈ s.portWrites, w.id = k) → exec .attestationReport s = .next s) ∧
      ((∀ w ∈ s.portWrites, w.id ≠ k) → exec .attestationReport s =
        .next (sendEvent (s.putFunc f { fn with attest := none, report := none }) f 0xC [16480])))) ∧
  (∀ (s : State) f n, let b := reportHead s f n;
    b.length = 256 ∧ leNat (b.take 4) = 0x54414E46 ∧ (f < 64 → leNat ((b.drop 4).take 4) = f) ∧
    leNat ((b.drop 8).take 32) = n.toNat ∧ leNat ((b.drop 40).take 32) = s.svc.digest.toNat ∧
    leNat ((b.drop 72).take 8) = s.svc.version.toNat ∧ leNat ((b.drop 80).take 8) = s.svc.fused.toNat ∧
    ∀ c, c < 256 → (leNat ((b.drop 88).take 32)).testBit c = (s.core c).inService)

/-- A set change lets the ready team of the pending set that has been ready longest in, for the one that has waited longest when the
set is full, at most one begun in a cycle, the one that goes out sent by the waits of its paths when none can issue; quantum, join deadline, wake value and team end are taken when their condition holds. A slot chooses among the teams that it may serve, a team inside a macro being bound to the slot of
that, and is left to others while no word of a macro that it serves can issue (log 121); the slot that chooses second acts first where the order of the cycle puts its word before. In a cycle the removal of a task comes after every hand-out, and a set change last. Ties
go to the lower number (log 84); when a pending team is ready (log 108) and which path gives way to which (log 107) are the model's
readings. -/
def Sys2Proof.Claims.SetsAndWaits : Prop :=
  (∀ (s : State), let c := s.ev.core;
    let p := s.ev.part
    let q := s.part c p
    (wantedChange s c p = none → exec .setChange s = .next s) ∧
    (∀ t, wantedChange s c p = some ⟨t, none⟩ → exec .setChange s =
      .next (((s.putTeam t { s.team t with place := .moving }).putPart c p
        { q with changes := q.changes ++ [⟨t, none⟩], begun := s.time + 1 }).post .setChangeComplete { core := c, part := p, team := t })) ∧
    (∀ t u, wantedChange s c p = some ⟨t, some u⟩ → t ≠ u → exec .setChange s =
      let v := s.putTeam t { s.team t with place := .moving }
      .next (((v.putTeam u { s.team u with
        place := .moving, yields := false, sent := if someCan v u then [] else longPaths v u }).putPart c p { q with changes := q.changes ++ [⟨t, some u⟩], begun := s.time + 1 }).post
          .setChangeComplete { core := c, part := p, team := t })) ∧
    (∀ t o, wantedChange s c p = some ⟨t, o⟩ →
      let first := fun a b : Nat => (s.team a).since < (s.team b).since ∨
        ((s.team a).since = (s.team b).since ∧ (s.team a).info.index ≤ (s.team b).info.index)
      t ∈ q.pending ∧ teamReady s t = true ∧ (∀ r ∈ q.pending, teamReady s r = true → first t r) ∧ q.begun ≠ s.time + 1 ∧
      (o = none ↔ q.active.length + (q.changes.filter (·.outTeam.isNone)).length < 8) ∧
      ∀ u, o = some u → u ∈ q.active ∧ teamWaits s u = true ∧ ∀ r ∈ q.active, teamWaits s r = true → first u r) ∧
    (let ch := q.changes.find? (·.inTeam == s.ev.team)
     (ch = none → exec .setChangeComplete s = .next s) ∧
     (∀ t, ch = some ⟨t, none⟩ → exec .setChangeComplete s =
       .next ((s.putTeam t { s.team t with place := .active, sent := [] }).putPart c p
         { q with changes := q.changes.filter (·.inTeam != t), active := q.active ++ [t], pending := q.pending.filter (· != t) })) ∧
     (∀ t u, ch = some ⟨t, some u⟩ → t ≠ u → exec .setChangeComplete s =
       .next (((s.putTeam t { s.team t with place := .active, sent := [] }).putTeam u { s.team u with place := .pending }).putPart c p
         { q with changes := q.changes.filter (·.inTeam != t), active := q.active.filter (· != u) ++ [t],
                  pending := q.pending.filter (· != t) ++ [u] })))) ∧
  (∀ (s : State), let t := s.ev.team;
    let x := s.team t
    let p := x.flow.paths.getD s.ev.path none
    let past := x.ctl.inh = false ∧ x.due.one = none ∧ x.path.dep ≠ some .gang ∧ 0 < x.flow.quantum ∧ x.ctl.pquant.toNat ≤ x.flow.quantum
    (¬ past → exec .pathQuantumExpiry s = .next s) ∧
    (past → x.pathTrap = true → exec .pathQuantumExpiry s = .next s) ∧
    (past → x.pathTrap = false → exec .pathQuantumExpiry s =
      .next (s.putTeam t { x with flow := { x.flow with path := (nextPathOf s t).getD x.flow.path, quantum := 0 } })) ∧
    (∀ y d, p = some y → y.join = some ⟨some d⟩ →
      (d ≤ x.ctl.tmr.toNat → y.held = false → exec .joinTimeout s =
        .next (s.putTeam t (x.putPathAt s.ev.path (some { y with join := none, pc := y.pc + 1 })))) ∧
      (x.ctl.tmr.toNat < d ∨ y.held = true → exec .joinTimeout s = .next s)) ∧
    (∀ y n, p = some y → y.dep = some (.sleep n) →
      (n ≤ x.ctl.tmr.toNat → exec .sleepExpiry s = .next (s.putTeam t (x.putPathAt s.ev.path (some { y with dep := some .met })))) ∧
      (x.ctl.tmr.toNat < n → exec .sleepExpiry s = .next s)) ∧
    (let idle := x.live = 0 ∧ x.deps.l = 0 ∧ x.deps.s = 0 ∧ x.deps.m = 0 ∧ x.deps.c = 0 ∧ (x.place = .active ∨ x.place = .pending) ∧
       (s.core x.info.core).resident = some x.info.harness
     let k := s.part x.info.core x.info.part
     (¬ idle → exec .teamEnd s = .next s) ∧
     (idle → exec .teamEnd s = .next ((s.putTeam t { x with place := .ended }).putPart x.info.core x.info.part
       { k with active := k.active.filter (· != t), pending := k.pending.filter (· != t) })))) ∧
  (∀ (s : State) (q : CPart) (k t : Nat), slotChoice s q k = some t → t ∈ q.active ∧ teamCan s t = true ∧
    ((s.team t).boundTo = none ∨ (s.team t).boundTo = some k) ∧ ∀ u ∈ candidates s q k, u = t ∨ before s q.engines t u = true) ∧
  (∀ (s : State) (q : CPart) (k t : Nat), nextChoice s q = some (k, t) → k < 2 ∧ slotFree s q k = true ∧ slotChoice s q k = some t ∧
    ∀ j, j < k → slotFree s q j = true → slotChoice s q j = none) ∧
  (∀ (s : State) (q : CPart) (k : Nat), slotFree s q k = true ↔ (∀ e ∈ chosenNow s q, e.1 ≠ k) ∧
    ∀ u ∈ q.active, teamCan s u = true → ∀ w, (settle s u).team u = w → w.path.mac ≠ none → w.path.slot ≠ k) ∧
  (∀ (s : State) (t k u : Nat), nextChoice s (partOf s t) = some (k, u) → (isChosen s t = true ↔ u = t ∨
    (teamPhase s t < teamPhase s u ∧ ∃ j, nextChoice (afterChoice s k u) (partOf (afterChoice s k u) t) = some (j, t)))) ∧
  (∀ (s : State) (t n : Nat), nextPathOf s t = some n →
    ∃ p, (s.team t).flow.paths.getD n none = some p ∧ pathCan s t p = true ∧
      ∀ j, j < 16 → (s.team t).flow.path < 16 → n < 16 → (j + 15 - (s.team t).flow.path) % 16 < (n + 15 - (s.team t).flow.path) % 16 →
        ∀ r, (s.team t).flow.paths.getD j none = some r → pathCan s t r = false) ∧
  (∀ (s : State) e, (∀ i, i ≠ .graphopRemoveTask → i ≠ .setChange →
      turnPlace s (.event i e) < turnPlace s (.event .graphopRemoveTask e)) ∧
    turnPlace s (.event .graphopRemoveTask e) < turnPlace s (.event .setChange e))

/-- A slice that has run out, and the idle rule, ask the resident harness to leave; once its engines are quiet, and the traps that come
before the swap are taken, the core is free and its state is kept, a macro to be copied again (log 86); the next runnable context in the order of acceptance takes the core, at its first
residence with its teams started and its spill areas zero. The slice of a lone context (log 66), the idle rule (log
67) and what shared memory holds at first residence (log 64) are the model's readings. -/
def Sys2Proof.Claims.Residence : Prop :=
  (∀ (s : State), let c := s.ev.core;
    let k := s.core c
    let halting := fun h => (List.range s.teams.length).filter fun t => (s.team t).info.harness == h &&
      ((s.team t).due.halt || ((s.team t).ctl.halted && (s.team t).due.haltAt == s.time))
    let asked := (s.putCore c { k with preempt := true, preemptAt := s.time }).post .preemptionComplete { core := c }
    (∀ h, k.resident = some h → k.preempt = false → k.heldReq = [] →
      let w := (s.func (s.launch (s.harness h).launch).f).slw.toNat
      let cycles := (if w = 0 then 16 else w) * 125000
      (k.slice < cycles → exec .sliceExpiry s = .next s) ∧
      (cycles ≤ k.slice → halting h = [] → exec .sliceExpiry s = .next asked) ∧
      (cycles ≤ k.slice → halting h ≠ [] → exec .sliceExpiry s = .next (s.putCore c { k with heldReq := halting h }))) ∧
    (∀ h, k.resident = some h → k.heldReq = [] → 4096 ≤ k.idle → k.preempt = false → idleCore s 0 c k = true →
      (halting h = [] → exec .idleDeparture s = .next asked) ∧
      (halting h ≠ [] → exec .idleDeparture s = .next (s.putCore c { k with heldReq := halting h }))) ∧
    (∀ h, k.resident = some h → k.heldReq ≠ [] → exec .sliceExpiry s = .next s) ∧
    (k.idle < 4096 ∨ k.preempt = true ∨ k.heldReq ≠ [] ∨ idleCore s 0 c k = false → exec .idleDeparture s = .next s) ∧
    (canSave s c = false → exec .preemptionComplete s = .next s) ∧
    (∀ h, k.resident = some h → k.preempt = true → quiet s h = true → (∀ t ∈ teamsOf s h, dueTrap s t = none) → inReset s h = false → c < s.cores.length →
      h < s.harnesses.length → (s.harness h).core = c →
      ∃ s', exec .preemptionComplete s = .next s' ∧ (s'.core c).resident = none ∧ (s'.core c).preempt = false ∧ (s'.core c).heldReq = [] ∧ (s'.core c).lastRun = h + 1 ∧
        (s'.core c).left.lookup (s.launch (s.harness h).launch).f = some (s.harness h).shared ∧
        (s'.harness h).shared = (s.harness h).shared ∧ (s'.harness h).gangs = [] ∧
        (∀ p, p < 8 → ((s'.harness h).parts.getD p {}).active = (k.parts.getD p {}).active ∧
          ((s'.harness h).parts.getD p {}).pending = (k.parts.getD p {}).pending) ∧
        (∀ t, (s'.team t).regs = (s.team t).regs ∧ (s'.team t).ctl = (s.team t).ctl ∧
          ((s.team t).info.harness ≠ h → s'.team t = s.team t) ∧
          (t < s.teams.length → (s.team t).info.harness = h → (s'.team t).flow.paths = (s.team t).flow.paths.map fun p => p.map Path.rest)) ∧
        (∀ g, g ≠ h → s'.harness g = s.harness g) ∧ s'.hbm = s.hbm ∧ s'.dies = s.dies) ∧
    (∀ p : Path, (p.rest).pc = p.pc ∧ (p.rest).mask = p.mask ∧ (p.rest).mac = none ∧
      (∀ b j, p.mac = some (b, j) → (p.rest).resume = j) ∧ (p.mac = none → (p.rest).resume = p.resume) ∧
      (∀ n, p.dep = some (.sleep n) → (p.rest).dep = p.dep)) ∧
    (canRestore s c = false → exec .contextRestore s = .next s) ∧
    (∀ h, canRestore s c = true → nextContext s c = some h → exec .contextRestore s = .next (restoreHarness s c h))) ∧
  (∀ (s : State) c h, nextContext s c = some h →
    let runs := fun g => g < s.harnesses.length ∧ (s.harness g).core = c ∧ (s.harness g).alive = true ∧
      (s.harness g).blocked = false ∧ inReset s g = false
    runs h ∧ (∀ g, runs g → (s.core c).lastRun ≤ g → (s.core c).lastRun ≤ h ∧ h ≤ g) ∧
      ((∀ g, runs g → g < (s.core c).lastRun) → ∀ g, runs g → h ≤ g)) ∧
  (∀ (s : State) c h, c < s.cores.length → h < s.harnesses.length → (s.harness h).started = false →
    (∀ t, t < s.teams.length → (s.team t).place ≠ .parked) →
    let s' := restoreHarness s c h
    let f := (s.launch (s.harness h).launch).f
    (s'.core c).resident = some h ∧ (s'.core c).slice = 0 ∧ (s'.harness h).started = true ∧
    (s'.harness h).shared = (((s.core (s.harness h).core).left.lookup f).getD []).filter (fun e =>
      e.1 < (teamsOf s h).foldl (fun n t => if (s.team t).ctl.ssplim = 0 then n else min n (s.team t).ctl.sspBase.toNat) 0x180000))

/-- Power, temperature and bring-up: an idle module goes to sleep after a millisecond and wakes; off, nothing on the
module is kept but its fuses; the window and the temperatures throttle; the first image that the ROM accepts is
brought up: of at most 64 MiB, all of it there, its version at least the fused one, its key of the fused digest, its signature
valid. How the ROM reads an image (logs 10, 69, 101), which cycles are
withheld (log 85), how much queue memory is populated (log 87), the inputs of POWER_GOOD (log 10) and the cycles of a step (log 6) are the
model's choices. -/
def Sys2Proof.Claims.PowerAndBringup : Prop :=
  ∀ (s : State), let v := s.svc;
    let sleeps := v.power = .run ∧ 1000000 ≤ v.idle ∧ (∀ c ∈ s.cores, c.resident = none) ∧
      ∀ f ∈ s.pf :: s.funcs, ∀ e ∈ f.queues, e.2.state = 1 → e.2.notified = e.2.rdidx
    (sleeps → exec .idleEntry s = .next { s with svc := { v with power := .idle } }) ∧
    (¬ sleeps → exec .idleEntry s = .next s) ∧
    (v.power = .idle → exec .idleExit s = .next { s with svc := { v with power := .run, idle := 0 } }) ∧
    (v.power ≠ .idle → exec .idleExit s = .next s) ∧
    (∃ s', exec .powerLoss s = .next s' ∧ s'.svc.power = .off ∧ s'.svc.fused = v.fused ∧
      s'.svc.keyDigest = v.keyDigest ∧ s'.hbm = [] ∧ s'.cxl = [] ∧
      s'.teams = [] ∧ s'.harnesses = [] ∧ s'.launches = [] ∧ (∀ d, (s'.die d).scratch = []) ∧ (∀ f, s'.func f = {}) ∧
      s'.host = s.host ∧ s'.peers = s.peers ∧ (v.power ≠ .off → exec .thermalShutdown s = .next s')) ∧
    (v.power = .off → exec .thermalShutdown s = .next s) ∧
    (1600 < s.ev.n → exec .powerWindow s = .next { s with svc := { v with throttle := true } }) ∧
    (s.ev.n < 1550 → exec .powerWindow s = .next { s with svc := { v with throttle := false } }) ∧
    (1550 ≤ s.ev.n → s.ev.n ≤ 1600 → exec .powerWindow s = .next s) ∧
    (s.ev.die ∉ v.hot → exec .overTemperature s = .next { s with svc := { v with hot := v.hot ++ [s.ev.die] } }) ∧
    (s.ev.die ∈ v.hot → exec .overTemperature s = .next s) ∧
    (withheld s = true ↔ (v.throttle = true ∨ v.hot ≠ []) ∧ (s.time + Config.throttlePhase) % 8 = 0) ∧
    (withheld s = true → ∀ t, teamCan s t = false) ∧
    exec .dieTemperatureFalls s = .next { s with svc := { v with hot := [] } } ∧
    exec .telemetryRefresh s = .next { s with svc := { v with
      reading := s.ev.n, dieTemps := s.ev.nums, coolant := s.ev.pairs.map (·.2), stateRead := v.power } } ∧
    (v.power = .run ∨ v.power = .idle → exec .powerGood s = .next s) ∧
    (v.power ≠ .run → v.power ≠ .idle →
      let field := fun (i : FwImage) (o n : Nat) => (i.bytes.drop o).take n
      let digest := fun bs : List Byte => BitVec.ofNat 256 (leNat (sha256 bs))
      let size := fun i : FwImage => leNat (field i 4 4)
      let image := fun i : FwImage => field i 0x1EE0 (size i)
      let version := fun i : FwImage => BitVec.ofNat 64 (leNat (field i 8 8))
      let good := fun i : FwImage => size i ≤ 2 ^ 26 && (image i).length == size i && v.fused ≤ version i &&
        digest (field i 0x10 32) == v.keyDigest && slhVerifies (field i 0x10 32) (field i 0x30 7856) (image i)
      let i := if good s.ev.image0 then s.ev.image0 else s.ev.image1
      ∃ s', exec .powerGood s = .next s' ∧ s'.svc.keyDigest = v.keyDigest ∧ s'.hbm = [] ∧
        if good i then
          s'.svc.power = .run ∧ s'.svc.digest = digest (image i) ∧ s'.svc.version = version i ∧ s'.svc.fused = version i ∧
            s'.svc.cxlCap = min s.ev.n (2 ^ 43) ∧ s'.svc.qmemLen = min s.ev.off (2 ^ 26) ∧
            ∀ c, c < 256 → ((s'.core c).inService = true ↔ c ∉ s.ev.nums)
        else s'.svc.power = .bringup ∧ s'.svc.fused = v.fused)

/-- An uncorrectable error halts the teams it affects with cause 0x30; the second one of a power-on takes the core out of
service and discards its harnesses; a corrected error is counted. What a core out of service discards is the model's
reading (log 73). -/
def Sys2Proof.Claims.MemoryErrors : Prop :=
  (∀ (s : State), let c := s.ev.core;
    let k := s.core c
    let lo := w32 s.ev.n
    let u := s.putCore c { k with uncorr := k.uncorr + 1 }
    (k.inService = false → exec .uncorrectableDataError s = .next s) ∧
    (∀ t, k.inService = true → k.uncorr = 0 → s.ev.nums = [t] → (s.team t).info.core = c → (s.team t).place ≠ .ended →
      exec .uncorrectableDataError s =
        .next (if (s.team t).ctl.inh then doubleFault u t 0x30 else haltFault u t 0x30 lo 0)) ∧
    (k.inService = true → 1 ≤ k.uncorr → c < s.cores.length → ∃ s', exec .uncorrectableDataError s = .next s' ∧
      (s'.core c).inService = false ∧ (s'.core c).resident = none ∧ (s'.core c).uncorr = k.uncorr + 1 ∧
      (∀ h, h < s.harnesses.length → (s.harness h).core = c → (s'.harness h).alive = false) ∧
      (∀ h, (s.harness h).core ≠ c → (s'.harness h).alive = (s.harness h).alive ∧
        ((∀ g, g < s.harnesses.length → (s.harness g).core = c → inReset s g = false) → (s'.harness h).shared = (s.harness h).shared)) ∧
      ∀ d, d ≠ c → s'.core d = s.core d)) ∧
  (∀ (s : State), let c := s.ev.core;
    let d := s.ev.die
    let k := s.core c
    let x := s.die d
    (s.ev.place = .shared → exec .correctedEccError s = .next (s.putCore c { k with eccShared := k.eccShared + 1 })) ∧
    (s.ev.place = .regs → exec .correctedEccError s = .next (s.putCore c { k with eccRegs := k.eccRegs + 1 })) ∧
    (s.ev.place = .scratch → exec .correctedEccError s = .next (s.putDie d { x with eccScratch := x.eccScratch + 1 })) ∧
    (s.ev.place = .hbm → exec .correctedEccError s = .next (s.putDie d { x with eccHbm := x.eccHbm + 1 })))
end

/-! ## Address translation -/

namespace Sys2Proof.Claims
open Sys2Proof.Machine

/-- The index bits of a level of the walk: the lowest one and their number. -/
def indexBits (lv : Nat) : Nat × Nat := if lv = 3 then (43, 14) else if lv = 2 then (30, 13) else if lv = 1 then (21, 9) else (16, 5)

/-- The page that a leaf at a level maps, and the alignment of the table of a level. -/
def pageAt (lv : Nat) : Nat := if lv = 2 then 2 ^ 30 else if lv = 1 then 2 ^ 21 else 2 ^ 16
def tableAt (lv : Nat) : Nat := if lv = 2 then 2 ^ 16 else if lv = 1 then 2 ^ 12 else 2 ^ 8

/-- The table entry that translates `va` in the table at `tbl`. -/
def entryAt (m : Memory) (lv tbl va : Nat) : Nat :=
  leNat (memBytes m (tbl + 8 * (va / 2 ^ (indexBits lv).1 % 2 ^ (indexBits lv).2)) 8)

/-- Bits `lo` to `lo + n - 1` of a table entry. -/
def bitsOf (e lo n : Nat) : Nat := e / 2 ^ lo % 2 ^ n

/-- What a present leaf says, and whether it is malformed. -/
def leafSays (e : Nat) : Leaf :=
  let peer := bitsOf e 4 2 = 3
  { tier := bitsOf e 4 2, target := if peer then bitsOf e 16 29 * 2 ^ 16 else bitsOf e 8 49 * 2 ^ 8
    peer := if peer then bitsOf e 45 19 else 0, spec := e.testBit 3, graded := e.testBit 2, write := e.testBit 1 }
def leafBad (cxl lv e : Nat) : Prop :=
  let l := leafSays e
  bitsOf e 7 1 ≠ 0 ∨ bitsOf e 8 8 ≠ 0 ∨ (l.tier ≠ 3 ∧ bitsOf e 57 7 ≠ 0) ∨ l.target % pageAt lv ≠ 0 ∨
    (l.tier = 0 ∧ 2 ^ 39 < l.target + pageAt lv) ∨ (l.tier = 1 ∧ cxl < l.target + pageAt lv)

/-- Room in the TLB of a unit stands in the tables of the state. -/
def TlbPlaced (s : State) : Unit' → Prop
  | .shuttle h n => (s.harness h).core < s.cores.length ∧ n < (s.core (s.harness h).core).tlbs.length
  | .copy h => (s.harness h).core < s.cores.length
  | .io => True

end Sys2Proof.Claims

section
open Sys2Proof Sys2Proof.Machine Sys2Proof.Claims

/-- The walk: an entry that is not present or malformed translates nothing; a leaf at levels 2, 1 and 0 maps its page with its tier,
target and attributes; any other entry leads to the next table. A non-leaf entry that the walker complex has cached is not read again.
Which entry leaves a full TLB or cache is the model's choice (log 5). -/
def Sys2Proof.Claims.TableWalk : Prop :=
  (∀ (m : Memory) (cxl f va lv tbl : Nat), lv ≤ 3 →
    let e := entryAt m lv tbl va
    let w := (walkFrom m [] cxl f va lv tbl).1
    let next := bitsOf e 8 49 * 2 ^ 8
    let bad := lv = 0 ∨ bitsOf e 57 7 ≠ 0 ∨ bitsOf e 7 1 ≠ 0 ∨ bitsOf e 4 2 ≠ 0 ∨ next % tableAt (lv - 1) ≠ 0 ∨ 2 ^ 39 ≤ next
    (e.testBit 0 = false → w = .absent) ∧
    (e.testBit 0 = true → e.testBit 6 = true →
      (lv = 3 ∨ leafBad cxl lv e → w = .absent) ∧
      (lv ≠ 3 → ¬ leafBad cxl lv e → w = .page (va / pageAt lv * pageAt lv) (pageAt lv) (leafSays e))) ∧
    (e.testBit 0 = true → e.testBit 6 = false →
      (bad → w = .absent) ∧ (¬ bad → w = (walkFrom m [] cxl f va (lv - 1) next).1))) ∧
  (∀ (m : Memory) (cache : List WalkEntry) (cxl f va lv tbl : Nat), lv ≤ 2 →
    let held := cache.find? fun e => e.f == f && e.lv == lv + 1 && e.tag == va / 2 ^ (indexBits (lv + 1)).1
    let hop := walkFrom m cache cxl f va (lv + 1) tbl
    (∀ e, held = some e → hop = walkFrom m cache cxl f va lv e.table) ∧
    (∀ e : Nat, held = none → entryAt m (lv + 1) tbl va = e → e.testBit 0 = false ∨ e.testBit 6 = true → hop.2 = []) ∧
    (let e := entryAt m (lv + 1) tbl va
     let next := bitsOf e 8 49 * 2 ^ 8
     held = none → e.testBit 0 = true → e.testBit 6 = false → bitsOf e 57 7 = 0 → bitsOf e 7 1 = 0 → bitsOf e 4 2 = 0 →
       next % tableAt lv = 0 → next < 2 ^ 39 → hop = ((walkFrom m cache cxl f va lv next).1,
         { f := f, lv := lv + 1, tag := va / 2 ^ (indexBits (lv + 1)).1, table := next } :: (walkFrom m cache cxl f va lv next).2)) ∧
    (∀ e ∈ hop.2, e.f = f ∧ 1 ≤ e.lv ∧ e.lv ≤ lv + 1 ∧ e.tag = va / 2 ^ (indexBits e.lv).1)) ∧
  (∀ (s : State) (u : Unit') (f va : Nat),
    walk s u f va = walkFrom s.hbm (s.die (u.core s / 64)).walker s.svc.cxlCap f va 3 (s.func f).root.toNat ∧
    (∀ e, (s.tlb u).find? (·.covers f va) = some e → s.page u f va = .page e.base e.size e.leaf ∧ s.tlbUse u f va = s) ∧
    ((∀ e ∈ s.tlb u, e.covers f va = false) → s.page u f va = (walk s u f va).1 ∧
      let s' := s.tlbUse u f va
      ((walk s u f va).1 = .absent → s'.tlb u = s.tlb u) ∧
      (∀ b n l, (walk s u f va).1 = .page b n l → TlbPlaced s u →
        let t := s.tlb u ++ [{ f := f, base := b, size := n, leaf := l }]
        s'.tlb u = t.drop (t.length - if u = .io then 256 else 64)) ∧
      s'.hbm = s.hbm ∧ s'.funcs = s.funcs ∧ s'.pf = s.pf ∧ s'.teams = s.teams ∧ s'.harnesses = s.harnesses ∧ s'.launches = s.launches ∧
      (∀ d, ((s.die d).walker.length ≤ 512 → (s'.die d).walker.length ≤ 512) ∧ (s'.die d).scratch = (s.die d).scratch)))

/-- The checks of a leaf, in the order of their rule: an adding transfer beyond tier 1 and a page without W give 0x11, a peer that is
the module itself 0x11, an attribute on the wrong tier 0x12, an access that the graded rules forbid 0x12, a closed pool page 0x11. A
range is translated page by page; its first failure ends it, and it gives its places in order. Pages with SPEC outside every pool
(log 20) and the faults a peer answers with (log 104) are the model's choices. -/
def Sys2Proof.Claims.LeafChecks : Prop :=
  (∀ (s : State) (f : Nat) (acc : Acc) (va n base : Nat) (l : Leaf),
    let c := useLeaf s f acc va n base l
    let writes := acc = .write ∨ acc = .add ∨ acc = .gwrite
    let far := acc = .add ∧ 2 ≤ l.tier
    let closed := writes ∧ l.write = false
    let own := l.tier = 3 ∧ l.peer = s.svc.peerId
    let misuse := (l.graded = true ∧ (l.tier = 1 ∨ l.tier = 2)) ∨ (l.spec = true ∧ l.tier ≠ 0)
    let final := ∀ j, j < (va + n - 1) / 256 + 1 - va / 256 →
      gradeOf (tagAt s f (va / 256 * 256 + 256 * j) ((l.loc (va - base)).add (256 * j))) = 3
    let graded := ((acc = .gread ∨ acc = .gwrite) ∧ l.graded = false) ∨ ((acc = .write ∨ acc = .add) ∧ l.graded = true) ∨
      (acc = .read ∧ l.graded = true ∧ ¬ final)
    let pool := poolFault s f l.spec va n
    (far → c = .refused 0x11 va) ∧ (¬ far → closed → c = .host 0x11 va true) ∧
    (¬ far → ¬ closed →
      (own → c = .refused 0x11 va) ∧ (¬ own → misuse ∨ graded → c = .trap 0x12 va) ∧
      (¬ own → ¬ misuse → ¬ graded →
        (∀ a, pool = some a → c = .refused 0x11 a) ∧
        (pool = none → (l.tier ≠ 3 → c = .ok) ∧
          (l.tier = 3 → c = if Config.peerFaults s.freeIx l.peer (l.target + (va - base)) then .refused 0x11 va else .ok))))) ∧
  (∀ (s : State) (f : Nat) (spec : Bool) (va n : Nat), 1 ≤ n →
    let shut := fun a => poolClosed spec (poolPage s f a) = true
    (∀ a, poolFault s f spec va n = some a ↔ shut a ∧ va ≤ a ∧ a < va + n ∧ (a = va ∨ a % 65536 = 0) ∧
      ∀ b, va ≤ b → b < a → (b = va ∨ b % 65536 = 0) → ¬ shut b) ∧
    (poolFault s f spec va n = none ↔ ∀ a, va ≤ a → a < va + n → (a = va ∨ a % 65536 = 0) → ¬ shut a)) ∧
  (poolClosed true none = true ∧ poolClosed false none = false ∧
    ∀ (b : Bool) (k : KvPage), poolClosed b (some k) = true ↔ k = .free ∨ ∃ n, k = .quarantine n) ∧
  (∀ (l : Leaf) (o : Nat), (l.tier = 0 → l.loc o = .hbm (l.target + o)) ∧ (l.tier = 1 → l.loc o = .cxl (l.target + o)) ∧
    (l.tier = 2 → l.loc o = .host (l.target + o)) ∧ (3 ≤ l.tier → l.loc o = .peer l.peer (l.target + o))) ∧
  (∀ (s : State) (u : Unit') (f : Nat) (acc : Acc) (va n : Nat),
    let r := resolve s u f acc va n
    let writes := acc == .write || acc == .add || acc == .gwrite
    (r.2.chk = .ok ∨ ∃ a, va ≤ a ∧ a < va + n ∧ (r.2.chk = .trap 0x04 a ∨ r.2.chk = .host 0x10 a writes ∨ r.2.chk = .host 0x11 a true ∨
      r.2.chk = .refused 0x11 a ∨ r.2.chk = .trap 0x12 a)) ∧
    (n = 0 → r = (s, ⟨.ok, [], []⟩)) ∧
    (1 ≤ n → 2 ^ 57 ≤ va → r.2.chk = .trap 0x04 va) ∧
    (1 ≤ n → va < 2 ^ 57 → s.page u f va = .absent → r.2.chk = .host 0x10 va writes) ∧
    (∀ b z l, 1 ≤ n → va < 2 ^ 57 → s.page u f va = .page b z l →
      let m := min n (b + z - va)
      let c := useLeaf (s.tlbUse u f va) f acc va m b l
      (c ≠ .ok → r.2.chk = c) ∧
      (c = .ok → m = n → r = (s.tlbUse u f va, ⟨.ok, [(l.loc (va - b), n)], [(f, b, z)]⟩)) ∧
      (c = .ok → m < n → ∀ k, n / 65536 + 1 = k →
        let q := resolveFuel u f acc k (s.tlbUse u f va) (va + m) (n - m)
        (q.2.chk ≠ .ok → r.2.chk = q.2.chk) ∧
        (q.2.chk = .ok → r.2.chk = .ok ∧ r.2.locs = (l.loc (va - b), m) :: q.2.locs ∧ r.2.pages = (f, b, z) :: q.2.pages)))) ∧
  (∀ (s : State) (u : Unit') (f : Nat) (acc : Acc) (k va n b z : Nat) (l : Leaf), 1 ≤ n → va < 2 ^ 57 → s.page u f va = .page b z l →
    let m := min n (b + z - va)
    let v := s.tlbUse u f va
    let q := resolveFuel u f acc k v (va + m) (n - m)
    useLeaf v f acc va m b l = .ok → resolveFuel u f acc (k + 1) s va n =
      (q.1, ⟨q.2.chk, (l.loc (va - b), m) :: q.2.locs, (f, b, z) :: q.2.pages⟩))
end

/-! ## Statements that say several of these at once -/

section
open Sys2Proof

/-- UDF is illegal for teams and Shuttles, as is a word with a reserved bit, and no other opcode is undefined. -/
def Obligations.EncodingRefusals : Prop :=
  Claims.UndefinedWordIsIllegal ∧ Claims.ReservedBitsRefused

/-- What operand bytes read and what result writes change. -/
def Obligations.RegisterReadsAndWrites : Prop :=
  Claims.OperandReads ∧ Claims.RegisterWrite ∧ Claims.PredicateWrite ∧ Claims.PairWrite

/-- The checks before an instruction of a team, in their order, and who may issue what (log 13). -/
def Obligations.IssueChecks : Prop :=
  Claims.IssueChecksInOrder ∧ Claims.RightsByOpcode

/-- Dormant paths fall through, words beyond the code fault, and no party is the model's fault (log 2). -/
def Obligations.FallingThrough : Prop :=
  Claims.DormantFallsThrough ∧ Claims.OutOfCode ∧ Claims.NoPartyFaults

/-- What trap entry saves and changes, and what RTT restores or refuses. -/
def Obligations.TrapEntryAndReturn : Prop :=
  Claims.TrapEntry ∧ Claims.ReturnFromTrap ∧ Claims.ReturnRefused

/-- Which faults enter the handler, which halt the team, and the double fault. -/
def Obligations.FaultOutcomes : Prop :=
  Claims.FaultPolicy ∧ Claims.DoubleFault

/-- TRAP, BKPT and SVC trap, and the traps due at a boundary in their order. -/
def Obligations.TrapsTaken : Prop :=
  Claims.TrapInstructions ∧ Claims.BoundaryTraps

/-- Word instructions and moves complete with the word of their rule. -/
def Obligations.WordInstructions : Prop :=
  Claims.WordInstructions ∧ Claims.MovesAndPredicates

/-- Carry chain, pairs and dot products. -/
def Obligations.WideIntegers : Prop :=
  Claims.CarryChain ∧ Claims.PairAndDot

/-- SETP under every element type. -/
def Obligations.Comparisons : Prop :=
  Claims.SetpCompares ∧ Claims.SetpFloats

/-- Floating-point arithmetic is exact and rounded once. -/
def Obligations.FloatArithmetic : Prop :=
  Claims.FloatArithmetic ∧ Claims.FscaleFdot2

/-- Transcendentals and FEXPD complete on every operand (logs 12, 15). -/
def Obligations.Transcendentals : Prop :=
  Claims.Transcendentals ∧ Claims.Fexpd

/-- Conversions, block-scaled and packed formats. -/
def Obligations.FloatFormats : Prop :=
  Claims.Conversions ∧ Claims.BlockScaled ∧ Claims.BlockScaledValues ∧ Claims.FieldPacking

/-- Reductions and scans over the running lanes. -/
def Obligations.Reductions : Prop :=
  Claims.IntegerReductions ∧ Claims.FloatTree ∧ Claims.FloatExtremes ∧ Claims.FloatScan

/-- Lane exchange, votes and counts. -/
def Obligations.LanesAndVotes : Prop :=
  Claims.LaneExchange ∧ Claims.VotesAndCounts

/-- The nesting-counter instructions. -/
def Obligations.LaneControl : Prop :=
  Claims.SimpleCounters ∧ Claims.IfElse ∧ Claims.EndloopCounters

/-- Jumps, calls, jump tables and the split of a path. -/
def Obligations.Branching : Prop :=
  Claims.JumpsAndCalls ∧ Claims.JumpTable ∧ Claims.SplitByPredicate

/-- JOIN, EXIT and PATHQ. -/
def Obligations.PathsJoinAndEnd : Prop :=
  Claims.JoinPaths ∧ Claims.ExitAndPathq

/-- Waits, modes, timer and control registers. -/
def Obligations.TeamControls : Prop :=
  Claims.IssueSteering ∧ Claims.ModesAndTimer ∧ Claims.ControlRegisters

/-- Service calls, trace records, watchpoints and counters. -/
def Obligations.ServicesAndTrace : Prop :=
  Claims.ServiceCalls ∧ Claims.TraceRecords ∧ Claims.TraceAndWatch

/-- The checks of a memory access, its bank waves, and the accesses in flight (log 102). -/
def Obligations.AccessChecks : Prop :=
  Claims.AccessChecks ∧ Claims.BankWaves ∧ Claims.AccessesInFlight

/-- Loads, stores and the spill stack (logs 7, 21, 96, 116). -/
def Obligations.LoadsAndStores : Prop :=
  Claims.Loads ∧ Claims.Stores

/-- Atomics, ordered floating-point adds and fences (log 7). -/
def Obligations.Atomics : Prop :=
  Claims.Atomics ∧ Claims.OrderedAdds

/-- Copy instructions, batches and pieces. -/
def Obligations.Copies : Prop :=
  Claims.PlainCopies ∧ Claims.DescribedCopies

/-- Transfers of Shuttle programs. -/
def Obligations.ShuttleTransfers : Prop :=
  Claims.CursorTransfers ∧ Claims.FarWords

/-- Shuttle programs: start, cursors, loops, waits and end. -/
def Obligations.ShuttlePrograms : Prop :=
  Claims.ShuttlePrograms ∧ Claims.ShuttleEnds ∧ Claims.CursorsAndLoops

/-- Graded reads and writes. -/
def Obligations.GradedAccesses : Prop :=
  Claims.GradedDescriptors ∧ Claims.GradedWrites ∧ Claims.GradedReads

/-- Joining, taking and finishing a batch. -/
def Obligations.Batches : Prop :=
  Claims.BatchJoin ∧ Claims.BatchTakeDone

/-- KV pages, egress streams and mailboxes. -/
def Obligations.Tokens : Prop :=
  Claims.KvPages ∧ Claims.EgressAndMailboxes

/-- Tiles: dealing, taking and reporting; the tasks behind them. -/
def Obligations.Tiles : Prop :=
  Claims.TakingTiles ∧ Claims.ReportingTiles

/-- GUARD, the PACK family and the exact wide product. -/
def Obligations.WideMulElements : Prop :=
  Claims.GuardAndPack ∧ Claims.WideProducts

/-- WMUL, WMULG, RLS and their completion (log 16). -/
def Obligations.WideMultiply : Prop :=
  Claims.WideMultiply ∧ Claims.GangMultiply

/-- Queue control, register fields, the reading and acceptance of packets (logs 12, 88). -/
def Obligations.Queues : Prop :=
  Claims.QueueControl ∧ Claims.RegisterFields ∧ Claims.PacketReading

/-- Actions and completion of packets; event requests; lost processors. -/
def Obligations.Packets : Prop :=
  Claims.PacketActions ∧ Claims.CompletionsAndLosses

/-- LAUNCH, GPUT from hosts and GRAPHOP. -/
def Obligations.LaunchesAndGraphs : Prop :=
  Claims.LaunchAndHostWrites ∧ Claims.GraphOperations

/-- Remote accesses, replies to faults, invalidations and the end of calls. -/
def Obligations.HostAccesses : Prop :=
  Claims.RemoteAccesses ∧ Claims.RepliesAndInvalidations

/-- The walk of the page tables, the TLBs, the checks of a leaf and the causes they raise. -/
def Obligations.AddressTranslation : Prop :=
  Claims.TableWalk ∧ Claims.LeafChecks

/-- Team sets, waits and the residence of harnesses. -/
def Obligations.SetsAndResidence : Prop :=
  Claims.SetsAndWaits ∧ Claims.Residence

/-- Power, temperature, bring-up and memory errors. -/
def Obligations.PowerAndErrors : Prop :=
  Claims.PowerAndBringup ∧ Claims.MemoryErrors

end
end

