-- ==== Sys2Proof/Laws/Encoding.lean ====
section
/-! SUPPORT. Lemmas of the decoder and the encoder: the four bytes of a word, and an immediate put together from its
bytes again. -/

namespace Sys2Proof

theorem append8_24 (i : BitVec 24) : i.extractLsb' 16 8 ++ i.extractLsb' 8 8 ++ i.extractLsb' 0 8 = i := by
  apply BitVec.eq_of_getLsbD_eq
  intro k hk
  simp only [BitVec.getLsbD_append, BitVec.getLsbD_extractLsb']
  by_cases h0 : k < 8
  · simp [h0]
  · by_cases h1 : k - 8 < 8
    · simp [h0, h1, show 8 + (k - 8) = k by omega]
    · simp [h0, h1, show k - 8 - 8 < 8 by omega, show 16 + (k - 8 - 8) = k by omega]

theorem append8_16 (i : BitVec 16) : i.extractLsb' 8 8 ++ i.extractLsb' 0 8 = i := by
  apply BitVec.eq_of_getLsbD_eq
  intro k hk
  simp only [BitVec.getLsbD_append, BitVec.getLsbD_extractLsb']
  by_cases h0 : k < 8
  · simp [h0]
  · simp [h0, show k - 8 < 8 by omega, show 8 + (k - 8) = k by omega]

/-- The decoder splits a word into the bytes it was put together from. -/
theorem decode_word (op d a b : Byte) : decode (op ++ d ++ a ++ b) = decodeFields op d a b := by
  have h0 : (op ++ d ++ a ++ b).extractLsb' 24 8 = op := by
    apply BitVec.eq_of_getLsbD_eq; intro k hk
    simp only [BitVec.getLsbD_extractLsb', BitVec.getLsbD_append]
    simp only [hk, show ¬ 24 + k < 8 by omega, show ¬ 24 + k - 8 < 8 by omega, show ¬ 24 + k - 8 - 8 < 8 by omega,
      show 24 + k - 8 - 8 - 8 = k by omega, decide_true, Bool.true_and, if_false]
  have h1 : (op ++ d ++ a ++ b).extractLsb' 16 8 = d := by
    apply BitVec.eq_of_getLsbD_eq; intro k hk
    simp only [BitVec.getLsbD_extractLsb', BitVec.getLsbD_append]
    simp only [hk, show ¬ 16 + k < 8 by omega, show ¬ 16 + k - 8 < 8 by omega,
      show 16 + k - 8 - 8 = k by omega, decide_true, Bool.true_and, if_false, if_true]
  have h2 : (op ++ d ++ a ++ b).extractLsb' 8 8 = a := by
    apply BitVec.eq_of_getLsbD_eq; intro k hk
    simp only [BitVec.getLsbD_extractLsb', BitVec.getLsbD_append]
    simp only [hk, show ¬ 8 + k < 8 by omega, show 8 + k - 8 = k by omega,
      decide_true, Bool.true_and, if_false, if_true]
  have h3 : (op ++ d ++ a ++ b).extractLsb' 0 8 = b := by
    apply BitVec.eq_of_getLsbD_eq; intro k hk
    simp only [BitVec.getLsbD_extractLsb', BitVec.getLsbD_append]
    simp only [hk, Nat.zero_add, decide_true, Bool.true_and, if_true]
  show decodeFields _ _ _ _ = _
  rw [h0, h1, h2, h3]

/-- An instruction's word decodes to it when its four fields do. -/
theorem decode_of_fields {i : Instr} {op d a b : Byte} (he : encodeFields i = some (op, d, a, b))
    (hd : decodeFields op d a b = some i) : ∀ w, encode i = some w → decode w = some i := by
  intro w h
  simp only [encode, he, Option.map_some, Option.some.injEq] at h
  rw [← h, decode_word, hd]

theorem decode_of_none {i : Instr} (he : encodeFields i = none) : ∀ w, encode i = some w → decode w = some i := by
  intro w h
  simp [encode, he] at h

end Sys2Proof
end

