-- ==== Sys2Proof/Laws/State.lean ====
section
/-! SUPPORT. One lemma per field of the state for each of its updates, and what the tables read after an update. -/

namespace Sys2Proof.Machine

/-! ## putTeam -/

@[simp] theorem State.putTeam_cur (s : State) (t : Nat) (x : Team) : (s.putTeam t x).cur = s.cur := rfl
@[simp] theorem State.putTeam_ir (s : State) (t : Nat) (x : Team) : (s.putTeam t x).ir = s.ir := rfl
@[simp] theorem State.putTeam_ev (s : State) (t : Nat) (x : Team) : (s.putTeam t x).ev = s.ev := rfl
@[simp] theorem State.putTeam_schedule (s : State) (t : Nat) (x : Team) : (s.putTeam t x).schedule = s.schedule := rfl
@[simp] theorem State.putTeam_agenda (s : State) (t : Nat) (x : Team) : (s.putTeam t x).agenda = s.agenda := rfl
@[simp] theorem State.putTeam_ticks (s : State) (t : Nat) (x : Team) : (s.putTeam t x).ticks = s.ticks := rfl
@[simp] theorem State.putTeam_freeIx (s : State) (t : Nat) (x : Team) : (s.putTeam t x).freeIx = s.freeIx := rfl
@[simp] theorem State.putTeam_time (s : State) (t : Nat) (x : Team) : (s.putTeam t x).time = s.time := rfl
@[simp] theorem State.putTeam_sweep (s : State) (t : Nat) (x : Team) : (s.putTeam t x).sweep = s.sweep := rfl
@[simp] theorem State.putTeam_nextId (s : State) (t : Nat) (x : Team) : (s.putTeam t x).nextId = s.nextId := rfl
@[simp] theorem State.putTeam_teams (s : State) (t : Nat) (x : Team) : (s.putTeam t x).teams = s.teams.set t x := rfl
@[simp] theorem State.putTeam_harnesses (s : State) (t : Nat) (x : Team) : (s.putTeam t x).harnesses = s.harnesses := rfl
@[simp] theorem State.putTeam_launches (s : State) (t : Nat) (x : Team) : (s.putTeam t x).launches = s.launches := rfl
@[simp] theorem State.putTeam_cores (s : State) (t : Nat) (x : Team) : (s.putTeam t x).cores = s.cores := rfl
@[simp] theorem State.putTeam_dies (s : State) (t : Nat) (x : Team) : (s.putTeam t x).dies = s.dies := rfl
@[simp] theorem State.putTeam_hbm (s : State) (t : Nat) (x : Team) : (s.putTeam t x).hbm = s.hbm := rfl
@[simp] theorem State.putTeam_cxl (s : State) (t : Nat) (x : Team) : (s.putTeam t x).cxl = s.cxl := rfl
@[simp] theorem State.putTeam_host (s : State) (t : Nat) (x : Team) : (s.putTeam t x).host = s.host := rfl
@[simp] theorem State.putTeam_peers (s : State) (t : Nat) (x : Team) : (s.putTeam t x).peers = s.peers := rfl
@[simp] theorem State.putTeam_peerTags (s : State) (t : Nat) (x : Team) : (s.putTeam t x).peerTags = s.peerTags := rfl
@[simp] theorem State.putTeam_funcs (s : State) (t : Nat) (x : Team) : (s.putTeam t x).funcs = s.funcs := rfl
@[simp] theorem State.putTeam_pf (s : State) (t : Nat) (x : Team) : (s.putTeam t x).pf = s.pf := rfl
@[simp] theorem State.putTeam_lostProcs (s : State) (t : Nat) (x : Team) : (s.putTeam t x).lostProcs = s.lostProcs := rfl
@[simp] theorem State.putTeam_turns (s : State) (t : Nat) (x : Team) : (s.putTeam t x).turns = s.turns := rfl
@[simp] theorem State.putTeam_ioTlb (s : State) (t : Nat) (x : Team) : (s.putTeam t x).ioTlb = s.ioTlb := rfl
@[simp] theorem State.putTeam_faults (s : State) (t : Nat) (x : Team) : (s.putTeam t x).faults = s.faults := rfl
@[simp] theorem State.putTeam_ops (s : State) (t : Nat) (x : Team) : (s.putTeam t x).ops = s.ops := rfl
@[simp] theorem State.putTeam_late (s : State) (t : Nat) (x : Team) : (s.putTeam t x).late = s.late := rfl
@[simp] theorem State.putTeam_transfers (s : State) (t : Nat) (x : Team) : (s.putTeam t x).transfers = s.transfers := rfl
@[simp] theorem State.putTeam_portWrites (s : State) (t : Nat) (x : Team) : (s.putTeam t x).portWrites = s.portWrites := rfl
@[simp] theorem State.putTeam_copies (s : State) (t : Nat) (x : Team) : (s.putTeam t x).copies = s.copies := rfl
@[simp] theorem State.putTeam_graded (s : State) (t : Nat) (x : Team) : (s.putTeam t x).graded = s.graded := rfl
@[simp] theorem State.putTeam_batches (s : State) (t : Nat) (x : Team) : (s.putTeam t x).batches = s.batches := rfl
@[simp] theorem State.putTeam_batchNos (s : State) (t : Nat) (x : Team) : (s.putTeam t x).batchNos = s.batchNos := rfl
@[simp] theorem State.putTeam_svc (s : State) (t : Nat) (x : Team) : (s.putTeam t x).svc = s.svc := rfl
@[simp] theorem State.putTeam_outbox (s : State) (t : Nat) (x : Team) : (s.putTeam t x).outbox = s.outbox := rfl

/-! ## putHarness -/

@[simp] theorem State.putHarness_cur (s : State) (h : Nat) (x : Harness) : (s.putHarness h x).cur = s.cur := rfl
@[simp] theorem State.putHarness_ir (s : State) (h : Nat) (x : Harness) : (s.putHarness h x).ir = s.ir := rfl
@[simp] theorem State.putHarness_ev (s : State) (h : Nat) (x : Harness) : (s.putHarness h x).ev = s.ev := rfl
@[simp] theorem State.putHarness_schedule (s : State) (h : Nat) (x : Harness) : (s.putHarness h x).schedule = s.schedule := rfl
@[simp] theorem State.putHarness_agenda (s : State) (h : Nat) (x : Harness) : (s.putHarness h x).agenda = s.agenda := rfl
@[simp] theorem State.putHarness_ticks (s : State) (h : Nat) (x : Harness) : (s.putHarness h x).ticks = s.ticks := rfl
@[simp] theorem State.putHarness_freeIx (s : State) (h : Nat) (x : Harness) : (s.putHarness h x).freeIx = s.freeIx := rfl
@[simp] theorem State.putHarness_time (s : State) (h : Nat) (x : Harness) : (s.putHarness h x).time = s.time := rfl
@[simp] theorem State.putHarness_sweep (s : State) (h : Nat) (x : Harness) : (s.putHarness h x).sweep = s.sweep := rfl
@[simp] theorem State.putHarness_nextId (s : State) (h : Nat) (x : Harness) : (s.putHarness h x).nextId = s.nextId := rfl
@[simp] theorem State.putHarness_teams (s : State) (h : Nat) (x : Harness) : (s.putHarness h x).teams = s.teams := rfl
@[simp] theorem State.putHarness_harnesses (s : State) (h : Nat) (x : Harness) : (s.putHarness h x).harnesses = s.harnesses.set h x := rfl
@[simp] theorem State.putHarness_launches (s : State) (h : Nat) (x : Harness) : (s.putHarness h x).launches = s.launches := rfl
@[simp] theorem State.putHarness_cores (s : State) (h : Nat) (x : Harness) : (s.putHarness h x).cores = s.cores := rfl
@[simp] theorem State.putHarness_dies (s : State) (h : Nat) (x : Harness) : (s.putHarness h x).dies = s.dies := rfl
@[simp] theorem State.putHarness_hbm (s : State) (h : Nat) (x : Harness) : (s.putHarness h x).hbm = s.hbm := rfl
@[simp] theorem State.putHarness_cxl (s : State) (h : Nat) (x : Harness) : (s.putHarness h x).cxl = s.cxl := rfl
@[simp] theorem State.putHarness_host (s : State) (h : Nat) (x : Harness) : (s.putHarness h x).host = s.host := rfl
@[simp] theorem State.putHarness_peers (s : State) (h : Nat) (x : Harness) : (s.putHarness h x).peers = s.peers := rfl
@[simp] theorem State.putHarness_peerTags (s : State) (h : Nat) (x : Harness) : (s.putHarness h x).peerTags = s.peerTags := rfl
@[simp] theorem State.putHarness_funcs (s : State) (h : Nat) (x : Harness) : (s.putHarness h x).funcs = s.funcs := rfl
@[simp] theorem State.putHarness_pf (s : State) (h : Nat) (x : Harness) : (s.putHarness h x).pf = s.pf := rfl
@[simp] theorem State.putHarness_lostProcs (s : State) (h : Nat) (x : Harness) : (s.putHarness h x).lostProcs = s.lostProcs := rfl
@[simp] theorem State.putHarness_turns (s : State) (h : Nat) (x : Harness) : (s.putHarness h x).turns = s.turns := rfl
@[simp] theorem State.putHarness_ioTlb (s : State) (h : Nat) (x : Harness) : (s.putHarness h x).ioTlb = s.ioTlb := rfl
@[simp] theorem State.putHarness_faults (s : State) (h : Nat) (x : Harness) : (s.putHarness h x).faults = s.faults := rfl
@[simp] theorem State.putHarness_ops (s : State) (h : Nat) (x : Harness) : (s.putHarness h x).ops = s.ops := rfl
@[simp] theorem State.putHarness_late (s : State) (h : Nat) (x : Harness) : (s.putHarness h x).late = s.late := rfl
@[simp] theorem State.putHarness_transfers (s : State) (h : Nat) (x : Harness) : (s.putHarness h x).transfers = s.transfers := rfl
@[simp] theorem State.putHarness_portWrites (s : State) (h : Nat) (x : Harness) : (s.putHarness h x).portWrites = s.portWrites := rfl
@[simp] theorem State.putHarness_copies (s : State) (h : Nat) (x : Harness) : (s.putHarness h x).copies = s.copies := rfl
@[simp] theorem State.putHarness_graded (s : State) (h : Nat) (x : Harness) : (s.putHarness h x).graded = s.graded := rfl
@[simp] theorem State.putHarness_batches (s : State) (h : Nat) (x : Harness) : (s.putHarness h x).batches = s.batches := rfl
@[simp] theorem State.putHarness_batchNos (s : State) (h : Nat) (x : Harness) : (s.putHarness h x).batchNos = s.batchNos := rfl
@[simp] theorem State.putHarness_svc (s : State) (h : Nat) (x : Harness) : (s.putHarness h x).svc = s.svc := rfl
@[simp] theorem State.putHarness_outbox (s : State) (h : Nat) (x : Harness) : (s.putHarness h x).outbox = s.outbox := rfl

/-! ## putLaunch -/

@[simp] theorem State.putLaunch_cur (s : State) (l : Nat) (x : Launch) : (s.putLaunch l x).cur = s.cur := rfl
@[simp] theorem State.putLaunch_ir (s : State) (l : Nat) (x : Launch) : (s.putLaunch l x).ir = s.ir := rfl
@[simp] theorem State.putLaunch_ev (s : State) (l : Nat) (x : Launch) : (s.putLaunch l x).ev = s.ev := rfl
@[simp] theorem State.putLaunch_schedule (s : State) (l : Nat) (x : Launch) : (s.putLaunch l x).schedule = s.schedule := rfl
@[simp] theorem State.putLaunch_agenda (s : State) (l : Nat) (x : Launch) : (s.putLaunch l x).agenda = s.agenda := rfl
@[simp] theorem State.putLaunch_ticks (s : State) (l : Nat) (x : Launch) : (s.putLaunch l x).ticks = s.ticks := rfl
@[simp] theorem State.putLaunch_freeIx (s : State) (l : Nat) (x : Launch) : (s.putLaunch l x).freeIx = s.freeIx := rfl
@[simp] theorem State.putLaunch_time (s : State) (l : Nat) (x : Launch) : (s.putLaunch l x).time = s.time := rfl
@[simp] theorem State.putLaunch_sweep (s : State) (l : Nat) (x : Launch) : (s.putLaunch l x).sweep = s.sweep := rfl
@[simp] theorem State.putLaunch_nextId (s : State) (l : Nat) (x : Launch) : (s.putLaunch l x).nextId = s.nextId := rfl
@[simp] theorem State.putLaunch_teams (s : State) (l : Nat) (x : Launch) : (s.putLaunch l x).teams = s.teams := rfl
@[simp] theorem State.putLaunch_harnesses (s : State) (l : Nat) (x : Launch) : (s.putLaunch l x).harnesses = s.harnesses := rfl
@[simp] theorem State.putLaunch_launches (s : State) (l : Nat) (x : Launch) : (s.putLaunch l x).launches = s.launches.set l x := rfl
@[simp] theorem State.putLaunch_cores (s : State) (l : Nat) (x : Launch) : (s.putLaunch l x).cores = s.cores := rfl
@[simp] theorem State.putLaunch_dies (s : State) (l : Nat) (x : Launch) : (s.putLaunch l x).dies = s.dies := rfl
@[simp] theorem State.putLaunch_hbm (s : State) (l : Nat) (x : Launch) : (s.putLaunch l x).hbm = s.hbm := rfl
@[simp] theorem State.putLaunch_cxl (s : State) (l : Nat) (x : Launch) : (s.putLaunch l x).cxl = s.cxl := rfl
@[simp] theorem State.putLaunch_host (s : State) (l : Nat) (x : Launch) : (s.putLaunch l x).host = s.host := rfl
@[simp] theorem State.putLaunch_peers (s : State) (l : Nat) (x : Launch) : (s.putLaunch l x).peers = s.peers := rfl
@[simp] theorem State.putLaunch_peerTags (s : State) (l : Nat) (x : Launch) : (s.putLaunch l x).peerTags = s.peerTags := rfl
@[simp] theorem State.putLaunch_funcs (s : State) (l : Nat) (x : Launch) : (s.putLaunch l x).funcs = s.funcs := rfl
@[simp] theorem State.putLaunch_pf (s : State) (l : Nat) (x : Launch) : (s.putLaunch l x).pf = s.pf := rfl
@[simp] theorem State.putLaunch_lostProcs (s : State) (l : Nat) (x : Launch) : (s.putLaunch l x).lostProcs = s.lostProcs := rfl
@[simp] theorem State.putLaunch_turns (s : State) (l : Nat) (x : Launch) : (s.putLaunch l x).turns = s.turns := rfl
@[simp] theorem State.putLaunch_ioTlb (s : State) (l : Nat) (x : Launch) : (s.putLaunch l x).ioTlb = s.ioTlb := rfl
@[simp] theorem State.putLaunch_faults (s : State) (l : Nat) (x : Launch) : (s.putLaunch l x).faults = s.faults := rfl
@[simp] theorem State.putLaunch_ops (s : State) (l : Nat) (x : Launch) : (s.putLaunch l x).ops = s.ops := rfl
@[simp] theorem State.putLaunch_late (s : State) (l : Nat) (x : Launch) : (s.putLaunch l x).late = s.late := rfl
@[simp] theorem State.putLaunch_transfers (s : State) (l : Nat) (x : Launch) : (s.putLaunch l x).transfers = s.transfers := rfl
@[simp] theorem State.putLaunch_portWrites (s : State) (l : Nat) (x : Launch) : (s.putLaunch l x).portWrites = s.portWrites := rfl
@[simp] theorem State.putLaunch_copies (s : State) (l : Nat) (x : Launch) : (s.putLaunch l x).copies = s.copies := rfl
@[simp] theorem State.putLaunch_graded (s : State) (l : Nat) (x : Launch) : (s.putLaunch l x).graded = s.graded := rfl
@[simp] theorem State.putLaunch_batches (s : State) (l : Nat) (x : Launch) : (s.putLaunch l x).batches = s.batches := rfl
@[simp] theorem State.putLaunch_batchNos (s : State) (l : Nat) (x : Launch) : (s.putLaunch l x).batchNos = s.batchNos := rfl
@[simp] theorem State.putLaunch_svc (s : State) (l : Nat) (x : Launch) : (s.putLaunch l x).svc = s.svc := rfl
@[simp] theorem State.putLaunch_outbox (s : State) (l : Nat) (x : Launch) : (s.putLaunch l x).outbox = s.outbox := rfl

/-! ## putCore -/

@[simp] theorem State.putCore_cur (s : State) (c : Nat) (x : Core) : (s.putCore c x).cur = s.cur := rfl
@[simp] theorem State.putCore_ir (s : State) (c : Nat) (x : Core) : (s.putCore c x).ir = s.ir := rfl
@[simp] theorem State.putCore_ev (s : State) (c : Nat) (x : Core) : (s.putCore c x).ev = s.ev := rfl
@[simp] theorem State.putCore_schedule (s : State) (c : Nat) (x : Core) : (s.putCore c x).schedule = s.schedule := rfl
@[simp] theorem State.putCore_agenda (s : State) (c : Nat) (x : Core) : (s.putCore c x).agenda = s.agenda := rfl
@[simp] theorem State.putCore_ticks (s : State) (c : Nat) (x : Core) : (s.putCore c x).ticks = s.ticks := rfl
@[simp] theorem State.putCore_freeIx (s : State) (c : Nat) (x : Core) : (s.putCore c x).freeIx = s.freeIx := rfl
@[simp] theorem State.putCore_time (s : State) (c : Nat) (x : Core) : (s.putCore c x).time = s.time := rfl
@[simp] theorem State.putCore_sweep (s : State) (c : Nat) (x : Core) : (s.putCore c x).sweep = s.sweep := rfl
@[simp] theorem State.putCore_nextId (s : State) (c : Nat) (x : Core) : (s.putCore c x).nextId = s.nextId := rfl
@[simp] theorem State.putCore_teams (s : State) (c : Nat) (x : Core) : (s.putCore c x).teams = s.teams := rfl
@[simp] theorem State.putCore_harnesses (s : State) (c : Nat) (x : Core) : (s.putCore c x).harnesses = s.harnesses := rfl
@[simp] theorem State.putCore_launches (s : State) (c : Nat) (x : Core) : (s.putCore c x).launches = s.launches := rfl
@[simp] theorem State.putCore_cores (s : State) (c : Nat) (x : Core) : (s.putCore c x).cores = s.cores.set c x := rfl
@[simp] theorem State.putCore_dies (s : State) (c : Nat) (x : Core) : (s.putCore c x).dies = s.dies := rfl
@[simp] theorem State.putCore_hbm (s : State) (c : Nat) (x : Core) : (s.putCore c x).hbm = s.hbm := rfl
@[simp] theorem State.putCore_cxl (s : State) (c : Nat) (x : Core) : (s.putCore c x).cxl = s.cxl := rfl
@[simp] theorem State.putCore_host (s : State) (c : Nat) (x : Core) : (s.putCore c x).host = s.host := rfl
@[simp] theorem State.putCore_peers (s : State) (c : Nat) (x : Core) : (s.putCore c x).peers = s.peers := rfl
@[simp] theorem State.putCore_peerTags (s : State) (c : Nat) (x : Core) : (s.putCore c x).peerTags = s.peerTags := rfl
@[simp] theorem State.putCore_funcs (s : State) (c : Nat) (x : Core) : (s.putCore c x).funcs = s.funcs := rfl
@[simp] theorem State.putCore_pf (s : State) (c : Nat) (x : Core) : (s.putCore c x).pf = s.pf := rfl
@[simp] theorem State.putCore_lostProcs (s : State) (c : Nat) (x : Core) : (s.putCore c x).lostProcs = s.lostProcs := rfl
@[simp] theorem State.putCore_turns (s : State) (c : Nat) (x : Core) : (s.putCore c x).turns = s.turns := rfl
@[simp] theorem State.putCore_ioTlb (s : State) (c : Nat) (x : Core) : (s.putCore c x).ioTlb = s.ioTlb := rfl
@[simp] theorem State.putCore_faults (s : State) (c : Nat) (x : Core) : (s.putCore c x).faults = s.faults := rfl
@[simp] theorem State.putCore_ops (s : State) (c : Nat) (x : Core) : (s.putCore c x).ops = s.ops := rfl
@[simp] theorem State.putCore_late (s : State) (c : Nat) (x : Core) : (s.putCore c x).late = s.late := rfl
@[simp] theorem State.putCore_transfers (s : State) (c : Nat) (x : Core) : (s.putCore c x).transfers = s.transfers := rfl
@[simp] theorem State.putCore_portWrites (s : State) (c : Nat) (x : Core) : (s.putCore c x).portWrites = s.portWrites := rfl
@[simp] theorem State.putCore_copies (s : State) (c : Nat) (x : Core) : (s.putCore c x).copies = s.copies := rfl
@[simp] theorem State.putCore_graded (s : State) (c : Nat) (x : Core) : (s.putCore c x).graded = s.graded := rfl
@[simp] theorem State.putCore_batches (s : State) (c : Nat) (x : Core) : (s.putCore c x).batches = s.batches := rfl
@[simp] theorem State.putCore_batchNos (s : State) (c : Nat) (x : Core) : (s.putCore c x).batchNos = s.batchNos := rfl
@[simp] theorem State.putCore_svc (s : State) (c : Nat) (x : Core) : (s.putCore c x).svc = s.svc := rfl
@[simp] theorem State.putCore_outbox (s : State) (c : Nat) (x : Core) : (s.putCore c x).outbox = s.outbox := rfl

/-! ## putDie -/

@[simp] theorem State.putDie_cur (s : State) (d : Nat) (x : Die) : (s.putDie d x).cur = s.cur := rfl
@[simp] theorem State.putDie_ir (s : State) (d : Nat) (x : Die) : (s.putDie d x).ir = s.ir := rfl
@[simp] theorem State.putDie_ev (s : State) (d : Nat) (x : Die) : (s.putDie d x).ev = s.ev := rfl
@[simp] theorem State.putDie_schedule (s : State) (d : Nat) (x : Die) : (s.putDie d x).schedule = s.schedule := rfl
@[simp] theorem State.putDie_agenda (s : State) (d : Nat) (x : Die) : (s.putDie d x).agenda = s.agenda := rfl
@[simp] theorem State.putDie_ticks (s : State) (d : Nat) (x : Die) : (s.putDie d x).ticks = s.ticks := rfl
@[simp] theorem State.putDie_freeIx (s : State) (d : Nat) (x : Die) : (s.putDie d x).freeIx = s.freeIx := rfl
@[simp] theorem State.putDie_time (s : State) (d : Nat) (x : Die) : (s.putDie d x).time = s.time := rfl
@[simp] theorem State.putDie_sweep (s : State) (d : Nat) (x : Die) : (s.putDie d x).sweep = s.sweep := rfl
@[simp] theorem State.putDie_nextId (s : State) (d : Nat) (x : Die) : (s.putDie d x).nextId = s.nextId := rfl
@[simp] theorem State.putDie_teams (s : State) (d : Nat) (x : Die) : (s.putDie d x).teams = s.teams := rfl
@[simp] theorem State.putDie_harnesses (s : State) (d : Nat) (x : Die) : (s.putDie d x).harnesses = s.harnesses := rfl
@[simp] theorem State.putDie_launches (s : State) (d : Nat) (x : Die) : (s.putDie d x).launches = s.launches := rfl
@[simp] theorem State.putDie_cores (s : State) (d : Nat) (x : Die) : (s.putDie d x).cores = s.cores := rfl
@[simp] theorem State.putDie_dies (s : State) (d : Nat) (x : Die) : (s.putDie d x).dies = s.dies.set d x := rfl
@[simp] theorem State.putDie_hbm (s : State) (d : Nat) (x : Die) : (s.putDie d x).hbm = s.hbm := rfl
@[simp] theorem State.putDie_cxl (s : State) (d : Nat) (x : Die) : (s.putDie d x).cxl = s.cxl := rfl
@[simp] theorem State.putDie_host (s : State) (d : Nat) (x : Die) : (s.putDie d x).host = s.host := rfl
@[simp] theorem State.putDie_peers (s : State) (d : Nat) (x : Die) : (s.putDie d x).peers = s.peers := rfl
@[simp] theorem State.putDie_peerTags (s : State) (d : Nat) (x : Die) : (s.putDie d x).peerTags = s.peerTags := rfl
@[simp] theorem State.putDie_funcs (s : State) (d : Nat) (x : Die) : (s.putDie d x).funcs = s.funcs := rfl
@[simp] theorem State.putDie_pf (s : State) (d : Nat) (x : Die) : (s.putDie d x).pf = s.pf := rfl
@[simp] theorem State.putDie_lostProcs (s : State) (d : Nat) (x : Die) : (s.putDie d x).lostProcs = s.lostProcs := rfl
@[simp] theorem State.putDie_turns (s : State) (d : Nat) (x : Die) : (s.putDie d x).turns = s.turns := rfl
@[simp] theorem State.putDie_ioTlb (s : State) (d : Nat) (x : Die) : (s.putDie d x).ioTlb = s.ioTlb := rfl
@[simp] theorem State.putDie_faults (s : State) (d : Nat) (x : Die) : (s.putDie d x).faults = s.faults := rfl
@[simp] theorem State.putDie_ops (s : State) (d : Nat) (x : Die) : (s.putDie d x).ops = s.ops := rfl
@[simp] theorem State.putDie_late (s : State) (d : Nat) (x : Die) : (s.putDie d x).late = s.late := rfl
@[simp] theorem State.putDie_transfers (s : State) (d : Nat) (x : Die) : (s.putDie d x).transfers = s.transfers := rfl
@[simp] theorem State.putDie_portWrites (s : State) (d : Nat) (x : Die) : (s.putDie d x).portWrites = s.portWrites := rfl
@[simp] theorem State.putDie_copies (s : State) (d : Nat) (x : Die) : (s.putDie d x).copies = s.copies := rfl
@[simp] theorem State.putDie_graded (s : State) (d : Nat) (x : Die) : (s.putDie d x).graded = s.graded := rfl
@[simp] theorem State.putDie_batches (s : State) (d : Nat) (x : Die) : (s.putDie d x).batches = s.batches := rfl
@[simp] theorem State.putDie_batchNos (s : State) (d : Nat) (x : Die) : (s.putDie d x).batchNos = s.batchNos := rfl
@[simp] theorem State.putDie_svc (s : State) (d : Nat) (x : Die) : (s.putDie d x).svc = s.svc := rfl
@[simp] theorem State.putDie_outbox (s : State) (d : Nat) (x : Die) : (s.putDie d x).outbox = s.outbox := rfl

/-! ## putFunc -/

@[simp] theorem State.putFunc_cur (s : State) (f : Nat) (x : Func) : (s.putFunc f x).cur = s.cur := by unfold State.putFunc; split <;> rfl
@[simp] theorem State.putFunc_ir (s : State) (f : Nat) (x : Func) : (s.putFunc f x).ir = s.ir := by unfold State.putFunc; split <;> rfl
@[simp] theorem State.putFunc_ev (s : State) (f : Nat) (x : Func) : (s.putFunc f x).ev = s.ev := by unfold State.putFunc; split <;> rfl
@[simp] theorem State.putFunc_schedule (s : State) (f : Nat) (x : Func) : (s.putFunc f x).schedule = s.schedule := by unfold State.putFunc; split <;> rfl
@[simp] theorem State.putFunc_agenda (s : State) (f : Nat) (x : Func) : (s.putFunc f x).agenda = s.agenda := by unfold State.putFunc; split <;> rfl
@[simp] theorem State.putFunc_ticks (s : State) (f : Nat) (x : Func) : (s.putFunc f x).ticks = s.ticks := by unfold State.putFunc; split <;> rfl
@[simp] theorem State.putFunc_freeIx (s : State) (f : Nat) (x : Func) : (s.putFunc f x).freeIx = s.freeIx := by unfold State.putFunc; split <;> rfl
@[simp] theorem State.putFunc_time (s : State) (f : Nat) (x : Func) : (s.putFunc f x).time = s.time := by unfold State.putFunc; split <;> rfl
@[simp] theorem State.putFunc_sweep (s : State) (f : Nat) (x : Func) : (s.putFunc f x).sweep = s.sweep := by unfold State.putFunc; split <;> rfl
@[simp] theorem State.putFunc_nextId (s : State) (f : Nat) (x : Func) : (s.putFunc f x).nextId = s.nextId := by unfold State.putFunc; split <;> rfl
@[simp] theorem State.putFunc_teams (s : State) (f : Nat) (x : Func) : (s.putFunc f x).teams = s.teams := by unfold State.putFunc; split <;> rfl
@[simp] theorem State.putFunc_harnesses (s : State) (f : Nat) (x : Func) : (s.putFunc f x).harnesses = s.harnesses := by unfold State.putFunc; split <;> rfl
@[simp] theorem State.putFunc_launches (s : State) (f : Nat) (x : Func) : (s.putFunc f x).launches = s.launches := by unfold State.putFunc; split <;> rfl
@[simp] theorem State.putFunc_cores (s : State) (f : Nat) (x : Func) : (s.putFunc f x).cores = s.cores := by unfold State.putFunc; split <;> rfl
@[simp] theorem State.putFunc_dies (s : State) (f : Nat) (x : Func) : (s.putFunc f x).dies = s.dies := by unfold State.putFunc; split <;> rfl
@[simp] theorem State.putFunc_hbm (s : State) (f : Nat) (x : Func) : (s.putFunc f x).hbm = s.hbm := by unfold State.putFunc; split <;> rfl
@[simp] theorem State.putFunc_cxl (s : State) (f : Nat) (x : Func) : (s.putFunc f x).cxl = s.cxl := by unfold State.putFunc; split <;> rfl
@[simp] theorem State.putFunc_host (s : State) (f : Nat) (x : Func) : (s.putFunc f x).host = s.host := by unfold State.putFunc; split <;> rfl
@[simp] theorem State.putFunc_peers (s : State) (f : Nat) (x : Func) : (s.putFunc f x).peers = s.peers := by unfold State.putFunc; split <;> rfl
@[simp] theorem State.putFunc_peerTags (s : State) (f : Nat) (x : Func) : (s.putFunc f x).peerTags = s.peerTags := by unfold State.putFunc; split <;> rfl
@[simp] theorem State.putFunc_funcs (s : State) (f : Nat) (x : Func) : (s.putFunc f x).funcs = if f < 64 then s.funcs.set f x else s.funcs := by unfold State.putFunc; split <;> rfl
@[simp] theorem State.putFunc_pf (s : State) (f : Nat) (x : Func) : (s.putFunc f x).pf = if f < 64 then s.pf else x := by unfold State.putFunc; split <;> rfl
@[simp] theorem State.putFunc_lostProcs (s : State) (f : Nat) (x : Func) : (s.putFunc f x).lostProcs = s.lostProcs := by unfold State.putFunc; split <;> rfl
@[simp] theorem State.putFunc_turns (s : State) (f : Nat) (x : Func) : (s.putFunc f x).turns = s.turns := by unfold State.putFunc; split <;> rfl
@[simp] theorem State.putFunc_ioTlb (s : State) (f : Nat) (x : Func) : (s.putFunc f x).ioTlb = s.ioTlb := by unfold State.putFunc; split <;> rfl
@[simp] theorem State.putFunc_faults (s : State) (f : Nat) (x : Func) : (s.putFunc f x).faults = s.faults := by unfold State.putFunc; split <;> rfl
@[simp] theorem State.putFunc_ops (s : State) (f : Nat) (x : Func) : (s.putFunc f x).ops = s.ops := by unfold State.putFunc; split <;> rfl
@[simp] theorem State.putFunc_late (s : State) (f : Nat) (x : Func) : (s.putFunc f x).late = s.late := by unfold State.putFunc; split <;> rfl
@[simp] theorem State.putFunc_transfers (s : State) (f : Nat) (x : Func) : (s.putFunc f x).transfers = s.transfers := by unfold State.putFunc; split <;> rfl
@[simp] theorem State.putFunc_portWrites (s : State) (f : Nat) (x : Func) : (s.putFunc f x).portWrites = s.portWrites := by unfold State.putFunc; split <;> rfl
@[simp] theorem State.putFunc_copies (s : State) (f : Nat) (x : Func) : (s.putFunc f x).copies = s.copies := by unfold State.putFunc; split <;> rfl
@[simp] theorem State.putFunc_graded (s : State) (f : Nat) (x : Func) : (s.putFunc f x).graded = s.graded := by unfold State.putFunc; split <;> rfl
@[simp] theorem State.putFunc_batches (s : State) (f : Nat) (x : Func) : (s.putFunc f x).batches = s.batches := by unfold State.putFunc; split <;> rfl
@[simp] theorem State.putFunc_batchNos (s : State) (f : Nat) (x : Func) : (s.putFunc f x).batchNos = s.batchNos := by unfold State.putFunc; split <;> rfl
@[simp] theorem State.putFunc_svc (s : State) (f : Nat) (x : Func) : (s.putFunc f x).svc = s.svc := by unfold State.putFunc; split <;> rfl
@[simp] theorem State.putFunc_outbox (s : State) (f : Nat) (x : Func) : (s.putFunc f x).outbox = s.outbox := by unfold State.putFunc; split <;> rfl

/-! ## post -/

@[simp] theorem State.post_cur (s : State) (i : Instr) (ev : EvArgs) : (s.post i ev).cur = s.cur := rfl
@[simp] theorem State.post_ir (s : State) (i : Instr) (ev : EvArgs) : (s.post i ev).ir = s.ir := rfl
@[simp] theorem State.post_ev (s : State) (i : Instr) (ev : EvArgs) : (s.post i ev).ev = s.ev := rfl
@[simp] theorem State.post_schedule (s : State) (i : Instr) (ev : EvArgs) : (s.post i ev).schedule = s.schedule := rfl
@[simp] theorem State.post_agenda (s : State) (i : Instr) (ev : EvArgs) : (s.post i ev).agenda = s.agenda ++ [(i, ev)] := rfl
@[simp] theorem State.post_ticks (s : State) (i : Instr) (ev : EvArgs) : (s.post i ev).ticks = s.ticks := rfl
@[simp] theorem State.post_freeIx (s : State) (i : Instr) (ev : EvArgs) : (s.post i ev).freeIx = s.freeIx := rfl
@[simp] theorem State.post_time (s : State) (i : Instr) (ev : EvArgs) : (s.post i ev).time = s.time := rfl
@[simp] theorem State.post_sweep (s : State) (i : Instr) (ev : EvArgs) : (s.post i ev).sweep = s.sweep := rfl
@[simp] theorem State.post_nextId (s : State) (i : Instr) (ev : EvArgs) : (s.post i ev).nextId = s.nextId := rfl
@[simp] theorem State.post_teams (s : State) (i : Instr) (ev : EvArgs) : (s.post i ev).teams = s.teams := rfl
@[simp] theorem State.post_harnesses (s : State) (i : Instr) (ev : EvArgs) : (s.post i ev).harnesses = s.harnesses := rfl
@[simp] theorem State.post_launches (s : State) (i : Instr) (ev : EvArgs) : (s.post i ev).launches = s.launches := rfl
@[simp] theorem State.post_cores (s : State) (i : Instr) (ev : EvArgs) : (s.post i ev).cores = s.cores := rfl
@[simp] theorem State.post_dies (s : State) (i : Instr) (ev : EvArgs) : (s.post i ev).dies = s.dies := rfl
@[simp] theorem State.post_hbm (s : State) (i : Instr) (ev : EvArgs) : (s.post i ev).hbm = s.hbm := rfl
@[simp] theorem State.post_cxl (s : State) (i : Instr) (ev : EvArgs) : (s.post i ev).cxl = s.cxl := rfl
@[simp] theorem State.post_host (s : State) (i : Instr) (ev : EvArgs) : (s.post i ev).host = s.host := rfl
@[simp] theorem State.post_peers (s : State) (i : Instr) (ev : EvArgs) : (s.post i ev).peers = s.peers := rfl
@[simp] theorem State.post_peerTags (s : State) (i : Instr) (ev : EvArgs) : (s.post i ev).peerTags = s.peerTags := rfl
@[simp] theorem State.post_funcs (s : State) (i : Instr) (ev : EvArgs) : (s.post i ev).funcs = s.funcs := rfl
@[simp] theorem State.post_pf (s : State) (i : Instr) (ev : EvArgs) : (s.post i ev).pf = s.pf := rfl
@[simp] theorem State.post_lostProcs (s : State) (i : Instr) (ev : EvArgs) : (s.post i ev).lostProcs = s.lostProcs := rfl
@[simp] theorem State.post_turns (s : State) (i : Instr) (ev : EvArgs) : (s.post i ev).turns = s.turns := rfl
@[simp] theorem State.post_ioTlb (s : State) (i : Instr) (ev : EvArgs) : (s.post i ev).ioTlb = s.ioTlb := rfl
@[simp] theorem State.post_faults (s : State) (i : Instr) (ev : EvArgs) : (s.post i ev).faults = s.faults := rfl
@[simp] theorem State.post_ops (s : State) (i : Instr) (ev : EvArgs) : (s.post i ev).ops = s.ops := rfl
@[simp] theorem State.post_late (s : State) (i : Instr) (ev : EvArgs) : (s.post i ev).late = s.late := rfl
@[simp] theorem State.post_transfers (s : State) (i : Instr) (ev : EvArgs) : (s.post i ev).transfers = s.transfers := rfl
@[simp] theorem State.post_portWrites (s : State) (i : Instr) (ev : EvArgs) : (s.post i ev).portWrites = s.portWrites := rfl
@[simp] theorem State.post_copies (s : State) (i : Instr) (ev : EvArgs) : (s.post i ev).copies = s.copies := rfl
@[simp] theorem State.post_graded (s : State) (i : Instr) (ev : EvArgs) : (s.post i ev).graded = s.graded := rfl
@[simp] theorem State.post_batches (s : State) (i : Instr) (ev : EvArgs) : (s.post i ev).batches = s.batches := rfl
@[simp] theorem State.post_batchNos (s : State) (i : Instr) (ev : EvArgs) : (s.post i ev).batchNos = s.batchNos := rfl
@[simp] theorem State.post_svc (s : State) (i : Instr) (ev : EvArgs) : (s.post i ev).svc = s.svc := rfl
@[simp] theorem State.post_outbox (s : State) (i : Instr) (ev : EvArgs) : (s.post i ev).outbox = s.outbox := rfl

/-! ## fresh -/

@[simp] theorem State.fresh_cur (s : State) : (s.fresh).cur = s.cur := rfl
@[simp] theorem State.fresh_ir (s : State) : (s.fresh).ir = s.ir := rfl
@[simp] theorem State.fresh_ev (s : State) : (s.fresh).ev = s.ev := rfl
@[simp] theorem State.fresh_schedule (s : State) : (s.fresh).schedule = s.schedule := rfl
@[simp] theorem State.fresh_agenda (s : State) : (s.fresh).agenda = s.agenda := rfl
@[simp] theorem State.fresh_ticks (s : State) : (s.fresh).ticks = s.ticks := rfl
@[simp] theorem State.fresh_freeIx (s : State) : (s.fresh).freeIx = s.freeIx := rfl
@[simp] theorem State.fresh_time (s : State) : (s.fresh).time = s.time := rfl
@[simp] theorem State.fresh_sweep (s : State) : (s.fresh).sweep = s.sweep := rfl
@[simp] theorem State.fresh_nextId (s : State) : (s.fresh).nextId = s.nextId + 1 := rfl
@[simp] theorem State.fresh_teams (s : State) : (s.fresh).teams = s.teams := rfl
@[simp] theorem State.fresh_harnesses (s : State) : (s.fresh).harnesses = s.harnesses := rfl
@[simp] theorem State.fresh_launches (s : State) : (s.fresh).launches = s.launches := rfl
@[simp] theorem State.fresh_cores (s : State) : (s.fresh).cores = s.cores := rfl
@[simp] theorem State.fresh_dies (s : State) : (s.fresh).dies = s.dies := rfl
@[simp] theorem State.fresh_hbm (s : State) : (s.fresh).hbm = s.hbm := rfl
@[simp] theorem State.fresh_cxl (s : State) : (s.fresh).cxl = s.cxl := rfl
@[simp] theorem State.fresh_host (s : State) : (s.fresh).host = s.host := rfl
@[simp] theorem State.fresh_peers (s : State) : (s.fresh).peers = s.peers := rfl
@[simp] theorem State.fresh_peerTags (s : State) : (s.fresh).peerTags = s.peerTags := rfl
@[simp] theorem State.fresh_funcs (s : State) : (s.fresh).funcs = s.funcs := rfl
@[simp] theorem State.fresh_pf (s : State) : (s.fresh).pf = s.pf := rfl
@[simp] theorem State.fresh_lostProcs (s : State) : (s.fresh).lostProcs = s.lostProcs := rfl
@[simp] theorem State.fresh_turns (s : State) : (s.fresh).turns = s.turns := rfl
@[simp] theorem State.fresh_ioTlb (s : State) : (s.fresh).ioTlb = s.ioTlb := rfl
@[simp] theorem State.fresh_faults (s : State) : (s.fresh).faults = s.faults := rfl
@[simp] theorem State.fresh_ops (s : State) : (s.fresh).ops = s.ops := rfl
@[simp] theorem State.fresh_late (s : State) : (s.fresh).late = s.late := rfl
@[simp] theorem State.fresh_transfers (s : State) : (s.fresh).transfers = s.transfers := rfl
@[simp] theorem State.fresh_portWrites (s : State) : (s.fresh).portWrites = s.portWrites := rfl
@[simp] theorem State.fresh_copies (s : State) : (s.fresh).copies = s.copies := rfl
@[simp] theorem State.fresh_graded (s : State) : (s.fresh).graded = s.graded := rfl
@[simp] theorem State.fresh_batches (s : State) : (s.fresh).batches = s.batches := rfl
@[simp] theorem State.fresh_batchNos (s : State) : (s.fresh).batchNos = s.batchNos := rfl
@[simp] theorem State.fresh_svc (s : State) : (s.fresh).svc = s.svc := rfl
@[simp] theorem State.fresh_outbox (s : State) : (s.fresh).outbox = s.outbox := rfl

/-! ## What the tables read -/

@[simp] theorem State.team_putTeam_same {s : State} {t : Nat} {x : Team} (h : t < s.teams.length) : (s.putTeam t x).team t = x := by
  simp [State.team, h]
@[simp] theorem State.team_putTeam_other {s : State} {t u : Nat} {x : Team} (h : u ≠ t) : (s.putTeam t x).team u = s.team u := by
  simp [State.team, Ne.symm h]
@[simp] theorem State.harness_putHarness_same {s : State} {t : Nat} {x : Harness} (h : t < s.harnesses.length) :
    (s.putHarness t x).harness t = x := by simp [State.harness, h]
@[simp] theorem State.harness_putHarness_other {s : State} {t u : Nat} {x : Harness} (h : u ≠ t) :
    (s.putHarness t x).harness u = s.harness u := by simp [State.harness, Ne.symm h]
@[simp] theorem State.launch_putLaunch_same {s : State} {t : Nat} {x : Launch} (h : t < s.launches.length) :
    (s.putLaunch t x).launch t = x := by simp [State.launch, h]
@[simp] theorem State.launch_putLaunch_other {s : State} {t u : Nat} {x : Launch} (h : u ≠ t) :
    (s.putLaunch t x).launch u = s.launch u := by simp [State.launch, Ne.symm h]
@[simp] theorem State.core_putCore_same {s : State} {t : Nat} {x : Core} (h : t < s.cores.length) : (s.putCore t x).core t = x := by
  simp [State.core, h]
@[simp] theorem State.core_putCore_other {s : State} {t u : Nat} {x : Core} (h : u ≠ t) : (s.putCore t x).core u = s.core u := by
  simp [State.core, Ne.symm h]
@[simp] theorem State.die_putDie_same {s : State} {t : Nat} {x : Die} (h : t < s.dies.length) : (s.putDie t x).die t = x := by
  simp [State.die, h]
@[simp] theorem State.die_putDie_other {s : State} {t u : Nat} {x : Die} (h : u ≠ t) : (s.putDie t x).die u = s.die u := by
  simp [State.die, Ne.symm h]

@[simp] theorem State.putTeam_harness (s : State) (t : Nat) (x : Team) (j : Nat) : (s.putTeam t x).harness j = s.harness j := rfl
@[simp] theorem State.putTeam_launch (s : State) (t : Nat) (x : Team) (j : Nat) : (s.putTeam t x).launch j = s.launch j := rfl
@[simp] theorem State.putTeam_core (s : State) (t : Nat) (x : Team) (j : Nat) : (s.putTeam t x).core j = s.core j := rfl
@[simp] theorem State.putTeam_die (s : State) (t : Nat) (x : Team) (j : Nat) : (s.putTeam t x).die j = s.die j := rfl
@[simp] theorem State.putTeam_func (s : State) (t : Nat) (x : Team) (j : Nat) : (s.putTeam t x).func j = s.func j := rfl
@[simp] theorem State.putHarness_team (s : State) (h : Nat) (x : Harness) (j : Nat) : (s.putHarness h x).team j = s.team j := rfl
@[simp] theorem State.putHarness_launch (s : State) (h : Nat) (x : Harness) (j : Nat) : (s.putHarness h x).launch j = s.launch j := rfl
@[simp] theorem State.putHarness_core (s : State) (h : Nat) (x : Harness) (j : Nat) : (s.putHarness h x).core j = s.core j := rfl
@[simp] theorem State.putHarness_die (s : State) (h : Nat) (x : Harness) (j : Nat) : (s.putHarness h x).die j = s.die j := rfl
@[simp] theorem State.putHarness_func (s : State) (h : Nat) (x : Harness) (j : Nat) : (s.putHarness h x).func j = s.func j := rfl
@[simp] theorem State.putLaunch_team (s : State) (l : Nat) (x : Launch) (j : Nat) : (s.putLaunch l x).team j = s.team j := rfl
@[simp] theorem State.putLaunch_harness (s : State) (l : Nat) (x : Launch) (j : Nat) : (s.putLaunch l x).harness j = s.harness j := rfl
@[simp] theorem State.putLaunch_core (s : State) (l : Nat) (x : Launch) (j : Nat) : (s.putLaunch l x).core j = s.core j := rfl
@[simp] theorem State.putLaunch_die (s : State) (l : Nat) (x : Launch) (j : Nat) : (s.putLaunch l x).die j = s.die j := rfl
@[simp] theorem State.putLaunch_func (s : State) (l : Nat) (x : Launch) (j : Nat) : (s.putLaunch l x).func j = s.func j := rfl
@[simp] theorem State.putCore_team (s : State) (c : Nat) (x : Core) (j : Nat) : (s.putCore c x).team j = s.team j := rfl
@[simp] theorem State.putCore_harness (s : State) (c : Nat) (x : Core) (j : Nat) : (s.putCore c x).harness j = s.harness j := rfl
@[simp] theorem State.putCore_launch (s : State) (c : Nat) (x : Core) (j : Nat) : (s.putCore c x).launch j = s.launch j := rfl
@[simp] theorem State.putCore_die (s : State) (c : Nat) (x : Core) (j : Nat) : (s.putCore c x).die j = s.die j := rfl
@[simp] theorem State.putCore_func (s : State) (c : Nat) (x : Core) (j : Nat) : (s.putCore c x).func j = s.func j := rfl
@[simp] theorem State.putDie_team (s : State) (d : Nat) (x : Die) (j : Nat) : (s.putDie d x).team j = s.team j := rfl
@[simp] theorem State.putDie_harness (s : State) (d : Nat) (x : Die) (j : Nat) : (s.putDie d x).harness j = s.harness j := rfl
@[simp] theorem State.putDie_launch (s : State) (d : Nat) (x : Die) (j : Nat) : (s.putDie d x).launch j = s.launch j := rfl
@[simp] theorem State.putDie_core (s : State) (d : Nat) (x : Die) (j : Nat) : (s.putDie d x).core j = s.core j := rfl
@[simp] theorem State.putDie_func (s : State) (d : Nat) (x : Die) (j : Nat) : (s.putDie d x).func j = s.func j := rfl
@[simp] theorem State.putFunc_team (s : State) (f : Nat) (x : Func) (j : Nat) : (s.putFunc f x).team j = s.team j := by simp [State.team]
@[simp] theorem State.putFunc_harness (s : State) (f : Nat) (x : Func) (j : Nat) : (s.putFunc f x).harness j = s.harness j := by simp [State.harness]
@[simp] theorem State.putFunc_launch (s : State) (f : Nat) (x : Func) (j : Nat) : (s.putFunc f x).launch j = s.launch j := by simp [State.launch]
@[simp] theorem State.putFunc_core (s : State) (f : Nat) (x : Func) (j : Nat) : (s.putFunc f x).core j = s.core j := by simp [State.core]
@[simp] theorem State.putFunc_die (s : State) (f : Nat) (x : Func) (j : Nat) : (s.putFunc f x).die j = s.die j := by simp [State.die]
@[simp] theorem State.post_team (s : State) (i : Instr) (ev : EvArgs) (j : Nat) : (s.post i ev).team j = s.team j := rfl
@[simp] theorem State.post_harness (s : State) (i : Instr) (ev : EvArgs) (j : Nat) : (s.post i ev).harness j = s.harness j := rfl
@[simp] theorem State.post_launch (s : State) (i : Instr) (ev : EvArgs) (j : Nat) : (s.post i ev).launch j = s.launch j := rfl
@[simp] theorem State.post_core (s : State) (i : Instr) (ev : EvArgs) (j : Nat) : (s.post i ev).core j = s.core j := rfl
@[simp] theorem State.post_die (s : State) (i : Instr) (ev : EvArgs) (j : Nat) : (s.post i ev).die j = s.die j := rfl
@[simp] theorem State.post_func (s : State) (i : Instr) (ev : EvArgs) (j : Nat) : (s.post i ev).func j = s.func j := rfl
@[simp] theorem State.fresh_team (s : State) (j : Nat) : (s.fresh).team j = s.team j := rfl
@[simp] theorem State.fresh_harness (s : State) (j : Nat) : (s.fresh).harness j = s.harness j := rfl
@[simp] theorem State.fresh_launch (s : State) (j : Nat) : (s.fresh).launch j = s.launch j := rfl
@[simp] theorem State.fresh_core (s : State) (j : Nat) : (s.fresh).core j = s.core j := rfl
@[simp] theorem State.fresh_die (s : State) (j : Nat) : (s.fresh).die j = s.die j := rfl
@[simp] theorem State.fresh_func (s : State) (j : Nat) : (s.fresh).func j = s.func j := rfl

@[simp] theorem State.putFunc_putFunc_self {s : State} {f : Nat} {x y : Func} : (s.putFunc f x).putFunc f y = s.putFunc f y := by
  unfold State.putFunc; split <;> simp
@[simp] theorem State.putTeam_putTeam_self {s : State} {t : Nat} {x y : Team} : (s.putTeam t x).putTeam t y = s.putTeam t y := by
  simp [State.putTeam]

end Sys2Proof.Machine
end

