-- ==== Sys2Proof/Laws/Issue.lean ====
section
/-! SUPPORT. What the issue of a word does, once for every instruction: the checks of R98 in their order, the fall-through,
the transfer of control, and the entry of an exception. -/

namespace Sys2Proof.Machine

theorem resumeOk_of_zero {i : Instr} {p : Path} (h : p.resume = 0) : resumeOk i p = true := by simp [resumeOk, h]

theorem issue_team {i : Instr} {r : Rules} {body : View → State → Eff} {s : State} {t : Nat} (h : s.cur = .team t) :
    issue i r body s = .next (issueTeam i r body s t) := by simp [issue, h]

theorem issue_shuttle {i : Instr} {r : Rules} {body : View → State → Eff} {s : State} {h n : Nat} (e : s.cur = .shuttle h n) :
    issue i r body s = .next (issueShuttle i r body s h n) := by simp [issue, e]

theorem issue_none {i : Instr} {r : Rules} {body : View → State → Eff} {s : State} (h : s.cur = .none) :
    issue i r body s = .fault .noParty := by simp [issue, h]

/-- A word that passes its checks has its own effect. -/
theorem issue_passes {i : Instr} {r : Rules} {body : View → State → Eff} {s : State} {t : Nat} (h : s.Passes t r) :
    issue i r body s = .next (finishTeam i r s t (s.team t).view (body (s.team t).view s)) := by
  rw [issue_team h.turn]
  have hd : ((s.team t).dormant && !r.counter) = false := by rcases h.awake with e | e <;> simp [e]
  have hc : (r.copy && !(s.team t).info.cpr) = false := by
    cases hcp : r.copy
    · rfl
    · simp [h.rights hcp]
  simp [issueTeam, h.team, resumeOk_of_zero h.plain, h.legal, h.mode, hd, hc, h.budget]

/-- The effect of an instruction that falls through, the macro unchanged by it. -/
theorem issue_done {i : Instr} {r : Rules} {body : View → State → Eff} {s s1 : State} {t : Nat} (h : s.Normal t r)
    (hb : body (s.team t).view s = .done s1) (hm : (s1.team t).path.mac = (s.team t).path.mac) :
    issue i r body s = .next (s.after t r s1) := by
  rw [issue_passes h.toPasses, hb]
  congr 1
  simp only [finishTeam, fallThrough, State.after, Path.inMacro, hm]
  cases hmac : (s.team t).path.mac with
  | none =>
    have hn : ¬ codeWords (s.launchOf t) ≤ (s.team t).path.pc + 1 := by
      rcases h.next with e | e
      · simp [Path.inMacro, hmac] at e
      · omega
    simp [hn]
  | some m =>
    obtain ⟨ws, j⟩ := m
    cases hme : macroEnds ws (j + 1) with
    | false => simp [hme]
    | true =>
      have hn : ¬ codeWords (s.launchOf t) ≤ (s.team t).path.pc + 1 := by
        rcases h.next with e | e
        · simp [Path.inMacro, hmac, hme] at e
        · omega
      simp [hn, hme]

/-- The effect of an instruction that moves the path to a word inside the code. -/
theorem issue_goto {i : Instr} {r : Rules} {body : View → State → Eff} {s s1 : State} {t k : Nat} (h : s.Passes t r)
    (hb : body (s.team t).view s = .goto s1 k) (hk : k < codeWords (s.launchOf t)) :
    issue i r body s = .next (s.jumped t r s1 k) := by
  rw [issue_passes h, hb]
  congr 1
  have : ¬ ((codeWords (s.launchOf t) : Int) ≤ (k : Int)) := by omega
  have h0 : ¬ ((k : Int) < 0) := by omega
  simp [finishTeam, transfer, State.jumped, this, h0]

theorem issue_stop {i : Instr} {r : Rules} {body : View → State → Eff} {s s1 : State} {t : Nat} (h : s.Passes t r)
    (hb : body (s.team t).view s = .stop s1) : issue i r body s = .next s1 := by
  rw [issue_passes h, hb]; rfl

theorem issue_fault {i : Instr} {r : Rules} {body : View → State → Eff} {s : State} {t : Nat} {c : Byte} {lo hi : Word}
    (h : s.Passes t r) (hb : body (s.team t).view s = .fault c lo hi) :
    issue i r body s = .next (teamFault s t c lo hi) := by
  rw [issue_passes h, hb]; rfl

theorem issue_wait {i : Instr} {r : Rules} {body : View → State → Eff} {s s1 : State} {t : Nat} {d : Dep} (h : s.Passes t r)
    (hb : body (s.team t).view s = .wait s1 d) : issue i r body s = .next (waitOn s1 t d) := by
  rw [issue_passes h, hb]; rfl

theorem issue_host {i : Instr} {r : Rules} {body : View → State → Eff} {s s1 : State} {t : Nat} {c : Byte} {va : Nat} {wr : Bool}
    (h : s.Passes t r) (hb : body (s.team t).view s = .host s1 c va wr) :
    issue i r body s = .next (teamHostFault s1 t c va wr) := by
  rw [issue_passes h, hb]; rfl

/-! ## Shuttles -/

theorem issue_shPasses {i : Instr} {r : Rules} {body : View → State → Eff} {s : State} {h n : Nat} (e : s.ShPasses h n r) :
    issue i r body s = .next (finishShuttle s h n (body (s.shuttle h n).view s)) := by
  rw [issue_shuttle e.turn]
  simp [issueShuttle, e.shuttle, e.legal, e.mode]

theorem issue_shDone {i : Instr} {r : Rules} {body : View → State → Eff} {s s1 : State} {h n : Nat} (e : s.ShNormal h n r)
    (hb : body (s.shuttle h n).view s = .done s1) : issue i r body s = .next (s.shAfter h n s1) := by
  rw [issue_shPasses e.toShPasses, hb]
  have : ¬ codeWords (s.launch (s.harness h).launch) ≤ (s.shuttle h n).pc + 1 := by have := e.next; omega
  simp [finishShuttle, State.shAfter, this]

theorem issue_shGoto {i : Instr} {r : Rules} {body : View → State → Eff} {s s1 : State} {h n k : Nat} (e : s.ShPasses h n r)
    (hb : body (s.shuttle h n).view s = .goto s1 k) (hk : k < codeWords (s.launch (s.harness h).launch)) :
    issue i r body s = .next (s.shJumped h n s1 k) := by
  rw [issue_shPasses e, hb]
  have : ¬ ((codeWords (s.launch (s.harness h).launch) : Int) ≤ (k : Int)) := by omega
  have h0 : ¬ ((k : Int) < 0) := by omega
  simp [finishShuttle, State.shJumped, this, h0]

theorem issue_shStop {i : Instr} {r : Rules} {body : View → State → Eff} {s s1 : State} {h n : Nat} (e : s.ShPasses h n r)
    (hb : body (s.shuttle h n).view s = .stop s1) : issue i r body s = .next s1 := by
  rw [issue_shPasses e, hb]; rfl

/-! ## The current team of an instruction -/

theorem curTeam_of {s : State} {t : Nat} (h : s.cur = .team t) : s.curTeam = t := by simp [State.curTeam, h]
theorem me_of {s : State} {t : Nat} (h : s.cur = .team t) : s.me = s.team t := by simp [State.me, curTeam_of h]
theorem putMe_of {s : State} {t : Nat} {x : Team} (h : s.cur = .team t) : s.putMe x = s.putTeam t x := by
  simp [State.putMe, curTeam_of h]
theorem putRegs_of {s : State} {t : Nat} {r : RegFile} (h : s.cur = .team t) :
    s.putRegs r = s.putTeam t { s.team t with regs := r } := by simp [State.putRegs, h]
theorem pcOf_of {s : State} {t : Nat} (h : s.cur = .team t) : pcOf s = (s.team t).path.pc := by simp [pcOf, h]

/-- An instruction that only writes registers: they are what its rule gives, and the path goes on. -/
theorem issue_regs {i : Instr} {r : Rules} {g : View → RegFile} {s : State} {t : Nat} (h : s.Normal t r) :
    issue i r (regsBody g) s = .next (s.after t r (s.putTeam t { s.team t with regs := g (s.team t).view })) := by
  refine issue_done h (by rw [regsBody, putRegs_of h.turn]) ?_
  rw [State.team_putTeam_same h.here]
  rfl

/-! ## Faults before an instruction's own rule -/

/-- An operand that the instruction does not take, or no instruction of a team at all (R81, R98). -/
theorem issue_illegal {i : Instr} {r : Rules} {body : View → State → Eff} {s : State} {t : Nat} (h : s.cur = .team t)
    (hr : r.team = false ∨ r.legal (s.team t).view = false) :
    issue i r body s = .next (teamFault s t 0x01 (wordShown i s) 0) := by
  rw [issue_team h]
  rcases hr with e | e <;> simp [issueTeam, e]

/-- A mode or an immediate that the instruction's own rule does not take: after dormancy and rights, before the budget
(R98, R172). -/
theorem issue_mode {i : Instr} {r : Rules} {body : View → State → Eff} {s : State} {t : Nat} (h : s.cur = .team t)
    (ht : r.team = true) (hz : (s.team t).path.resume = 0) (hl : r.legal (s.team t).view = true)
    (ha : (s.team t).dormant = false ∨ r.counter = true) (hc : r.copy = true → (s.team t).info.cpr = true)
    (hm : r.mode (s.team t).view = false) : issue i r body s = .next (teamFault s t 0x01 (wordShown i s) 0) := by
  rw [issue_team h]
  have hd : ((s.team t).dormant && !r.counter) = false := by rcases ha with e | e <;> simp [e]
  have hc' : (r.copy && !(s.team t).info.cpr) = false := by
    cases hcp : r.copy
    · rfl
    · simp [hc hcp]
  simp [issueTeam, ht, resumeOk_of_zero hz, hl, hd, hc', hm]

/-- A dormant path only goes on to the next word (R156). -/
theorem issue_dormant {i : Instr} {r : Rules} {body : View → State → Eff} {s : State} {t : Nat} (h : s.cur = .team t)
    (ht : r.team = true) (hz : (s.team t).path.resume = 0) (hl : r.legal (s.team t).view = true)
    (hd : (s.team t).dormant = true) (hc : r.counter = false) :
    issue i r body s = .next (fallThrough i { r with passes := some 1 } s t (s.team t).view s) := by
  rw [issue_team h]
  simp [issueTeam, ht, resumeOk_of_zero hz, hl, hd, hc]

/-! ## Exceptions -/

/-- What a trap entry leaves of a team (R394). -/
theorem Team.enter_ctl (x : Team) (cause : Byte) (pc mwi : Nat) (lo hi : Word) :
    (x.enter cause pc mwi lo hi).ctl =
      { x.ctl with
        tpcPc := BitVec.ofNat 22 pc, tpcMwi := BitVec.ofNat 5 mwi, tcause := cause, taddrLo := lo, taddrHi := hi
        tmode := x.ctl.mr, mr := 0, inh := true } := rfl

theorem Team.enter_regs (x : Team) (cause : Byte) (pc mwi : Nat) (lo hi : Word) : (x.enter cause pc mwi lo hi).regs = x.regs := rfl

theorem Team.putPath_path {x : Team} {p : Path} (h : x.flow.path < x.flow.paths.length) : (x.putPath p).path = p := by
  simp [Team.putPath, Team.putPathAt, Team.path, h]

theorem Team.enter_path {x : Team} (cause : Byte) (pc mwi : Nat) (lo hi : Word) (h : x.flow.path < x.flow.paths.length) :
    (x.enter cause pc mwi lo hi).path.pc = x.ctl.tvec.toNat := by
  show Path.pc (Team.path (Team.putPath _ _)) = _
  rw [Team.putPath_path (by exact h)]
  rfl

theorem dropPut_teams (s : State) (t p : Nat) : (dropPut s t p).teams = s.teams := by
  unfold dropPut; dsimp only; split
  · rfl
  · exact State.putFunc_teams _ _ _

theorem dropRequest_teams (s : State) (t p : Nat) : (dropRequest s t p).teams = s.teams := by
  unfold dropRequest; dsimp only; split
  · exact dropPut_teams s t p
  · exact dropPut_teams s t p

theorem dropRequest_team (s : State) (t p u : Nat) : (dropRequest s t p).team u = s.team u := by
  simp [State.team, dropRequest_teams]

/-- The team that enters its handler. -/
theorem enterTrap_team {s : State} {t : Nat} {cause : Byte} {pc mwi : Nat} {lo hi : Word} (h : t < s.teams.length) :
    (enterTrap s t cause pc mwi lo hi).team t = (s.team t).enter cause pc mwi lo hi := by
  unfold enterTrap
  rw [State.team_putTeam_same (by rw [dropRequest_teams]; exact h), dropRequest_team]

/-- A trap outside a handler with no halt pending and no single step under way is an entry. -/
theorem takeTrap_enters {s : State} {t : Nat} {cause : Byte} {pc mwi : Nat} {lo hi : Word} (hi' : (s.team t).ctl.inh = false)
    (hh : (s.team t).due.halt = false) (ho : (s.team t).due.one = none) :
    takeTrap s t cause pc mwi lo hi = enterTrap s t cause pc mwi lo hi := by simp [takeTrap, hi', hh, ho]

/-- Inside a handler every trap is a double fault (R396). -/
theorem takeTrap_inh {s : State} {t : Nat} {cause : Byte} {pc mwi : Nat} {lo hi : Word} (hi' : (s.team t).ctl.inh = true) :
    takeTrap s t cause pc mwi lo hi = doubleFault s t cause := by simp [takeTrap, hi']

theorem teamFault_inh {s : State} {t : Nat} {cause : Byte} {lo hi : Word} (h : (s.team t).ctl.inh = true) :
    teamFault s t cause lo hi = doubleFault s t cause := by simp [teamFault, h]

theorem teamFault_traps {s : State} {t : Nat} {cause : Byte} {lo hi : Word} (h : (s.team t).ctl.inh = false)
    (hp : goesToHandler s t cause = true) : teamFault s t cause lo hi = takeTrap s t cause (s.team t).at.1 (s.team t).at.2 lo hi := by
  simp [teamFault, h, hp]

theorem teamFault_halts {s : State} {t : Nat} {cause : Byte} {lo hi : Word} (h : (s.team t).ctl.inh = false)
    (hp : goesToHandler s t cause = false) : teamFault s t cause lo hi = haltFault s t cause lo hi := by
  simp [teamFault, h, hp]

end Sys2Proof.Machine
end

