-- ==== Sys2Proof/Laws/Late.lean ====
section
/-! SUPPORT. What has still to act: the list stays in the order of the places, and one entry is added (R229, R352, R392); and what the
shared operations on late accesses, event messages, packets, choices and calls can do. -/

namespace Sys2Proof.Machine

theorem mem_lateIn {x y : Late} {l : List Late} : y ∈ lateIn x l ↔ y = x ∨ y ∈ l := by
  induction l with
  | nil => simp [lateIn]
  | cons z r ih =>
    unfold lateIn
    split <;> simp [ih, or_left_comm]

theorem lateIn_sorted {x : Late} {l : List Late} (h : l.Pairwise fun a b => a.key ≤ b.key) :
    (lateIn x l).Pairwise fun a b => a.key ≤ b.key := by
  induction l with
  | nil => simp [lateIn]
  | cons z r ih =>
    obtain ⟨hz, hr⟩ := List.pairwise_cons.1 h
    unfold lateIn
    split
    · refine List.pairwise_cons.2 ⟨fun a ha => ?_, h⟩
      rcases List.mem_cons.1 ha with rfl | ha
      · omega
      · have := hz a ha; omega
    · refine List.pairwise_cons.2 ⟨fun a ha => ?_, ih hr⟩
      rcases mem_lateIn.1 ha with rfl | ha
      · omega
      · exact hz a ha

/-- What is set to act later is added to the list and changes nothing else. -/
theorem actLater_eq (s : State) (lanes : BitVec 1024) (key : Nat) (acts : List Act) :
    actLater s lanes key acts = { s with late := (actLater s lanes key acts).late } := by
  unfold actLater
  split <;> rfl

theorem askIn_eq (s : State) (n : Nat) (k : Ask) : askIn s n k = { s with late := (askIn s n k).late } := rfl

theorem storeScratch_eq (s : State) (lanes : BitVec 1024) (ps : List (List Act)) :
    storeScratch s lanes ps = { s with late := (storeScratch s lanes ps).late } := by
  unfold storeScratch
  rw [actLater_eq, actLater_eq s]

/-- A load or atomic of die scratch acts behind others or at once (R230). -/
theorem loadScratch_cases (s : State) (lanes : BitVec 1024) (ps : List (List Act)) :
    (∃ k, loadBehind s ps.flatten = some k ∧ loadScratch s lanes ps = actLater s lanes k ps.flatten) ∨
    (loadBehind s ps.flatten = none ∧ loadScratch s lanes ps = ps.foldl (runActs s.curPath s.curIssued true) s) := by
  unfold loadScratch
  cases loadBehind s ps.flatten with
  | some k => exact .inl ⟨k, rfl, rfl⟩
  | none => exact .inr ⟨rfl, rfl⟩

/-- What comes before an access is of the same party (R230). -/
theorem comesBefore_party {s : State} {mask : BitVec 1024} {x : Late} (h : comesBefore s mask x = true) : x.party = s.cur := by
  simp only [comesBefore, Bool.and_eq_true, beq_iff_eq] at h
  exact h.1

/-- With nothing late no read is still to be fixed (R366). -/
theorem readsLate_nil {s : State} (mask : BitVec 1024) (h : s.late = []) : readsLate s mask = false := by
  simp [readsLate, lastLate, h]

/-- An event message joins those that wait, or is sent (R442, R453). -/
theorem postMessage_cases (s : State) (f a : Nat) (bs : List Byte) :
    (eventOut s f = true ∧ postMessage s f a bs = s.putFunc f { s.func f with evwait := (s.func f).evwait ++ [(a, bs)] }) ∨
    (eventOut s f = false ∧ postMessage s f a bs = sendMessage s f a bs) := by
  unfold postMessage
  cases eventOut s f
  · exact .inr ⟨rfl, rfl⟩
  · exact .inl ⟨rfl, rfl⟩

/-- A queue with nothing accepted behind a packet stays as it is when that ends in error (R55). -/
theorem unaccept_of_nil {x : Queue} {p : Packet} (h : x.later p = []) : x.unaccept p = x := by
  unfold Queue.unaccept
  rw [h]

/-- A queue that drains keeps what it has accepted (R55). -/
theorem takeBack_draining {s : State} {f q : Nat} (p : Packet) (h : (s.queue f q).state = 5) : takeBack s f q p = s := by
  unfold takeBack
  simp only [h, if_true]

/-- A slot chooses a team that it may serve (R142). -/
theorem slotChoice_mem {s : State} {q : CPart} {k t : Nat} (h : slotChoice s q k = some t) : t ∈ candidates s q k :=
  List.mem_of_find?_eq_some h

/-- The next choice of a partition is that of a slot that is left (R142). -/
theorem nextChoice_some {s : State} {q : CPart} {k t : Nat} (h : nextChoice s q = some (k, t)) :
    slotFree s q k = true ∧ slotChoice s q k = some t := by
  obtain ⟨j, -, hj⟩ := List.exists_of_findSome?_eq_some h
  split at hj
  · obtain ⟨u, hu, he⟩ := Option.map_eq_some_iff.1 hj
    cases he
    exact ⟨‹_›, hu⟩
  · cases hj

/-- No trap comes at the end of a cycle in which no swap has been asked for (R412). -/
theorem endCycle_of_none {s : State} (h : ∀ k ∈ s.cores, askedNow s k = none) : endCycle s = s := by
  unfold endCycle
  rw [List.filterMap_eq_nil_iff.2 h]
  rfl

/-- A call that a check finds done only notes it and waits for its resumption (R413). -/
theorem findCall_team (s : State) (t : Nat) : (findCall s t).teams = (s.putTeam t { s.team t with svcFound := true }).teams := rfl

/-- A team whose current path is live stands at it. -/
theorem standIn_live {s : State} {t : Nat} (h : (s.team t).flow.paths.getD (s.team t).flow.path none ≠ none) : standIn s t = s := by
  unfold standIn
  simp only
  split
  · simp_all
  · rfl

end Sys2Proof.Machine
end

