-- ==== Sys2Proof/Laws/Sparse.lean ====
section
/-! SUPPORT. Sparse maps: reading what was written, other keys, and the canonical form. -/

namespace Sys2Proof

variable {w : Nat} {d : BitVec w}

theorem sparseWfFrom_mono {m : Sparse w} {lo lo' : Nat} (h : lo' ≤ lo) (hm : sparseWfFrom d lo m = true) :
    sparseWfFrom d lo' m = true := by
  cases m with
  | nil => rfl
  | cons e r =>
    simp only [sparseWfFrom, Bool.and_eq_true, decide_eq_true_eq] at hm ⊢
    exact ⟨⟨by omega, hm.1.2⟩, hm.2⟩

/-- A key below every listed key reads as the default. -/
theorem sget_of_lt {m : Sparse w} {lo a : Nat} (hm : sparseWfFrom d lo m = true) (h : a < lo) : sget d m a = d := by
  cases m with
  | nil => rfl
  | cons e r =>
    simp only [sparseWfFrom, Bool.and_eq_true, decide_eq_true_eq] at hm
    simp [sget, show ¬ a = e.1 by omega, show a < e.1 by omega]

theorem sset_wfFrom {m : Sparse w} {lo a : Nat} {v : BitVec w} (hm : sparseWfFrom d lo m = true) (h : lo ≤ a) :
    sparseWfFrom d lo (sset d m a v) = true := by
  induction m generalizing lo with
  | nil => by_cases hv : v = d <;> simp [sset, sparseWfFrom, hv, h]
  | cons e r ih =>
    obtain ⟨b, u⟩ := e
    simp only [sparseWfFrom, Bool.and_eq_true, decide_eq_true_eq] at hm
    obtain ⟨⟨h1, h2⟩, h3⟩ := hm
    simp only [sset]
    split
    · subst b
      split
      · exact sparseWfFrom_mono (by omega) h3
      · next hv => simp [sparseWfFrom, h, hv, h3]
    · split
      · split
        · simp [sparseWfFrom, h1, h2, h3]
        · next hv => simp [sparseWfFrom, h, hv, h2, h3]; omega
      · simp only [sparseWfFrom, Bool.and_eq_true, decide_eq_true_eq]
        exact ⟨⟨h1, h2⟩, ih h3 (by omega)⟩

/-- A write keeps the canonical form. -/
theorem sset_wf {m : Sparse w} {a : Nat} {v : BitVec w} (hm : sparseWf d m = true) : sparseWf d (sset d m a v) = true :=
  sset_wfFrom hm (Nat.zero_le a)

theorem sget_sset_same_from {m : Sparse w} {lo a : Nat} {v : BitVec w} (hm : sparseWfFrom d lo m = true) :
    sget d (sset d m a v) a = v := by
  induction m generalizing lo with
  | nil => by_cases hv : v = d <;> simp [sset, sget, hv]
  | cons e r ih =>
    obtain ⟨b, u⟩ := e
    simp only [sparseWfFrom, Bool.and_eq_true, decide_eq_true_eq] at hm
    obtain ⟨⟨h1, h2⟩, h3⟩ := hm
    simp only [sset]
    split
    · split
      · next hab hv => rw [sget_of_lt h3 (by omega), hv]
      · simp [sget]
    · split
      · next hab hlt => split <;> simp_all [sget]
      · next hab hlt => simp [sget, hab, hlt, ih h3]

/-- A read after a write to the same key gives what was written. -/
theorem sget_sset_same {m : Sparse w} {a : Nat} {v : BitVec w} (hm : sparseWf d m = true) : sget d (sset d m a v) a = v :=
  sget_sset_same_from hm

theorem sget_sset_other_from {m : Sparse w} {lo a c : Nat} {v : BitVec w} (hm : sparseWfFrom d lo m = true) (h : c ≠ a) :
    sget d (sset d m a v) c = sget d m c := by
  induction m generalizing lo with
  | nil => by_cases hv : v = d <;> simp [sset, sget, hv, h]
  | cons e r ih =>
    obtain ⟨b, u⟩ := e
    simp only [sparseWfFrom, Bool.and_eq_true, decide_eq_true_eq] at hm
    obtain ⟨⟨h1, h2⟩, h3⟩ := hm
    simp only [sset]
    split
    · next hab =>
      subst b
      split
      · by_cases hlt : c < a
        · simp [sget, h, hlt, sget_of_lt h3 (show c < a + 1 by omega)]
        · simp [sget, h, hlt]
      · simp [sget, h]
    · split
      · next hab hlt =>
        split
        · rfl
        · by_cases hca : c < a
          · simp [sget, h, hca, show ¬ c = b by omega, show c < b by omega]
          · simp [sget, h, hca]
      · simp [sget, ih h3]

/-- A write leaves every other key alone. -/
theorem sget_sset_other {m : Sparse w} {a c : Nat} {v : BitVec w} (hm : sparseWf d m = true) (h : c ≠ a) :
    sget d (sset d m a v) c = sget d m c := sget_sset_other_from hm h

theorem sparseWf_nil : sparseWf d ([] : Sparse w) = true := rfl

/-- Cells put one by one into an empty map are in canonical form. -/
theorem foldr_sset_wf (l : List (Nat × BitVec w)) :
    sparseWf d (l.foldr (fun e m => sset d m e.1 e.2) []) = true := by
  induction l with
  | nil => rfl
  | cons e r ih => exact sset_wf ih

theorem foldl_sset_wf {α : Type} (l : List α) (k : α → Nat) (v : α → BitVec w) {m : Sparse w} (hm : sparseWf d m = true) :
    sparseWf d (l.foldl (fun m x => sset d m (k x) (v x)) m) = true := by
  induction l generalizing m with
  | nil => exact hm
  | cons x r ih => exact ih (sset_wf hm)

theorem filter_wfFrom (p : Nat × BitVec w → Bool) {m : Sparse w} {lo : Nat} (hm : sparseWfFrom d lo m = true) :
    sparseWfFrom d lo (m.filter p) = true := by
  induction m generalizing lo with
  | nil => rfl
  | cons e r ih =>
    simp only [sparseWfFrom, Bool.and_eq_true, decide_eq_true_eq] at hm
    rw [List.filter_cons]
    split
    · simp only [sparseWfFrom, Bool.and_eq_true, decide_eq_true_eq]
      exact ⟨hm.1, ih hm.2⟩
    · exact sparseWfFrom_mono (by omega) (ih hm.2)

/-- Dropping entries keeps the canonical form. -/
theorem filter_wf (p : Nat × BitVec w → Bool) {m : Sparse w} (hm : sparseWf d m = true) : sparseWf d (m.filter p) = true :=
  filter_wfFrom p hm

end Sys2Proof
end

