-- ==== Sys2Proof/Laws/Memory.lean ====
section
/-! SUPPORT. Memory operations: what a store writes, what it leaves alone, and the canonical form of every memory. -/

namespace Sys2Proof.Machine

theorem leBytes_length (n x : Nat) : (leBytes n x).length = n := by
  induction n generalizing x with
  | zero => rfl
  | succ n ih => simp [leBytes, ih]

theorem memBytes_length (m : Memory) (a n : Nat) : (memBytes m a n).length = n := by
  induction n generalizing a with
  | zero => rfl
  | succ n ih => simp [memBytes, ih]

/-- Little-endian bytes read back as the number they were made of. -/
theorem leNat_leBytes (n x : Nat) : leNat (leBytes n x) = x % 256 ^ n := by
  induction n generalizing x with
  | zero => simp [leBytes, leNat, Nat.mod_one]
  | succ n ih =>
    have h : 256 ^ (n + 1) = 256 * 256 ^ n := by rw [Nat.pow_succ, Nat.mul_comm]
    simp only [leBytes, leNat, ih, BitVec.toNat_ofNat]
    rw [h, Nat.mod_mul]

/-- A store keeps the canonical form. -/
theorem memStore_wf {m : Memory} (a : Nat) (bs : List Byte) (hm : Memory.wf m = true) : Memory.wf (memStore m a bs) = true := by
  induction bs generalizing m a with
  | nil => exact hm
  | cons b r ih => exact ih _ (sset_wf hm)

theorem memStoreWord_wf {m : Memory} (a : Nat) (w : Word) (hm : Memory.wf m = true) : Memory.wf (memStoreWord m a w) = true :=
  memStore_wf a _ hm

/-- A store leaves every byte outside the stored ones alone. -/
theorem memByte_memStore_other {m : Memory} {a c : Nat} {bs : List Byte} (hm : Memory.wf m = true)
    (h : c < a ∨ a + bs.length ≤ c) : memByte (memStore m a bs) c = memByte m c := by
  induction bs generalizing m a with
  | nil => rfl
  | cons b r ih =>
    have hl : (b :: r).length = r.length + 1 := rfl
    rw [hl] at h
    rw [memStore, ih (sset_wf hm) (by omega)]
    exact sget_sset_other hm (by omega)

/-- A byte stored reads back. -/
theorem memByte_memStore {m : Memory} {a : Nat} {bs : List Byte} (hm : Memory.wf m = true) (i : Nat) (h : i < bs.length) :
    memByte (memStore m a bs) (a + i) = bs[i] := by
  induction bs generalizing m a i with
  | nil => simp at h
  | cons b r ih =>
    cases i with
    | zero =>
      rw [memStore, memByte_memStore_other (sset_wf hm) (by omega)]
      exact sget_sset_same hm
    | succ i =>
      have := ih (sset_wf (a := a) (v := b) hm) i (by simpa using h) (a := a + 1)
      rw [memStore, show a + (i + 1) = a + 1 + i by omega, this]
      rfl

theorem memBytes_memStore_other {m : Memory} {a c n : Nat} {bs : List Byte} (hm : Memory.wf m = true)
    (h : c + n ≤ a ∨ a + bs.length ≤ c) : memBytes (memStore m a bs) c n = memBytes m c n := by
  induction n generalizing c with
  | zero => rfl
  | succ n ih => rw [memBytes, memBytes, memByte_memStore_other hm (by omega), ih (by omega)]

/-- Bytes stored read back. -/
theorem memBytes_memStore {m : Memory} {a : Nat} {bs : List Byte} (hm : Memory.wf m = true) :
    memBytes (memStore m a bs) a bs.length = bs := by
  induction bs generalizing m a with
  | nil => rfl
  | cons b r ih =>
    simp only [List.length_cons, memBytes, memStore]
    rw [memByte_memStore_other (sset_wf hm) (by omega), ih (sset_wf hm)]
    congr 1
    exact sget_sset_same hm

/-- A word stored reads back (R3). -/
theorem memWord_memStoreWord {m : Memory} {a : Nat} {w : Word} (hm : Memory.wf m = true) :
    memWord (memStoreWord m a w) a = w := by
  have h := memBytes_memStore (a := a) (bs := leBytes 4 w.toNat) hm
  rw [leBytes_length] at h
  simp only [memWord, memStoreWord, h, leNat_leBytes]
  rw [Nat.mod_eq_of_lt (by have := w.isLt; omega)]
  exact BitVec.eq_of_toNat_eq (by simp)

/-! ## The memories of the state -/

theorem State.memWf_harness {s : State} (hs : s.memWf = true) (h : Nat) : (s.harness h).memWf = true := by
  simp only [State.memWf, Bool.and_eq_true, List.all_eq_true] at hs
  unfold State.harness
  rw [List.getD_eq_getElem?_getD]
  cases e : s.harnesses[h]? with
  | none => rfl
  | some x => exact hs.1.1.1.2 x (List.mem_of_getElem? e)

theorem State.memWf_core {s : State} (hs : s.memWf = true) (c : Nat) : (s.core c).memWf = true := by
  simp only [State.memWf, Bool.and_eq_true, List.all_eq_true] at hs
  unfold State.core
  rw [List.getD_eq_getElem?_getD]
  cases e : s.cores[c]? with
  | none => rfl
  | some x => exact hs.1.1.2 x (List.mem_of_getElem? e)

theorem State.memWf_die {s : State} (hs : s.memWf = true) (d : Nat) : Memory.wf (s.die d).scratch = true := by
  simp only [State.memWf, Bool.and_eq_true, List.all_eq_true] at hs
  unfold State.die
  rw [List.getD_eq_getElem?_getD]
  cases e : s.dies[d]? with
  | none => rfl
  | some x => exact hs.1.1.1.1.2 x (List.mem_of_getElem? e)

theorem State.memWf_func {s : State} (hs : s.memWf = true) (f : Nat) : (s.func f).memWf = true := by
  simp only [State.memWf, Bool.and_eq_true, List.all_eq_true] at hs
  unfold State.func
  split
  · rw [List.getD_eq_getElem?_getD]
    cases e : s.funcs[f]? with
    | none => rfl
    | some x => exact hs.1.2 x (List.mem_of_getElem? e)
  · exact hs.2

theorem List.all_set_of {α : Type} {p : α → Bool} {l : List α} {i : Nat} {x : α} (hl : l.all p = true) (hx : p x = true) :
    (l.set i x).all p = true := by
  rw [List.all_eq_true] at hl ⊢
  intro y hy
  rcases List.mem_or_eq_of_mem_set hy with h | h
  · exact hl y h
  · rw [h, hx]

theorem lookup_mem {α : Type} {l : List (Nat × α)} {k : Nat} {v : α} (h : l.lookup k = some v) : (k, v) ∈ l := by
  induction l with
  | nil => simp at h
  | cons q r ih =>
    obtain ⟨a, b⟩ := q
    rw [List.lookup_cons] at h
    cases e : k == a with
    | true => rw [e] at h; simp at e h; simp [e, h]
    | false => rw [e] at h; exact List.mem_cons_of_mem _ (ih h)

/-- The memory a place lies in is in canonical form. -/
theorem State.memAt_wf {s : State} (hs : s.memWf = true) (l : Loc) : Memory.wf (s.memAt l).1 = true := by
  cases l with
  | shared h a => have := memWf_harness hs h; simp [Harness.memWf] at this; exact this.1
  | scratch d a => exact memWf_die hs d
  | hbm a => simp only [State.memWf, Bool.and_eq_true] at hs; exact hs.1.1.1.1.1.1.1.1
  | cxl a => simp only [State.memWf, Bool.and_eq_true] at hs; exact hs.1.1.1.1.1.1.1.2
  | host a => simp only [State.memWf, Bool.and_eq_true] at hs; exact hs.1.1.1.1.1.1.2
  | peer p a =>
    simp only [State.memWf, Bool.and_eq_true, List.all_eq_true] at hs
    show Memory.wf ((s.peers.lookup p).getD []) = true
    cases e : s.peers.lookup p with
    | none => rfl
    | some m =>
      have : (p, m) ∈ s.peers := by
        exact lookup_mem e
      exact hs.1.1.1.1.1.2 _ this
  | zero => rfl

theorem State.memWf_putTeam {s : State} {t : Nat} {x : Team} : (s.putTeam t x).memWf = s.memWf := rfl
theorem State.memWf_putLaunch {s : State} {t : Nat} {x : Launch} : (s.putLaunch t x).memWf = s.memWf := rfl
theorem State.memWf_post {s : State} {i : Instr} {ev : EvArgs} : (s.post i ev).memWf = s.memWf := rfl
theorem State.memWf_fresh {s : State} : s.fresh.memWf = s.memWf := rfl

theorem State.memWf_putHarness {s : State} {h : Nat} {x : Harness} (hs : s.memWf = true) (hx : x.memWf = true) :
    (s.putHarness h x).memWf = true := by
  simp only [State.memWf, Bool.and_eq_true] at hs ⊢
  exact ⟨⟨⟨⟨hs.1.1.1.1, List.all_set_of hs.1.1.1.2 hx⟩, hs.1.1.2⟩, hs.1.2⟩, hs.2⟩

theorem State.memWf_putCore {s : State} {c : Nat} {x : Core} (hs : s.memWf = true) (hx : x.memWf = true) :
    (s.putCore c x).memWf = true := by
  simp only [State.memWf, Bool.and_eq_true] at hs ⊢
  exact ⟨⟨⟨hs.1.1.1, List.all_set_of hs.1.1.2 hx⟩, hs.1.2⟩, hs.2⟩

theorem State.memWf_putDie {s : State} {d : Nat} {x : Die} (hs : s.memWf = true) (hx : Memory.wf x.scratch = true) :
    (s.putDie d x).memWf = true := by
  simp only [State.memWf, Bool.and_eq_true] at hs ⊢
  exact ⟨⟨⟨⟨⟨hs.1.1.1.1.1, List.all_set_of hs.1.1.1.1.2 hx⟩, hs.1.1.1.2⟩, hs.1.1.2⟩, hs.1.2⟩, hs.2⟩

theorem State.memWf_putFunc {s : State} {f : Nat} {x : Func} (hs : s.memWf = true) (hx : x.memWf = true) :
    (s.putFunc f x).memWf = true := by
  unfold State.putFunc
  split
  · simp only [State.memWf, Bool.and_eq_true] at hs ⊢
    exact ⟨⟨hs.1.1, List.all_set_of hs.1.2 hx⟩, hs.2⟩
  · simp only [State.memWf, Bool.and_eq_true] at hs ⊢
    exact ⟨hs.1, hx⟩

/-- An entry put in an association list keeps what holds of every value. -/
theorem putAssoc_all {α : Type} {q : α → Bool} {l : List (Nat × α)} {k : Nat} {x : α} (hl : (l.all fun e => q e.2) = true)
    (hx : q x = true) : ((putAssoc l k x).all fun e => q e.2) = true := by
  rw [List.all_eq_true] at hl ⊢
  intro e he
  unfold putAssoc at he
  split at he
  · obtain ⟨y, hy, rfl⟩ := List.mem_map.mp he
    by_cases hp : y.1 = k
    · simp [hp, hx]
    · simp [hp, hl y hy]
  · rcases List.mem_append.mp he with h | h
    · exact hl e h
    · simp only [List.mem_singleton] at h
      subst h
      exact hx

/-- A memory in canonical form put where a place lies keeps every memory in it. -/
theorem State.putMem_memWf {s : State} (l : Loc) {m : Memory} (hs : s.memWf = true) (hm : Memory.wf m = true) :
    (s.putMem l m).memWf = true := by
  cases l with
  | shared h a =>
    have := memWf_harness hs h
    simp only [Harness.memWf, Bool.and_eq_true] at this
    exact memWf_putHarness hs (by simp [Harness.memWf, hm, this.2])
  | scratch d a => exact memWf_putDie hs hm
  | hbm a => simp only [State.memWf, State.putMem, Bool.and_eq_true] at hs ⊢; simp [hs, hm]
  | cxl a => simp only [State.memWf, State.putMem, Bool.and_eq_true] at hs ⊢; simp [hs, hm]
  | host a => simp only [State.memWf, State.putMem, Bool.and_eq_true] at hs ⊢; simp [hs, hm]
  | peer p a =>
    simp only [State.memWf, State.putMem, Bool.and_eq_true] at hs ⊢
    refine ⟨⟨⟨⟨⟨⟨hs.1.1.1.1.1.1, ?_⟩, hs.1.1.1.1.2⟩, hs.1.1.1.2⟩, hs.1.1.2⟩, hs.1.2⟩, hs.2⟩
    exact putAssoc_all (q := Memory.wf) hs.1.1.1.1.1.2 hm
  | zero => exact hs

/-- A store through a place keeps every memory in canonical form. -/
theorem State.locStore_memWf {s : State} (l : Loc) (bs : List Byte) (hs : s.memWf = true) : (s.locStore l bs).memWf = true :=
  putMem_memWf l hs (memStore_wf _ _ (memAt_wf hs l))

end Sys2Proof.Machine
end

