-- ==== Sys2Proof/Laws/PerInstr.lean ====
section
/-! SUPPORT. Per-instruction families: for every constructor, the word of a well-formed instruction decodes to it. -/

/-- What the family `RoundTrip` says of an instruction: its word decodes to it; a step without a word has none. -/
def Sys2Proof.Laws.RoundTrip.Statement (i : Sys2Proof.Instr) : Prop :=
  i.wellFormed = true → ∀ w, Sys2Proof.encode i = some w → Sys2Proof.decode w = some i

namespace Sys2Proof.Laws

theorem RoundTrip.jmp (i : BitVec 24) : RoundTrip.Statement (.jmp i) := fun _ => decode_of_fields rfl (congrArg (fun x => some (Instr.jmp x)) (append8_24 i))
theorem RoundTrip.brs (d : Byte) (i : BitVec 16) : RoundTrip.Statement (.brs d i) := fun _ => decode_of_fields rfl (congrArg (fun x => some (Instr.brs d x)) (append8_16 i))
theorem RoundTrip.brp (d : Byte) (i : BitVec 16) : RoundTrip.Statement (.brp d i) := fun _ => decode_of_fields rfl (congrArg (fun x => some (Instr.brp d x)) (append8_16 i))
theorem RoundTrip.ifP (d : Byte) (i : BitVec 16) : RoundTrip.Statement (.ifP d i) := fun _ => decode_of_fields rfl (congrArg (fun x => some (Instr.ifP d x)) (append8_16 i))
theorem RoundTrip.elseP (i : BitVec 16) : RoundTrip.Statement (.elseP i) := fun _ => decode_of_fields rfl (congrArg (fun x => some (Instr.elseP x)) (append8_16 i))
theorem RoundTrip.loop (i : BitVec 24) : RoundTrip.Statement (.loop i) := fun _ => decode_of_fields rfl (congrArg (fun x => some (Instr.loop x)) (append8_24 i))
theorem RoundTrip.endloop (i : BitVec 24) : RoundTrip.Statement (.endloop i) := fun _ => decode_of_fields rfl (congrArg (fun x => some (Instr.endloop x)) (append8_24 i))
theorem RoundTrip.breakP (d a : Byte) : RoundTrip.Statement (.breakP d a) := fun _ => decode_of_fields rfl rfl
theorem RoundTrip.contP (d a : Byte) : RoundTrip.Statement (.contP d a) := fun _ => decode_of_fields rfl rfl
theorem RoundTrip.join (d : Byte) (i : BitVec 16) : RoundTrip.Statement (.join d i) := fun h => decode_of_fields rfl
  ((if_pos (of_decide_eq_true h)).trans (congrArg (fun x => some (Instr.join d x)) (append8_16 i)))
theorem RoundTrip.jtab (d a b : Byte) : RoundTrip.Statement (.jtab d a b) := fun _ => decode_of_fields rfl rfl
theorem RoundTrip.call (i : BitVec 24) : RoundTrip.Statement (.call i) := fun _ => decode_of_fields rfl (congrArg (fun x => some (Instr.call x)) (append8_24 i))
theorem RoundTrip.ret (a : Byte) : RoundTrip.Statement (.ret a) := fun _ => decode_of_fields rfl rfl
theorem RoundTrip.mcall (d a b : Byte) : RoundTrip.Statement (.mcall d a b) := fun h => decode_of_fields rfl (if_pos (of_decide_eq_true h))
theorem RoundTrip.wait (i : BitVec 24) : RoundTrip.Statement (.wait i) := fun _ => decode_of_fields rfl (congrArg (fun x => some (Instr.wait x)) (append8_24 i))
theorem RoundTrip.trap (i : BitVec 16) : RoundTrip.Statement (.trap i) := fun _ => decode_of_fields rfl (congrArg (fun x => some (Instr.trap x)) (append8_16 i))
theorem RoundTrip.svc (i : BitVec 16) : RoundTrip.Statement (.svc i) := fun _ => decode_of_fields rfl (congrArg (fun x => some (Instr.svc x)) (append8_16 i))
theorem RoundTrip.bkpt (i : BitVec 16) : RoundTrip.Statement (.bkpt i) := fun _ => decode_of_fields rfl (congrArg (fun x => some (Instr.bkpt x)) (append8_16 i))
theorem RoundTrip.mode (i : BitVec 24) : RoundTrip.Statement (.mode i) := fun _ => decode_of_fields rfl (congrArg (fun x => some (Instr.mode x)) (append8_24 i))
theorem RoundTrip.modex (d a b : Byte) : RoundTrip.Statement (.modex d a b) := fun _ => decode_of_fields rfl rfl
theorem RoundTrip.rdcr (d : Byte) (i : BitVec 16) : RoundTrip.Statement (.rdcr d i) := fun _ => decode_of_fields rfl (congrArg (fun x => some (Instr.rdcr d x)) (append8_16 i))
theorem RoundTrip.wrcr (d : Byte) (i : BitVec 16) : RoundTrip.Statement (.wrcr d i) := fun _ => decode_of_fields rfl (congrArg (fun x => some (Instr.wrcr d x)) (append8_16 i))
theorem RoundTrip.rdtm (d a : Byte) : RoundTrip.Statement (.rdtm d a) := fun _ => decode_of_fields rfl rfl
theorem RoundTrip.trace (d : Byte) (i : BitVec 16) : RoundTrip.Statement (.trace d i) := fun _ => decode_of_fields rfl (congrArg (fun x => some (Instr.trace d x)) (append8_16 i))
theorem RoundTrip.sleep (i : BitVec 16) : RoundTrip.Statement (.sleep i) := fun _ => decode_of_fields rfl (congrArg (fun x => some (Instr.sleep x)) (append8_16 i))
theorem RoundTrip.gang (a : Byte) : RoundTrip.Statement (.gang a) := fun _ => decode_of_fields rfl rfl
theorem RoundTrip.pathq (d a b : Byte) : RoundTrip.Statement (.pathq d a b) := fun _ => decode_of_fields rfl rfl
theorem RoundTrip.add (d a b : Byte) : RoundTrip.Statement (.add d a b) := fun _ => decode_of_fields rfl rfl
theorem RoundTrip.sub (d a b : Byte) : RoundTrip.Statement (.sub d a b) := fun _ => decode_of_fields rfl rfl
theorem RoundTrip.mul (d a b : Byte) : RoundTrip.Statement (.mul d a b) := fun _ => decode_of_fields rfl rfl
theorem RoundTrip.mulh (d a b : Byte) : RoundTrip.Statement (.mulh d a b) := fun _ => decode_of_fields rfl rfl
theorem RoundTrip.mad (d a b : Byte) : RoundTrip.Statement (.mad d a b) := fun _ => decode_of_fields rfl rfl
theorem RoundTrip.min (d a b : Byte) : RoundTrip.Statement (.min d a b) := fun _ => decode_of_fields rfl rfl
theorem RoundTrip.max (d a b : Byte) : RoundTrip.Statement (.max d a b) := fun _ => decode_of_fields rfl rfl
theorem RoundTrip.abs (d a : Byte) : RoundTrip.Statement (.abs d a) := fun _ => decode_of_fields rfl rfl
theorem RoundTrip.neg (d a : Byte) : RoundTrip.Statement (.neg d a) := fun _ => decode_of_fields rfl rfl
theorem RoundTrip.addc (d a b : Byte) : RoundTrip.Statement (.addc d a b) := fun _ => decode_of_fields rfl rfl
theorem RoundTrip.subb (d a b : Byte) : RoundTrip.Statement (.subb d a b) := fun _ => decode_of_fields rfl rfl
theorem RoundTrip.divn (d a b : Byte) : RoundTrip.Statement (.divn d a b) := fun _ => decode_of_fields rfl rfl
theorem RoundTrip.remn (d a b : Byte) : RoundTrip.Statement (.remn d a b) := fun _ => decode_of_fields rfl rfl
theorem RoundTrip.addi (d : Byte) (i : BitVec 16) : RoundTrip.Statement (.addi d i) := fun _ => decode_of_fields rfl (congrArg (fun x => some (Instr.addi d x)) (append8_16 i))
theorem RoundTrip.muli (d : Byte) (i : BitVec 16) : RoundTrip.Statement (.muli d i) := fun _ => decode_of_fields rfl (congrArg (fun x => some (Instr.muli d x)) (append8_16 i))
theorem RoundTrip.clamp (d a b : Byte) : RoundTrip.Statement (.clamp d a b) := fun _ => decode_of_fields rfl rfl
theorem RoundTrip.and (d a b : Byte) : RoundTrip.Statement (.and d a b) := fun _ => decode_of_fields rfl rfl
theorem RoundTrip.or (d a b : Byte) : RoundTrip.Statement (.or d a b) := fun _ => decode_of_fields rfl rfl
theorem RoundTrip.xor (d a b : Byte) : RoundTrip.Statement (.xor d a b) := fun _ => decode_of_fields rfl rfl
theorem RoundTrip.andn (d a b : Byte) : RoundTrip.Statement (.andn d a b) := fun _ => decode_of_fields rfl rfl
theorem RoundTrip.not (d a : Byte) : RoundTrip.Statement (.not d a) := fun _ => decode_of_fields rfl rfl
theorem RoundTrip.shl (d a b : Byte) : RoundTrip.Statement (.shl d a b) := fun _ => decode_of_fields rfl rfl
theorem RoundTrip.shr (d a b : Byte) : RoundTrip.Statement (.shr d a b) := fun _ => decode_of_fields rfl rfl
theorem RoundTrip.sha (d a b : Byte) : RoundTrip.Statement (.sha d a b) := fun _ => decode_of_fields rfl rfl
theorem RoundTrip.rotl (d a b : Byte) : RoundTrip.Statement (.rotl d a b) := fun _ => decode_of_fields rfl rfl
theorem RoundTrip.shli (d : Byte) (i : BitVec 16) : RoundTrip.Statement (.shli d i) := fun h => decode_of_fields rfl
  ((if_pos (by rw [append8_16]; exact of_decide_eq_true h)).trans (congrArg (fun x => some (Instr.shli d x)) (append8_16 i)))
theorem RoundTrip.shri (d : Byte) (i : BitVec 16) : RoundTrip.Statement (.shri d i) := fun h => decode_of_fields rfl
  ((if_pos (by rw [append8_16]; exact of_decide_eq_true h)).trans (congrArg (fun x => some (Instr.shri d x)) (append8_16 i)))
theorem RoundTrip.shai (d : Byte) (i : BitVec 16) : RoundTrip.Statement (.shai d i) := fun h => decode_of_fields rfl
  ((if_pos (by rw [append8_16]; exact of_decide_eq_true h)).trans (congrArg (fun x => some (Instr.shai d x)) (append8_16 i)))
theorem RoundTrip.popc (d a : Byte) : RoundTrip.Statement (.popc d a) := fun _ => decode_of_fields rfl rfl
theorem RoundTrip.clz (d a : Byte) : RoundTrip.Statement (.clz d a) := fun _ => decode_of_fields rfl rfl
theorem RoundTrip.brev (d a : Byte) : RoundTrip.Statement (.brev d a) := fun _ => decode_of_fields rfl rfl
theorem RoundTrip.bfe (d a b : Byte) : RoundTrip.Statement (.bfe d a b) := fun _ => decode_of_fields rfl rfl
theorem RoundTrip.mov (d a : Byte) : RoundTrip.Statement (.mov d a) := fun _ => decode_of_fields rfl rfl
theorem RoundTrip.lit (d : Byte) (i : BitVec 16) : RoundTrip.Statement (.lit d i) := fun _ => decode_of_fields rfl (congrArg (fun x => some (Instr.lit d x)) (append8_16 i))
theorem RoundTrip.lih (d : Byte) (i : BitVec 16) : RoundTrip.Statement (.lih d i) := fun _ => decode_of_fields rfl (congrArg (fun x => some (Instr.lih d x)) (append8_16 i))
theorem RoundTrip.sel (d a b : Byte) : RoundTrip.Statement (.sel d a b) := fun _ => decode_of_fields rfl rfl
theorem RoundTrip.setpEq (d a b : Byte) : RoundTrip.Statement (.setpEq d a b) := fun _ => decode_of_fields rfl rfl
theorem RoundTrip.setpNe (d a b : Byte) : RoundTrip.Statement (.setpNe d a b) := fun _ => decode_of_fields rfl rfl
theorem RoundTrip.setpLt (d a b : Byte) : RoundTrip.Statement (.setpLt d a b) := fun _ => decode_of_fields rfl rfl
theorem RoundTrip.setpLe (d a b : Byte) : RoundTrip.Statement (.setpLe d a b) := fun _ => decode_of_fields rfl rfl
theorem RoundTrip.setpGt (d a b : Byte) : RoundTrip.Statement (.setpGt d a b) := fun _ => decode_of_fields rfl rfl
theorem RoundTrip.setpGe (d a b : Byte) : RoundTrip.Statement (.setpGe d a b) := fun _ => decode_of_fields rfl rfl
theorem RoundTrip.pand (d a b : Byte) : RoundTrip.Statement (.pand d a b) := fun _ => decode_of_fields rfl rfl
theorem RoundTrip.por (d a b : Byte) : RoundTrip.Statement (.por d a b) := fun _ => decode_of_fields rfl rfl
theorem RoundTrip.pnot (d a : Byte) : RoundTrip.Statement (.pnot d a) := fun _ => decode_of_fields rfl rfl
theorem RoundTrip.bfi (d a b : Byte) : RoundTrip.Statement (.bfi d a b) := fun _ => decode_of_fields rfl rfl
theorem RoundTrip.shfl (d a b : Byte) : RoundTrip.Statement (.shfl d a b) := fun _ => decode_of_fields rfl rfl
theorem RoundTrip.shflx (d a b : Byte) : RoundTrip.Statement (.shflx d a b) := fun _ => decode_of_fields rfl rfl
theorem RoundTrip.bcast (d a b : Byte) : RoundTrip.Statement (.bcast d a b) := fun _ => decode_of_fields rfl rfl
theorem RoundTrip.lread (d a b : Byte) : RoundTrip.Statement (.lread d a b) := fun _ => decode_of_fields rfl rfl
theorem RoundTrip.lwrite (d a b : Byte) : RoundTrip.Statement (.lwrite d a b) := fun _ => decode_of_fields rfl rfl
theorem RoundTrip.vany (d a : Byte) : RoundTrip.Statement (.vany d a) := fun _ => decode_of_fields rfl rfl
theorem RoundTrip.vall (d a : Byte) : RoundTrip.Statement (.vall d a) := fun _ => decode_of_fields rfl rfl
theorem RoundTrip.ballot (d a b : Byte) : RoundTrip.Statement (.ballot d a b) := fun _ => decode_of_fields rfl rfl
theorem RoundTrip.redadd (d a : Byte) : RoundTrip.Statement (.redadd d a) := fun _ => decode_of_fields rfl rfl
theorem RoundTrip.redmin (d a : Byte) : RoundTrip.Statement (.redmin d a) := fun _ => decode_of_fields rfl rfl
theorem RoundTrip.redmax (d a : Byte) : RoundTrip.Statement (.redmax d a) := fun _ => decode_of_fields rfl rfl
theorem RoundTrip.scanadd (d a : Byte) : RoundTrip.Statement (.scanadd d a) := fun _ => decode_of_fields rfl rfl
theorem RoundTrip.lanecnt (d : Byte) : RoundTrip.Statement (.lanecnt d) := fun _ => decode_of_fields rfl rfl
theorem RoundTrip.ffs (d a : Byte) : RoundTrip.Statement (.ffs d a) := fun _ => decode_of_fields rfl rfl
theorem RoundTrip.lea (d a b : Byte) : RoundTrip.Statement (.lea d a b) := fun _ => decode_of_fields rfl rfl
theorem RoundTrip.movp (d a : Byte) : RoundTrip.Statement (.movp d a) := fun _ => decode_of_fields rfl rfl
theorem RoundTrip.addp (d a b : Byte) : RoundTrip.Statement (.addp d a b) := fun _ => decode_of_fields rfl rfl
theorem RoundTrip.rand (d a b : Byte) : RoundTrip.Statement (.rand d a b) := fun _ => decode_of_fields rfl rfl
theorem RoundTrip.fadd (d a b : Byte) : RoundTrip.Statement (.fadd d a b) := fun _ => decode_of_fields rfl rfl
theorem RoundTrip.fsub (d a b : Byte) : RoundTrip.Statement (.fsub d a b) := fun _ => decode_of_fields rfl rfl
theorem RoundTrip.fmul (d a b : Byte) : RoundTrip.Statement (.fmul d a b) := fun _ => decode_of_fields rfl rfl
theorem RoundTrip.fma (d a b : Byte) : RoundTrip.Statement (.fma d a b) := fun _ => decode_of_fields rfl rfl
theorem RoundTrip.fmin (d a b : Byte) : RoundTrip.Statement (.fmin d a b) := fun _ => decode_of_fields rfl rfl
theorem RoundTrip.fmax (d a b : Byte) : RoundTrip.Statement (.fmax d a b) := fun _ => decode_of_fields rfl rfl
theorem RoundTrip.fabs (d a : Byte) : RoundTrip.Statement (.fabs d a) := fun _ => decode_of_fields rfl rfl
theorem RoundTrip.fneg (d a : Byte) : RoundTrip.Statement (.fneg d a) := fun _ => decode_of_fields rfl rfl
theorem RoundTrip.frcp (d a : Byte) : RoundTrip.Statement (.frcp d a) := fun _ => decode_of_fields rfl rfl
theorem RoundTrip.frsq (d a : Byte) : RoundTrip.Statement (.frsq d a) := fun _ => decode_of_fields rfl rfl
theorem RoundTrip.fexp2 (d a : Byte) : RoundTrip.Statement (.fexp2 d a) := fun _ => decode_of_fields rfl rfl
theorem RoundTrip.flog2 (d a : Byte) : RoundTrip.Statement (.flog2 d a) := fun _ => decode_of_fields rfl rfl
theorem RoundTrip.fscale (d a b : Byte) : RoundTrip.Statement (.fscale d a b) := fun _ => decode_of_fields rfl rfl
theorem RoundTrip.frnd (d a : Byte) : RoundTrip.Statement (.frnd d a) := fun _ => decode_of_fields rfl rfl
theorem RoundTrip.fclass (d a : Byte) : RoundTrip.Statement (.fclass d a) := fun _ => decode_of_fields rfl rfl
theorem RoundTrip.fsinpi (d a : Byte) : RoundTrip.Statement (.fsinpi d a) := fun _ => decode_of_fields rfl rfl
theorem RoundTrip.cvt (d a b : Byte) : RoundTrip.Statement (.cvt d a b) := fun _ => decode_of_fields rfl rfl
theorem RoundTrip.cvtw (d a b : Byte) : RoundTrip.Statement (.cvtw d a b) := fun _ => decode_of_fields rfl rfl
theorem RoundTrip.cvti2f (d a : Byte) : RoundTrip.Statement (.cvti2f d a) := fun _ => decode_of_fields rfl rfl
theorem RoundTrip.cvtf2i (d a : Byte) : RoundTrip.Statement (.cvtf2i d a) := fun _ => decode_of_fields rfl rfl
theorem RoundTrip.cvtr (d a b : Byte) : RoundTrip.Statement (.cvtr d a b) := fun _ => decode_of_fields rfl rfl
theorem RoundTrip.qenc (d a b : Byte) : RoundTrip.Statement (.qenc d a b) := fun _ => decode_of_fields rfl rfl
theorem RoundTrip.qdec (d a b : Byte) : RoundTrip.Statement (.qdec d a b) := fun _ => decode_of_fields rfl rfl
theorem RoundTrip.bscl (d a b : Byte) : RoundTrip.Statement (.bscl d a b) := fun h => decode_of_fields rfl (if_pos (of_decide_eq_true h))
theorem RoundTrip.pkn (d a b : Byte) : RoundTrip.Statement (.pkn d a b) := fun _ => decode_of_fields rfl rfl
theorem RoundTrip.upkn (d a b : Byte) : RoundTrip.Statement (.upkn d a b) := fun _ => decode_of_fields rfl rfl
theorem RoundTrip.pkb (d a b : Byte) : RoundTrip.Statement (.pkb d a b) := fun _ => decode_of_fields rfl rfl
theorem RoundTrip.upkb (d a b : Byte) : RoundTrip.Statement (.upkb d a b) := fun _ => decode_of_fields rfl rfl
theorem RoundTrip.pkh (d a b : Byte) : RoundTrip.Statement (.pkh d a b) := fun _ => decode_of_fields rfl rfl
theorem RoundTrip.upkh (d a b : Byte) : RoundTrip.Statement (.upkh d a b) := fun _ => decode_of_fields rfl rfl
theorem RoundTrip.redamax (d a : Byte) : RoundTrip.Statement (.redamax d a) := fun _ => decode_of_fields rfl rfl
theorem RoundTrip.fexpd (d a b : Byte) : RoundTrip.Statement (.fexpd d a b) := fun _ => decode_of_fields rfl rfl
theorem RoundTrip.lds (d a b : Byte) : RoundTrip.Statement (.lds d a b) := fun _ => decode_of_fields rfl rfl
theorem RoundTrip.sts (d a b : Byte) : RoundTrip.Statement (.sts d a b) := fun _ => decode_of_fields rfl rfl
theorem RoundTrip.lds2 (d a b : Byte) : RoundTrip.Statement (.lds2 d a b) := fun _ => decode_of_fields rfl rfl
theorem RoundTrip.sts2 (d a b : Byte) : RoundTrip.Statement (.sts2 d a b) := fun _ => decode_of_fields rfl rfl
theorem RoundTrip.lds4 (d a b : Byte) : RoundTrip.Statement (.lds4 d a b) := fun _ => decode_of_fields rfl rfl
theorem RoundTrip.sts4 (d a b : Byte) : RoundTrip.Statement (.sts4 d a b) := fun _ => decode_of_fields rfl rfl
theorem RoundTrip.spill (a b : Byte) : RoundTrip.Statement (.spill a b) := fun _ => decode_of_fields rfl rfl
theorem RoundTrip.fill (d b : Byte) : RoundTrip.Statement (.fill d b) := fun _ => decode_of_fields rfl rfl
theorem RoundTrip.atomsAdd (d a b : Byte) : RoundTrip.Statement (.atomsAdd d a b) := fun _ => decode_of_fields rfl rfl
theorem RoundTrip.atomsMin (d a b : Byte) : RoundTrip.Statement (.atomsMin d a b) := fun _ => decode_of_fields rfl rfl
theorem RoundTrip.atomsMax (d a b : Byte) : RoundTrip.Statement (.atomsMax d a b) := fun _ => decode_of_fields rfl rfl
theorem RoundTrip.atomsAnd (d a b : Byte) : RoundTrip.Statement (.atomsAnd d a b) := fun _ => decode_of_fields rfl rfl
theorem RoundTrip.atomsOr (d a b : Byte) : RoundTrip.Statement (.atomsOr d a b) := fun _ => decode_of_fields rfl rfl
theorem RoundTrip.atomsXchg (d a b : Byte) : RoundTrip.Statement (.atomsXchg d a b) := fun _ => decode_of_fields rfl rfl
theorem RoundTrip.atomsCas (d a b : Byte) : RoundTrip.Statement (.atomsCas d a b) := fun _ => decode_of_fields rfl rfl
theorem RoundTrip.fatomsAdd (d a b : Byte) : RoundTrip.Statement (.fatomsAdd d a b) := fun _ => decode_of_fields rfl rfl
theorem RoundTrip.ldx (d a b : Byte) : RoundTrip.Statement (.ldx d a b) := fun _ => decode_of_fields rfl rfl
theorem RoundTrip.stx (d a b : Byte) : RoundTrip.Statement (.stx d a b) := fun _ => decode_of_fields rfl rfl
theorem RoundTrip.ldx2 (d a b : Byte) : RoundTrip.Statement (.ldx2 d a b) := fun _ => decode_of_fields rfl rfl
theorem RoundTrip.stx2 (d a b : Byte) : RoundTrip.Statement (.stx2 d a b) := fun _ => decode_of_fields rfl rfl
theorem RoundTrip.ldx4 (d a b : Byte) : RoundTrip.Statement (.ldx4 d a b) := fun _ => decode_of_fields rfl rfl
theorem RoundTrip.stx4 (d a b : Byte) : RoundTrip.Statement (.stx4 d a b) := fun _ => decode_of_fields rfl rfl
theorem RoundTrip.atomxAdd (d a b : Byte) : RoundTrip.Statement (.atomxAdd d a b) := fun _ => decode_of_fields rfl rfl
theorem RoundTrip.atomxMin (d a b : Byte) : RoundTrip.Statement (.atomxMin d a b) := fun _ => decode_of_fields rfl rfl
theorem RoundTrip.atomxMax (d a b : Byte) : RoundTrip.Statement (.atomxMax d a b) := fun _ => decode_of_fields rfl rfl
theorem RoundTrip.atomxXchg (d a b : Byte) : RoundTrip.Statement (.atomxXchg d a b) := fun _ => decode_of_fields rfl rfl
theorem RoundTrip.atomxCas (d a b : Byte) : RoundTrip.Statement (.atomxCas d a b) := fun _ => decode_of_fields rfl rfl
theorem RoundTrip.fatomxAdd (d a b : Byte) : RoundTrip.Statement (.fatomxAdd d a b) := fun _ => decode_of_fields rfl rfl
theorem RoundTrip.ticket (d a b : Byte) : RoundTrip.Statement (.ticket d a b) := fun _ => decode_of_fields rfl rfl
theorem RoundTrip.fence (d a b : Byte) : RoundTrip.Statement (.fence d a b) := fun _ => decode_of_fields rfl rfl
theorem RoundTrip.waitv (d a b : Byte) : RoundTrip.Statement (.waitv d a b) := fun h => decode_of_fields rfl (if_pos (of_decide_eq_true h))
theorem RoundTrip.ldaq (d a b : Byte) : RoundTrip.Statement (.ldaq d a b) := fun _ => decode_of_fields rfl rfl
theorem RoundTrip.cpy (a : Byte) : RoundTrip.Statement (.cpy a) := fun _ => decode_of_fields rfl rfl
theorem RoundTrip.cpyt (a : Byte) : RoundTrip.Statement (.cpyt a) := fun _ => decode_of_fields rfl rfl
theorem RoundTrip.cpyg (a : Byte) : RoundTrip.Statement (.cpyg a) := fun _ => decode_of_fields rfl rfl
theorem RoundTrip.cpys (a : Byte) : RoundTrip.Statement (.cpys a) := fun _ => decode_of_fields rfl rfl
theorem RoundTrip.cpya (a : Byte) : RoundTrip.Statement (.cpya a) := fun _ => decode_of_fields rfl rfl
theorem RoundTrip.seal (d : Byte) : RoundTrip.Statement (.seal d) := fun _ => decode_of_fields rfl rfl
theorem RoundTrip.shrun (d a b : Byte) : RoundTrip.Statement (.shrun d a b) := fun _ => decode_of_fields rfl rfl
theorem RoundTrip.shstat (d a : Byte) : RoundTrip.Statement (.shstat d a) := fun _ => decode_of_fields rfl rfl
theorem RoundTrip.shstop (a : Byte) : RoundTrip.Statement (.shstop a) := fun _ => decode_of_fields rfl rfl
theorem RoundTrip.gput (a : Byte) : RoundTrip.Statement (.gput a) := fun _ => decode_of_fields rfl rfl
theorem RoundTrip.gget (a b : Byte) : RoundTrip.Statement (.gget a b) := fun _ => decode_of_fields rfl rfl
theorem RoundTrip.amend (a : Byte) : RoundTrip.Statement (.amend a) := fun _ => decode_of_fields rfl rfl
theorem RoundTrip.final (a : Byte) : RoundTrip.Statement (.final a) := fun _ => decode_of_fields rfl rfl
theorem RoundTrip.gqry (d a : Byte) : RoundTrip.Statement (.gqry d a) := fun _ => decode_of_fields rfl rfl
theorem RoundTrip.release (d a b : Byte) : RoundTrip.Statement (.release d a b) := fun _ => decode_of_fields rfl rfl
theorem RoundTrip.egress (a b : Byte) : RoundTrip.Statement (.egress a b) := fun _ => decode_of_fields rfl rfl
theorem RoundTrip.tld (d a b : Byte) : RoundTrip.Statement (.tld d a b) := fun _ => decode_of_fields rfl rfl
theorem RoundTrip.tst (d a b : Byte) : RoundTrip.Statement (.tst d a b) := fun _ => decode_of_fields rfl rfl
theorem RoundTrip.tgat (d a b : Byte) : RoundTrip.Statement (.tgat d a b) := fun _ => decode_of_fields rfl rfl
theorem RoundTrip.tsca (d a b : Byte) : RoundTrip.Statement (.tsca d a b) := fun _ => decode_of_fields rfl rfl
theorem RoundTrip.tcur (d a : Byte) : RoundTrip.Statement (.tcur d a) := fun _ => decode_of_fields rfl rfl
theorem RoundTrip.tstep (d a b : Byte) : RoundTrip.Statement (.tstep d a b) := fun _ => decode_of_fields rfl rfl
theorem RoundTrip.xld (d a b : Byte) : RoundTrip.Statement (.xld d a b) := fun _ => decode_of_fields rfl rfl
theorem RoundTrip.xst (d a b : Byte) : RoundTrip.Statement (.xst d a b) := fun _ => decode_of_fields rfl rfl
theorem RoundTrip.lpset (d a b : Byte) : RoundTrip.Statement (.lpset d a b) := fun _ => decode_of_fields rfl rfl
theorem RoundTrip.lpend (d : Byte) : RoundTrip.Statement (.lpend d) := fun _ => decode_of_fields rfl rfl
theorem RoundTrip.arrive (d a : Byte) : RoundTrip.Statement (.arrive d a) := fun _ => decode_of_fields rfl rfl
theorem RoundTrip.tzero (d a b : Byte) : RoundTrip.Statement (.tzero d a b) := fun _ => decode_of_fields rfl rfl
theorem RoundTrip.tadd (d a b : Byte) : RoundTrip.Statement (.tadd d a b) := fun _ => decode_of_fields rfl rfl
theorem RoundTrip.shwait (d : Byte) : RoundTrip.Statement (.shwait d) := fun _ => decode_of_fields rfl rfl
theorem RoundTrip.shpost (d a : Byte) : RoundTrip.Statement (.shpost d a) := fun _ => decode_of_fields rfl rfl
theorem RoundTrip.guard (a b : Byte) : RoundTrip.Statement (.guard a b) := fun _ => decode_of_fields rfl rfl
theorem RoundTrip.pack (d a : Byte) : RoundTrip.Statement (.pack d a) := fun _ => decode_of_fields rfl rfl
theorem RoundTrip.packr (d a : Byte) : RoundTrip.Statement (.packr d a) := fun _ => decode_of_fields rfl rfl
theorem RoundTrip.packq (d a b : Byte) : RoundTrip.Statement (.packq d a b) := fun _ => decode_of_fields rfl rfl
theorem RoundTrip.packa (d a b : Byte) : RoundTrip.Statement (.packa d a b) := fun _ => decode_of_fields rfl rfl
theorem RoundTrip.packs (d a b : Byte) : RoundTrip.Statement (.packs d a b) := fun _ => decode_of_fields rfl rfl
theorem RoundTrip.wmul (d a b : Byte) : RoundTrip.Statement (.wmul d a b) := fun _ => decode_of_fields rfl rfl
theorem RoundTrip.wmulk (d a b : Byte) : RoundTrip.Statement (.wmulk d a b) := fun _ => decode_of_fields rfl rfl
theorem RoundTrip.wmulg (d a b : Byte) : RoundTrip.Statement (.wmulg d a b) := fun _ => decode_of_fields rfl rfl
theorem RoundTrip.wmulgk (d a b : Byte) : RoundTrip.Statement (.wmulgk d a b) := fun _ => decode_of_fields rfl rfl
theorem RoundTrip.extr (d a : Byte) : RoundTrip.Statement (.extr d a) := fun _ => decode_of_fields rfl rfl
theorem RoundTrip.extsF32 (d a b : Byte) : RoundTrip.Statement (.extsF32 d a b) := fun _ => decode_of_fields rfl rfl
theorem RoundTrip.extsBf16 (d a b : Byte) : RoundTrip.Statement (.extsBf16 d a b) := fun _ => decode_of_fields rfl rfl
theorem RoundTrip.extsF16 (d a b : Byte) : RoundTrip.Statement (.extsF16 d a b) := fun _ => decode_of_fields rfl rfl
theorem RoundTrip.norm (d : Byte) : RoundTrip.Statement (.norm d) := fun _ => decode_of_fields rfl rfl
theorem RoundTrip.aclr (d : Byte) : RoundTrip.Statement (.aclr d) := fun _ => decode_of_fields rfl rfl
theorem RoundTrip.strm (d a : Byte) : RoundTrip.Statement (.strm d a) := fun _ => decode_of_fields rfl rfl
theorem RoundTrip.subs (d : Byte) : RoundTrip.Statement (.subs d) := fun _ => decode_of_fields rfl rfl
theorem RoundTrip.skipq (d a : Byte) : RoundTrip.Statement (.skipq d a) := fun _ => decode_of_fields rfl rfl
theorem RoundTrip.wstat (d a : Byte) : RoundTrip.Statement (.wstat d a) := fun _ => decode_of_fields rfl rfl
theorem RoundTrip.accst (d a : Byte) : RoundTrip.Statement (.accst d a) := fun _ => decode_of_fields rfl rfl
theorem RoundTrip.accld (d a b : Byte) : RoundTrip.Statement (.accld d a b) := fun _ => decode_of_fields rfl rfl
theorem RoundTrip.bfjoin (d a : Byte) : RoundTrip.Statement (.bfjoin d a) := fun _ => decode_of_fields rfl rfl
theorem RoundTrip.bftake (d a b : Byte) : RoundTrip.Statement (.bftake d a b) := fun _ => decode_of_fields rfl rfl
theorem RoundTrip.bfdone (a : Byte) : RoundTrip.Statement (.bfdone a) := fun _ => decode_of_fields rfl rfl
theorem RoundTrip.specpg (d a : Byte) : RoundTrip.Statement (.specpg d a) := fun _ => decode_of_fields rfl rfl
theorem RoundTrip.commit (d a b : Byte) : RoundTrip.Statement (.commit d a b) := fun _ => decode_of_fields rfl rfl
theorem RoundTrip.mbxput (a b : Byte) : RoundTrip.Statement (.mbxput a b) := fun _ => decode_of_fields rfl rfl
theorem RoundTrip.mbxget (d a b : Byte) : RoundTrip.Statement (.mbxget d a b) := fun _ => decode_of_fields rfl rfl
theorem RoundTrip.cancelq (d a : Byte) : RoundTrip.Statement (.cancelq d a) := fun _ => decode_of_fields rfl rfl
theorem RoundTrip.binit (a b : Byte) : RoundTrip.Statement (.binit a b) := fun _ => decode_of_fields rfl rfl
theorem RoundTrip.barr (a : Byte) : RoundTrip.Statement (.barr a) := fun _ => decode_of_fields rfl rfl
theorem RoundTrip.bexp (a b : Byte) : RoundTrip.Statement (.bexp a b) := fun _ => decode_of_fields rfl rfl
theorem RoundTrip.bwait (a b : Byte) : RoundTrip.Statement (.bwait a b) := fun _ => decode_of_fields rfl rfl
theorem RoundTrip.btry (d a b : Byte) : RoundTrip.Statement (.btry d a b) := fun _ => decode_of_fields rfl rfl
theorem RoundTrip.bret (a : Byte) : RoundTrip.Statement (.bret a) := fun _ => decode_of_fields rfl rfl
theorem RoundTrip.bgrd (d a : Byte) : RoundTrip.Statement (.bgrd d a) := fun _ => decode_of_fields rfl rfl
theorem RoundTrip.fetchw (d : Byte) : RoundTrip.Statement (.fetchw d) := fun _ => decode_of_fields rfl rfl
theorem RoundTrip.tryw (d : Byte) : RoundTrip.Statement (.tryw d) := fun _ => decode_of_fields rfl rfl
theorem RoundTrip.taskend (a b : Byte) : RoundTrip.Statement (.taskend a b) := fun _ => decode_of_fields rfl rfl
theorem RoundTrip.taskq (d a b : Byte) : RoundTrip.Statement (.taskq d a b) := fun _ => decode_of_fields rfl rfl
theorem RoundTrip.refire (a : Byte) : RoundTrip.Statement (.refire a) := fun _ => decode_of_fields rfl rfl
theorem RoundTrip.retire (a : Byte) : RoundTrip.Statement (.retire a) := fun _ => decode_of_fields rfl rfl
theorem RoundTrip.gwait (a : Byte) : RoundTrip.Statement (.gwait a) := fun _ => decode_of_fields rfl rfl
theorem RoundTrip.dispq (d a : Byte) : RoundTrip.Statement (.dispq d a) := fun _ => decode_of_fields rfl rfl
theorem RoundTrip.tmrset (a : Byte) : RoundTrip.Statement (.tmrset a) := fun _ => decode_of_fields rfl rfl
theorem RoundTrip.cswr (d a b : Byte) : RoundTrip.Statement (.cswr d a b) := fun _ => decode_of_fields rfl rfl
theorem RoundTrip.csrd (d a : Byte) : RoundTrip.Statement (.csrd d a) := fun _ => decode_of_fields rfl rfl
theorem RoundTrip.watch (d a : Byte) : RoundTrip.Statement (.watch d a) := fun _ => decode_of_fields rfl rfl
theorem RoundTrip.unwatch (d : Byte) : RoundTrip.Statement (.unwatch d) := fun _ => decode_of_fields rfl rfl
theorem RoundTrip.perfrd (d a : Byte) : RoundTrip.Statement (.perfrd d a) := fun _ => decode_of_fields rfl rfl
theorem RoundTrip.prec (a : Byte) : RoundTrip.Statement (.prec a) := fun _ => decode_of_fields rfl rfl
theorem RoundTrip.eccq (d a : Byte) : RoundTrip.Statement (.eccq d a) := fun _ => decode_of_fields rfl rfl
theorem RoundTrip.dot4 (d a b : Byte) : RoundTrip.Statement (.dot4 d a b) := fun _ => decode_of_fields rfl rfl
theorem RoundTrip.dot2 (d a b : Byte) : RoundTrip.Statement (.dot2 d a b) := fun _ => decode_of_fields rfl rfl
theorem RoundTrip.fdot2 (d a b : Byte) : RoundTrip.Statement (.fdot2 d a b) := fun _ => decode_of_fields rfl rfl
theorem RoundTrip.madw (d a b : Byte) : RoundTrip.Statement (.madw d a b) := fun _ => decode_of_fields rfl rfl
theorem RoundTrip.dbgmsg (a b : Byte) : RoundTrip.Statement (.dbgmsg a b) := fun _ => decode_of_fields rfl rfl
theorem RoundTrip.nop : RoundTrip.Statement (.nop) := fun _ => decode_of_fields rfl rfl
theorem RoundTrip.endif : RoundTrip.Statement (.endif) := fun _ => decode_of_fields rfl rfl
theorem RoundTrip.yield : RoundTrip.Statement (.yield) := fun _ => decode_of_fields rfl rfl
theorem RoundTrip.exit : RoundTrip.Statement (.exit) := fun _ => decode_of_fields rfl rfl
theorem RoundTrip.rtt : RoundTrip.Statement (.rtt) := fun _ => decode_of_fields rfl rfl
theorem RoundTrip.shend : RoundTrip.Statement (.shend) := fun _ => decode_of_fields rfl rfl
theorem RoundTrip.rls : RoundTrip.Statement (.rls) := fun _ => decode_of_fields rfl rfl
theorem RoundTrip.unsubs : RoundTrip.Statement (.unsubs) := fun _ => decode_of_fields rfl rfl
theorem RoundTrip.mret : RoundTrip.Statement (.mret) := fun _ => decode_of_fields rfl rfl
theorem RoundTrip.iflush : RoundTrip.Statement (.iflush) := fun _ => decode_of_fields rfl rfl
theorem RoundTrip.prio : RoundTrip.Statement (.prio) := fun _ => decode_of_fields rfl rfl
theorem RoundTrip.udf : RoundTrip.Statement (.udf) := fun _ => decode_of_fields rfl rfl
theorem RoundTrip.notify : RoundTrip.Statement (.notify) := fun _ => decode_of_none rfl
theorem RoundTrip.queueCreate : RoundTrip.Statement (.queueCreate) := fun _ => decode_of_none rfl
theorem RoundTrip.queueDestroy : RoundTrip.Statement (.queueDestroy) := fun _ => decode_of_none rfl
theorem RoundTrip.queueResume : RoundTrip.Statement (.queueResume) := fun _ => decode_of_none rfl
theorem RoundTrip.registerWrite : RoundTrip.Statement (.registerWrite) := fun _ => decode_of_none rfl
theorem RoundTrip.remoteWrite : RoundTrip.Statement (.remoteWrite) := fun _ => decode_of_none rfl
theorem RoundTrip.remoteRead : RoundTrip.Statement (.remoteRead) := fun _ => decode_of_none rfl
theorem RoundTrip.remoteAtomicAdd : RoundTrip.Statement (.remoteAtomicAdd) := fun _ => decode_of_none rfl
theorem RoundTrip.packetPoll : RoundTrip.Statement (.packetPoll) := fun _ => decode_of_none rfl
theorem RoundTrip.packetAccept : RoundTrip.Statement (.packetAccept) := fun _ => decode_of_none rfl
theorem RoundTrip.launch : RoundTrip.Statement (.launch) := fun _ => decode_of_none rfl
theorem RoundTrip.waitall : RoundTrip.Statement (.waitall) := fun _ => decode_of_none rfl
theorem RoundTrip.waitany : RoundTrip.Statement (.waitany) := fun _ => decode_of_none rfl
theorem RoundTrip.waitEvaluation : RoundTrip.Statement (.waitEvaluation) := fun _ => decode_of_none rfl
theorem RoundTrip.signal : RoundTrip.Statement (.signal) := fun _ => decode_of_none rfl
theorem RoundTrip.mbox : RoundTrip.Statement (.mbox) := fun _ => decode_of_none rfl
theorem RoundTrip.gputPacket : RoundTrip.Statement (.gputPacket) := fun _ => decode_of_none rfl
theorem RoundTrip.cancel : RoundTrip.Statement (.cancel) := fun _ => decode_of_none rfl
theorem RoundTrip.copy : RoundTrip.Statement (.copy) := fun _ => decode_of_none rfl
theorem RoundTrip.qfence : RoundTrip.Statement (.qfence) := fun _ => decode_of_none rfl
theorem RoundTrip.graphopSetPriority : RoundTrip.Statement (.graphopSetPriority) := fun _ => decode_of_none rfl
theorem RoundTrip.graphopAppendTask : RoundTrip.Statement (.graphopAppendTask) := fun _ => decode_of_none rfl
theorem RoundTrip.graphopRemoveTask : RoundTrip.Statement (.graphopRemoveTask) := fun _ => decode_of_none rfl
theorem RoundTrip.graphopDefinePool : RoundTrip.Statement (.graphopDefinePool) := fun _ => decode_of_none rfl
theorem RoundTrip.graphopBindEgress : RoundTrip.Statement (.graphopBindEgress) := fun _ => decode_of_none rfl
theorem RoundTrip.graphopBindServiceRing : RoundTrip.Statement (.graphopBindServiceRing) := fun _ => decode_of_none rfl
theorem RoundTrip.graphopBindTraceRing : RoundTrip.Statement (.graphopBindTraceRing) := fun _ => decode_of_none rfl
theorem RoundTrip.eventreq : RoundTrip.Statement (.eventreq) := fun _ => decode_of_none rfl
theorem RoundTrip.eventreqConditionHolds : RoundTrip.Statement (.eventreqConditionHolds) := fun _ => decode_of_none rfl
theorem RoundTrip.qprog : RoundTrip.Statement (.qprog) := fun _ => decode_of_none rfl
theorem RoundTrip.packetCompletion : RoundTrip.Statement (.packetCompletion) := fun _ => decode_of_none rfl
theorem RoundTrip.queueProcessorLost : RoundTrip.Statement (.queueProcessorLost) := fun _ => decode_of_none rfl
theorem RoundTrip.replyServed : RoundTrip.Statement (.replyServed) := fun _ => decode_of_none rfl
theorem RoundTrip.replyRefused : RoundTrip.Statement (.replyRefused) := fun _ => decode_of_none rfl
theorem RoundTrip.invalidatePage : RoundTrip.Statement (.invalidatePage) := fun _ => decode_of_none rfl
theorem RoundTrip.invalidateFunction : RoundTrip.Statement (.invalidateFunction) := fun _ => decode_of_none rfl
theorem RoundTrip.invalidationComplete : RoundTrip.Statement (.invalidationComplete) := fun _ => decode_of_none rfl
theorem RoundTrip.debugHalt : RoundTrip.Statement (.debugHalt) := fun _ => decode_of_none rfl
theorem RoundTrip.debugHaltTaken : RoundTrip.Statement (.debugHaltTaken) := fun _ => decode_of_none rfl
theorem RoundTrip.debugResume : RoundTrip.Statement (.debugResume) := fun _ => decode_of_none rfl
theorem RoundTrip.debugStepPath : RoundTrip.Statement (.debugStepPath) := fun _ => decode_of_none rfl
theorem RoundTrip.debugHoldPath : RoundTrip.Statement (.debugHoldPath) := fun _ => decode_of_none rfl
theorem RoundTrip.debugReleasePath : RoundTrip.Statement (.debugReleasePath) := fun _ => decode_of_none rfl
theorem RoundTrip.debugRead : RoundTrip.Statement (.debugRead) := fun _ => decode_of_none rfl
theorem RoundTrip.debugWrite : RoundTrip.Statement (.debugWrite) := fun _ => decode_of_none rfl
theorem RoundTrip.attestationRequest : RoundTrip.Statement (.attestationRequest) := fun _ => decode_of_none rfl
theorem RoundTrip.attestationReport : RoundTrip.Statement (.attestationReport) := fun _ => decode_of_none rfl
theorem RoundTrip.functionEnable : RoundTrip.Statement (.functionEnable) := fun _ => decode_of_none rfl
theorem RoundTrip.functionReset : RoundTrip.Statement (.functionReset) := fun _ => decode_of_none rfl
theorem RoundTrip.functionDisable : RoundTrip.Statement (.functionDisable) := fun _ => decode_of_none rfl
theorem RoundTrip.functionResetComplete : RoundTrip.Statement (.functionResetComplete) := fun _ => decode_of_none rfl
theorem RoundTrip.doorbell : RoundTrip.Statement (.doorbell) := fun _ => decode_of_none rfl
theorem RoundTrip.serviceRingCheck : RoundTrip.Statement (.serviceRingCheck) := fun _ => decode_of_none rfl
theorem RoundTrip.tileDeal : RoundTrip.Statement (.tileDeal) := fun _ => decode_of_none rfl
theorem RoundTrip.dealtTileArrival : RoundTrip.Statement (.dealtTileArrival) := fun _ => decode_of_none rfl
theorem RoundTrip.taskendReport : RoundTrip.Statement (.taskendReport) := fun _ => decode_of_none rfl
theorem RoundTrip.gradedWriteComplete : RoundTrip.Statement (.gradedWriteComplete) := fun _ => decode_of_none rfl
theorem RoundTrip.ggetLanding : RoundTrip.Statement (.ggetLanding) := fun _ => decode_of_none rfl
theorem RoundTrip.transferComplete : RoundTrip.Statement (.transferComplete) := fun _ => decode_of_none rfl
theorem RoundTrip.copyPieceTake : RoundTrip.Statement (.copyPieceTake) := fun _ => decode_of_none rfl
theorem RoundTrip.shuttleProgramStart : RoundTrip.Statement (.shuttleProgramStart) := fun _ => decode_of_none rfl
theorem RoundTrip.shuttleFaultTrap : RoundTrip.Statement (.shuttleFaultTrap) := fun _ => decode_of_none rfl
theorem RoundTrip.loadReturn : RoundTrip.Statement (.loadReturn) := fun _ => decode_of_none rfl
theorem RoundTrip.storePerformed : RoundTrip.Statement (.storePerformed) := fun _ => decode_of_none rfl
theorem RoundTrip.setChange : RoundTrip.Statement (.setChange) := fun _ => decode_of_none rfl
theorem RoundTrip.setChangeComplete : RoundTrip.Statement (.setChangeComplete) := fun _ => decode_of_none rfl
theorem RoundTrip.pathQuantumExpiry : RoundTrip.Statement (.pathQuantumExpiry) := fun _ => decode_of_none rfl
theorem RoundTrip.joinTimeout : RoundTrip.Statement (.joinTimeout) := fun _ => decode_of_none rfl
theorem RoundTrip.sleepExpiry : RoundTrip.Statement (.sleepExpiry) := fun _ => decode_of_none rfl
theorem RoundTrip.waitvPoll : RoundTrip.Statement (.waitvPoll) := fun _ => decode_of_none rfl
theorem RoundTrip.timerTrap : RoundTrip.Statement (.timerTrap) := fun _ => decode_of_none rfl
theorem RoundTrip.watchpointTrap : RoundTrip.Statement (.watchpointTrap) := fun _ => decode_of_none rfl
theorem RoundTrip.stepTrap : RoundTrip.Statement (.stepTrap) := fun _ => decode_of_none rfl
theorem RoundTrip.sliceExpiry : RoundTrip.Statement (.sliceExpiry) := fun _ => decode_of_none rfl
theorem RoundTrip.idleDeparture : RoundTrip.Statement (.idleDeparture) := fun _ => decode_of_none rfl
theorem RoundTrip.preemptionComplete : RoundTrip.Statement (.preemptionComplete) := fun _ => decode_of_none rfl
theorem RoundTrip.contextRestore : RoundTrip.Statement (.contextRestore) := fun _ => decode_of_none rfl
theorem RoundTrip.teamEnd : RoundTrip.Statement (.teamEnd) := fun _ => decode_of_none rfl
theorem RoundTrip.roundClose : RoundTrip.Statement (.roundClose) := fun _ => decode_of_none rfl
theorem RoundTrip.batchWindowExpiry : RoundTrip.Statement (.batchWindowExpiry) := fun _ => decode_of_none rfl
theorem RoundTrip.egressDeparture : RoundTrip.Statement (.egressDeparture) := fun _ => decode_of_none rfl
theorem RoundTrip.stallSample : RoundTrip.Statement (.stallSample) := fun _ => decode_of_none rfl
theorem RoundTrip.idleEntry : RoundTrip.Statement (.idleEntry) := fun _ => decode_of_none rfl
theorem RoundTrip.idleExit : RoundTrip.Statement (.idleExit) := fun _ => decode_of_none rfl
theorem RoundTrip.powerLoss : RoundTrip.Statement (.powerLoss) := fun _ => decode_of_none rfl
theorem RoundTrip.powerWindow : RoundTrip.Statement (.powerWindow) := fun _ => decode_of_none rfl
theorem RoundTrip.overTemperature : RoundTrip.Statement (.overTemperature) := fun _ => decode_of_none rfl
theorem RoundTrip.thermalShutdown : RoundTrip.Statement (.thermalShutdown) := fun _ => decode_of_none rfl
theorem RoundTrip.telemetryRefresh : RoundTrip.Statement (.telemetryRefresh) := fun _ => decode_of_none rfl
theorem RoundTrip.powerGood : RoundTrip.Statement (.powerGood) := fun _ => decode_of_none rfl
theorem RoundTrip.uncorrectableDataError : RoundTrip.Statement (.uncorrectableDataError) := fun _ => decode_of_none rfl
theorem RoundTrip.wmOperationComplete : RoundTrip.Statement (.wmOperationComplete) := fun _ => decode_of_none rfl
theorem RoundTrip.lastSourceByteRead : RoundTrip.Statement (.lastSourceByteRead) := fun _ => decode_of_none rfl
theorem RoundTrip.peerGradedWrite : RoundTrip.Statement (.peerGradedWrite) := fun _ => decode_of_none rfl
theorem RoundTrip.correctedEccError : RoundTrip.Statement (.correctedEccError) := fun _ => decode_of_none rfl
theorem RoundTrip.dieTemperatureFalls : RoundTrip.Statement (.dieTemperatureFalls) := fun _ => decode_of_none rfl

end Sys2Proof.Laws
end

