-- ==== Sys2Proof/Laws/Registers.lean ====
section
/-! SUPPORT. Register writes: what is written, what is left alone, and the canonical form of a register file. -/

namespace Sys2Proof.Machine

theorem vkey_inj {n m k j : Nat} (hk : k < 1024) (hj : j < 1024) (h : vkey n k = vkey m j) : n = m ∧ k = j := by
  unfold vkey at h; omega

theorem RegFile.wf_v {r : RegFile} (h : r.wf = true) : sparseWf 0 r.v = true := by
  simp only [RegFile.wf, Bool.and_eq_true] at h; exact h.1.1
theorem RegFile.wf_s {r : RegFile} (h : r.wf = true) : sparseWf 0 r.s = true := by
  simp only [RegFile.wf, Bool.and_eq_true] at h; exact h.1.2
theorem RegFile.wf_p {r : RegFile} (h : r.wf = true) : sparseWf 0 r.p = true := by
  simp only [RegFile.wf, Bool.and_eq_true] at h; exact h.2

/-! ## Scalars -/

theorem getS_putS_same {r : RegFile} {n : Nat} {x : Word} (h : r.wf = true) : getS (putS r n x) n = x :=
  sget_sset_same (RegFile.wf_s h)
theorem getS_putS_other {r : RegFile} {n m : Nat} {x : Word} (h : r.wf = true) (hn : m ≠ n) : getS (putS r n x) m = getS r m :=
  sget_sset_other (RegFile.wf_s h) hn
@[simp] theorem getV_putS {r : RegFile} {n m k : Nat} {x : Word} : getV (putS r n x) m k = getV r m k := rfl
@[simp] theorem getP_putS {r : RegFile} {n m : Nat} {x : Word} : getP (putS r n x) m = getP r m := rfl
theorem putS_wf {r : RegFile} {n : Nat} {x : Word} (h : r.wf = true) : (putS r n x).wf = true := by
  simp only [RegFile.wf, Bool.and_eq_true] at h ⊢
  exact ⟨⟨h.1.1, sset_wf h.1.2⟩, h.2⟩

/-! ## Vector registers -/

@[simp] theorem getS_putV {r : RegFile} {n m : Nat} {ks : List Nat} {g : Nat → Word} : getS (putV r n ks g) m = getS r m := by
  unfold putV; split <;> rfl
@[simp] theorem getP_putV {r : RegFile} {n m : Nat} {ks : List Nat} {g : Nat → Word} : getP (putV r n ks g) m = getP r m := by
  unfold putV; split <;> rfl

theorem putV_v (r : RegFile) (n : Nat) (ks : List Nat) (g : Nat → Word) :
    (putV r n ks g).v = ks.foldl (fun v k => sset 0 v (vkey n k) (g k)) r.v := by
  unfold putV; split
  · next h => subst h; rfl
  · rfl

theorem putV_wf {r : RegFile} {n : Nat} {ks : List Nat} {g : Nat → Word} (h : r.wf = true) : (putV r n ks g).wf = true := by
  unfold putV; split
  · exact h
  · simp only [RegFile.wf, Bool.and_eq_true] at h ⊢
    exact ⟨⟨foldl_sset_wf ks (vkey n) g h.1.1, h.1.2⟩, h.2⟩

theorem sget_foldl_sset {ks : List Nat} {n m k : Nat} {g : Nat → Word} {v : Sparse 32} (hv : sparseWf 0 v = true)
    (hks : ∀ j ∈ ks, j < 1024) (hk : k < 1024) :
    sget 0 (ks.foldl (fun v j => sset 0 v (vkey n j) (g j)) v) (vkey m k) =
      if m = n ∧ k ∈ ks then g k else sget 0 v (vkey m k) := by
  induction ks generalizing v with
  | nil => simp
  | cons j r ih =>
    rw [List.foldl_cons, ih (sset_wf hv) (fun i hi => hks i (List.mem_cons_of_mem _ hi))]
    have hj : j < 1024 := hks j (List.mem_cons_self ..)
    by_cases hm : m = n
    · subst hm
      by_cases hr : k ∈ r
      · simp [hr]
      · by_cases hkj : k = j
        · subst hkj; rw [sget_sset_same hv]; simp [hr]
        · rw [sget_sset_other hv fun h => hkj (vkey_inj hk hj h).2]; simp [hr, hkj]
    · rw [sget_sset_other hv fun h => hm (vkey_inj hk hj h).1]; simp [hm]

/-- A vector register after a write of the lanes `ks`: the written value in them, every other lane and register as before. -/
theorem getV_putV {r : RegFile} {n m k : Nat} {ks : List Nat} {g : Nat → Word} (h : r.wf = true)
    (hks : ∀ j ∈ ks, j < 1024) (hk : k < 1024) :
    getV (putV r n ks g) m k = if m = n ∧ k ∈ ks then g k else getV r m k := by
  unfold getV
  rw [putV_v]
  exact sget_foldl_sset (RegFile.wf_v h) hks hk

/-! ## Predicates -/

@[simp] theorem getS_putP {r : RegFile} {n m : Nat} {ks : List Nat} {g : Nat → Bool} : getS (putP r n ks g) m = getS r m := by
  unfold putP; split <;> rfl
@[simp] theorem getV_putP {r : RegFile} {n m k : Nat} {ks : List Nat} {g : Nat → Bool} : getV (putP r n ks g) m k = getV r m k := by
  unfold putP; split <;> rfl
theorem putP_wf {r : RegFile} {n : Nat} {ks : List Nat} {g : Nat → Bool} (h : r.wf = true) : (putP r n ks g).wf = true := by
  unfold putP; split
  · exact h
  · simp only [RegFile.wf, Bool.and_eq_true] at h ⊢
    exact ⟨h.1, sset_wf h.2⟩

theorem setBit_getLsbD {m : BitVec 1024} {j k : Nat} {b : Bool} (hk : k < 1024) :
    ((m &&& ~~~(BitVec.twoPow 1024 j)) ||| (if b then BitVec.twoPow 1024 j else 0)).getLsbD k =
      if k = j then b else m.getLsbD k := by
  rw [BitVec.getLsbD_or, BitVec.getLsbD_and, BitVec.getLsbD_not, apply_ite (fun z : BitVec 1024 => z.getLsbD k),
    BitVec.getLsbD_twoPow]
  by_cases h : k = j
  · subst h; cases b <;> simp [hk]
  · have : ¬ j = k := fun e => h e.symm
    cases b <;> simp [hk, h, this]

theorem foldl_bits {ks : List Nat} {g : Nat → Bool} {m : BitVec 1024} {k : Nat} (hk : k < 1024) :
    (ks.foldl (fun m j => (m &&& ~~~(BitVec.twoPow 1024 j)) ||| (if g j then BitVec.twoPow 1024 j else 0)) m).getLsbD k =
      if k ∈ ks then g k else m.getLsbD k := by
  induction ks generalizing m with
  | nil => simp
  | cons j r ih =>
    rw [List.foldl_cons, ih, setBit_getLsbD hk]
    by_cases hr : k ∈ r
    · simp [hr]
    · by_cases hkj : k = j
      · subst hkj; simp
      · simp [hr, hkj]

/-- A predicate after a write of the lanes `ks`; p0 stays true. -/
theorem getP_putP {r : RegFile} {n m k : Nat} {ks : List Nat} {g : Nat → Bool} (h : r.wf = true) (hk : k < 1024) :
    (getP (putP r n ks g) m).getLsbD k = if m = n ∧ n ≠ 0 ∧ k ∈ ks then g k else (getP r m).getLsbD k := by
  have hp := RegFile.wf_p h
  by_cases hn : n = 0
  · rw [show putP r n ks g = r from if_pos hn, if_neg fun e => e.2.1 hn]
  · rw [show putP r n ks g = _ from if_neg hn]
    unfold getP
    by_cases h0 : m = 0
    · rw [if_pos h0, if_pos h0, if_neg (by omega)]
    · rw [if_neg h0, if_neg h0]
      by_cases hm : m = n
      · subst hm
        rw [sget_sset_same hp, foldl_bits hk]
        by_cases hk' : k ∈ ks
        · rw [if_pos hk', if_pos ⟨rfl, hn, hk'⟩]
        · rw [if_neg hk', if_neg fun e => hk' e.2.2]
      · rw [sget_sset_other hp hm, if_neg fun e => hm e.1]

end Sys2Proof.Machine
end

