-- ==== Sys2Proof/Tests/Slice0.lean ====
section
/-! SUPPORT. Small tests: the checks of WellFormed refuse an ill-formed term each, words written out from the spec's
encodings decode as they should, single steps give what the spec's rules give by hand, and every statement's hypotheses
have a witness. -/

namespace Sys2Proof.Tests
open Sys2Proof.Machine Sys2Proof.Claims

-- One theorem after the other: every kernel evaluation in the same thread.
set_option Elab.async false

/-! ## WellFormed -/

theorem test_join_token_16_refused : (Instr.join 16 0).wellFormed = false ∧ (Instr.join 15 0).wellFormed = true := by decide
theorem test_mcall_macro_64_refused : (Instr.mcall 64 0 0).wellFormed = false ∧ (Instr.mcall 63 0 0).wellFormed = true := by decide
theorem test_shli_32_refused : (Instr.shli 2 32).wellFormed = false ∧ (Instr.shli 2 31).wellFormed = true := by decide
theorem test_shri_32_refused : (Instr.shri 2 32).wellFormed = false ∧ (Instr.shri 2 31).wellFormed = true := by decide
theorem test_shai_32_refused : (Instr.shai 2 32).wellFormed = false ∧ (Instr.shai 2 31).wellFormed = true := by decide
theorem test_bscl_slot_8_refused : (Instr.bscl 2 3 8).wellFormed = false ∧ (Instr.bscl 2 3 7).wellFormed = true := by decide
theorem test_waitv_16_refused : (Instr.waitv 2 3 16).wellFormed = false ∧ (Instr.waitv 2 3 15).wellFormed = true := by decide

/-! ## Decoding: one word and more of each family, written bit by bit from its encoding table -/

/-- A word decodes to an instruction, and is that instruction's word. -/
def reads (w : Word) (i : Instr) : Bool := decode w == some i && encode i == some w

theorem test_decode_control : reads 0b00000001_11111111_11111111_11111101 (.jmp 0xFFFFFD) ∧
    reads 0b00000011_11100010_00000000_00000101 (.brp 0xE2 5) ∧ reads 0b00000100_11100001_00000000_00000011 (.ifP 0xE1 3) ∧
    reads 0b00001011_00001111_00000000_00000000 (.join 15 0) ∧ reads 0b00001100_00000011_11000010_11000011 (.jtab 3 0xC2 0xC3) ∧
    reads 0b00001111_00111111_00000010_00000011 (.mcall 63 2 3) ∧ reads 0b00010000_00000000_11110000_11000001 (.wait 0x00F0C1) := by decide
theorem test_decode_modes : reads 0b00010111_00000000_00001000_01100000 (.mode 0x000860) ∧
    reads 0b00011001_11000001_00000000_00001001 (.rdcr 0xC1 9) ∧ reads 0b00011101_00000000_00000000_01000000 (.sleep 64) := by decide
theorem test_decode_integer : reads 0b00100000_00000001_00000010_00000011 (.add 1 2 3) ∧
    reads 0b00101101_00000001_11111111_11111111 (.addi 1 0xFFFF) ∧ reads 0b00111011_11000000_00000000_00011111 (.shai 0xC0 31) ∧
    reads 0b01000001_11000001_10000000_00000000 (.lit 0xC1 0x8000) ∧ reads 0b01000100_11100011_00000001_00000010 (.setpEq 0xE3 1 2) := by decide
theorem test_decode_lanes : reads 0b01001111_00000001_00000010_00000011 (.shflx 1 2 3) ∧
    reads 0b01010101_11000011_11100010_00000001 (.ballot 0xC3 0xE2 1) ∧ reads 0b01010000_00000001_00000010_11000011 (.bcast 1 2 0xC3) := by decide
theorem test_decode_float : reads 0b01100000_00000001_00000010_00000011 (.fadd 1 2 3) ∧
    reads 0b01101100_00000110_00000010_00000011 (.fscale 6 2 3) ∧ reads 0b01110000_00000001_00000010_00100001 (.cvt 1 2 0x21) ∧
    reads 0b01110111_00000001_00000010_00000111 (.bscl 1 2 7) := by decide
theorem test_decode_memory : reads 0b10000000_00000001_11000010_00000011 (.lds 1 0xC2 3) ∧
    reads 0b10000001_00000001_11000010_00000011 (.sts 1 0xC2 3) ∧ reads 0b10010000_00000001_00000010_11000011 (.ldx 1 2 0xC3) ∧
    reads 0b10011101_00000010_00000001_00000000 (.fence 2 1 0) ∧ reads 0b10001110_00000001_11000010_00000011 (.atomsCas 1 0xC2 3) := by decide
theorem test_decode_copies : reads 0b10100000_00000000_11000100_00000000 (.cpy 0xC4) ∧ reads 0b10100101_11000001_00000000_00000000 (.seal 0xC1) ∧
    reads 0b10100110_11000000_11000001_11000010 (.shrun 0xC0 0xC1 0xC2) ∧ reads 0b10101001_00000000_11000100_00000000 (.gput 0xC4) := by decide
theorem test_decode_shuttle : reads 0b10110000_11000001_11110000_11000010 (.tld 0xC1 0xF0 0xC2) ∧
    reads 0b10111101_00000001_00000000_00000000 (.shwait 1) ∧ reads 0b10111111_00000000_00000000_00000000 .shend := by decide
theorem test_decode_wide : reads 0b11000000_00000000_11000010_11000011 (.guard 0xC2 0xC3) ∧
    reads 0b11000110_11110000_00001010_00001011 (.wmul 0xF0 10 11) ∧ reads 0b11010000_00000000_00000000_00000000 .rls := by decide
theorem test_decode_tokens : reads 0b11011000_11000001_11000100_00000000 (.bfjoin 0xC1 0xC4) ∧
    reads 0b11100000_00000000_11000010_11000011 (.binit 0xC2 0xC3) ∧ reads 0b11100111_11000100_00000000_00000000 (.fetchw 0xC4) := by decide
theorem test_decode_last_rows : reads 0b11101111_00000000_11000101_00000000 (.tmrset 0xC5) ∧
    reads 0b11110010_00000000_00000000_00000000 .mret ∧ reads 0b11111001_00001000_00000010_00000011 (.dot4 8 2 3) ∧
    reads 0b11110111_00000000_00000000_00000000 .iflush ∧ decode 0b11111111_01010101_00000000_00000001 = some .udf := by decide

/-! ## States -/

/-- One team of 32 lanes with copy rights, alone on core 0 of a launch of 1,024 words; its word is next. -/
def one : State :=
  let s : State := { State.reset.withFetchWord 32 0 with cur := .team 0, schedule := [] }
  { s with launches := s.launches.map fun l => { l with slots := { kind := 1, lblk := 6, sblk := 8, thr := -20 } :: List.replicate 7 {} } }

/-- The same with the turn at the Shuttle 0, STATE 1. -/
def shu : State :=
  { one with cur := .shuttle 0 0, harnesses := one.harnesses.map fun h => { h with shuttles := h.shuttles.set 0 { state := 1, starter := some 0 } } }

/-- The team, its launch, harness or Shuttle changed. -/
def tm (s : State) (f : Team → Team) : State := s.putTeam 0 (f (s.team 0))
def la (s : State) (f : Launch → Launch) : State := s.putLaunch 0 (f (s.launch 0))
def ha (s : State) (f : Harness → Harness) : State := s.putHarness 0 (f (s.harness 0))
def sh (s : State) (f : Shuttle → Shuttle) : State := s.putShuttle 0 0 (f (s.shuttle 0 0))
def fu (s : State) (f : Func → Func) : State := s.putFunc 0 (f (s.func 0))

/-- With an element type in MR. -/
def ety (e : Nat) : State := tm one fun x => { x with ctl := { x.ctl with mr := BitVec.ofNat 24 (16 * e) } }

/-- With scalar registers set, in the team or in the Shuttle. -/
def setS (s : State) (l : List (Nat × Word)) : State := l.foldl (fun s e => tm s fun x => { x with regs := putS x.regs e.1 e.2 }) s
def setSh (s : State) (l : List (Nat × Word)) : State := l.foldl (fun s e => sh s fun x => { x with regs := putS x.regs e.1 e.2 }) s

/-- With words in shared memory. -/
def setM (s : State) (a : Nat) (l : List Word) : State := ha s fun h => { h with shared := memStore h.shared a (l.flatMap fun w => leBytes 4 w.toNat) }

/-- With a share of die scratch of 64 KiB from 0 on. -/
def share (s : State) : State := fu s fun f => { f with state := 1, slen := 1 }

/-- The word passes its checks for team 0, and falls through inside the code. -/
def ready (s : State) (r : Rules) : Bool :=
  let x := s.team 0
  s.cur == .team 0 && 0 < s.teams.length && x.flow.path < x.flow.paths.length && x.path.resume == 0 && r.team && r.legal x.view &&
    r.mode x.view && (!x.dormant || r.counter) && (!r.copy || x.info.cpr) && overBudget r x.view == none &&
    (x.path.inMacro || x.path.pc + 1 < codeWords (s.launchOf 0))

theorem ready_normal {s : State} {r : Rules} (h : ready s r = true) : s.Normal 0 r := by
  simp only [ready, Bool.and_eq_true, decide_eq_true_eq, beq_iff_eq, Bool.or_eq_true, Bool.not_eq_true'] at h
  obtain ⟨⟨⟨⟨⟨⟨⟨⟨⟨⟨h1, h2⟩, h3⟩, h4⟩, h5⟩, h6⟩, h7⟩, h8⟩, h9⟩, h10⟩, h11⟩ := h
  exact ⟨⟨h1, h2, h3, h4, h5, h6, h7, h8, fun c => by simpa [c] using h9, h10⟩, h11⟩

/-- The same for Shuttle 0. -/
def shReady (s : State) (r : Rules) : Bool :=
  s.cur == .shuttle 0 0 && 0 < s.harnesses.length && 0 < (s.harness 0).shuttles.length && r.shuttle && r.legal (s.shuttle 0 0).view &&
    r.mode (s.shuttle 0 0).view && (s.shuttle 0 0).pc + 1 < codeWords (s.launch (s.harness 0).launch)

theorem shReady_normal {s : State} {r : Rules} (h : shReady s r = true) : s.ShNormal 0 0 r := by
  simp only [shReady, Bool.and_eq_true, decide_eq_true_eq, beq_iff_eq] at h
  obtain ⟨⟨⟨⟨⟨⟨h1, h2⟩, h3⟩, h4⟩, h5⟩, h6⟩, h7⟩ := h
  exact ⟨⟨h1, h2, h3, h4, h5, h6⟩, h7⟩

/-- An instruction has needs, and meets them in a state. -/
def goes (s : State) (i : Instr) : Bool := match needs s i with
  | some r => ready s r
  | none => false
def shGoes (s : State) (i : Instr) : Bool := match needs s i with
  | some r => shReady s r
  | none => false

/-- Operand bytes of which some suit each opcode. -/
def bytes3 : List (Byte × Byte × Byte) :=
  [(0, 0, 0), (0, 0xC0, 0), (0xC0, 0, 0), (0, 0xC0, 0xC0), (0xC0, 0xC0, 0), (0xE1, 0, 0), (0xC0, 0xC0, 0xC0), (0xF0, 0, 0), (0, 0, 0xC0),
   (0, 0xF0, 0), (0xC0, 0xE1, 0), (0, 0, 1), (0xE1, 0xE1, 0xE1), (0xF0, 0xC0, 0), (0xC0, 0, 0xC0), (0xC0, 0xF0, 0), (0xE1, 0xE1, 0),
   (0xC0, 0xF0, 0xC0), (0xE1, 0xC0, 0xC0), (0xE1, 0xF0, 0)]

def someGoes (ok : Instr → Bool) (op : Nat) : Bool :=
  bytes3.any fun x => match decodeFields (BitVec.ofNat 8 op) x.1 x.2.1 x.2.2 with
    | some i => ok i
    | none => false

/-- Every opcode but UDF and row 0xB has a word that team 0 can complete, under some element type. -/
theorem test_team_can_issue : ((List.range 255).filter (· / 16 ≠ 0xB)).all (fun op =>
    someGoes (goes one) op || [2, 4, 6, 7].any fun e => someGoes (goes (ety e)) op) = true := by decide +kernel

/-- Every opcode that R103 gives a Shuttle has a word that it can complete. -/
theorem test_shuttle_can_issue : (shuttleOps.filter (· ≠ 0xFF)).all (someGoes (shGoes shu)) = true := by decide +kernel

/-! ## Witnesses and small steps

`does s i f`: the word passes its checks for team 0 and the step gives a next state of which `f` holds; `faults` and `shFaults`: the
fault of a cause with a TADDR low, in the handler of the team or in the Shuttle. Each shows that the hypotheses of the clause of the
statement that it names are met, and that the model does there what the rule says. -/

def nx (s : State) (i : Instr) (f : State → Bool) : Bool := match exec i s with
  | .next t => f t
  | _ => false
def does (s : State) (i : Instr) (f : State → Bool) : Bool := goes s i && nx s i f
def faults (s : State) (i : Instr) (cause : Byte) (lo : Word) : Bool :=
  goes s i && nx s i fun t => (t.team 0).ctl.tcause == cause && (t.team 0).ctl.taddrLo == lo && (t.team 0).ctl.inh
def illegalHere (s : State) (i : Instr) : Bool := faults s i 0x01 ((encode i).getD 0)
def waitsHere (s : State) (i : Instr) : Bool := goes s i && nx s i fun t => (t.team 0).path.dep.isSome && (t.team 0).path.pc == (s.team 0).path.pc
def shDoes (s : State) (i : Instr) (f : State → Bool) : Bool := shGoes s i && nx s i f
def shFaults (s : State) (i : Instr) (cause : Byte) (lo : Word) : Bool :=
  shGoes s i && nx s i fun t => (t.shuttle 0 0).state == 3 && (t.shuttle 0 0).cause == cause && (t.shuttle 0 0).faddr.setWidth 32 == lo

/-- The word of a vector or scalar register afterwards. -/
def vec (n k : Nat) (t : State) : Word := getV (t.team 0).regs n k
def sca (n : Nat) (t : State) : Word := getS (t.team 0).regs n
def pcIs (n : Nat) (t : State) : Bool := (t.team 0).path.pc == n
def setV (s : State) (n : Nat) (g : Nat → Word) : State := tm s fun x => { x with regs := putV x.regs n (List.range 32) g }
def setP (s : State) (n : Nat) (g : Nat → Bool) : State := tm s fun x => { x with regs := putP x.regs n (List.range 32) g }
def nest (s : State) (k n : Nat) : State := tm s fun x => { x with flow := { x.flow with nest := sset 0 x.flow.nest k (BitVec.ofNat 8 n) } }
def dorm (s : State) : State := (List.range 32).foldl (fun s k => nest s k 1) s
def deps (s : State) (f : Deps → Deps) : State := tm s fun x => { x with deps := f x.deps }
def ctl (s : State) (f : Ctl → Ctl) : State := tm s fun x => { x with ctl := f x.ctl }
def path (s : State) (f : Path → Path) : State := tm s fun x => x.putPath (f x.path)

/-! ### Encoding, steps, registers (EncodeDecodeRoundTrip to RegisterReadsAndWrites) -/

theorem test_wit_encoding : (Instr.add 1 2 3).wellFormed = true ∧ isEvent (.add 1 2 3) = false ∧ Instr.notify.wellFormed = true ∧
    isEvent .notify = true ∧ decode 0x20010203 = some (.add 1 2 3) ∧ 0x27 ∈ lowReserved ∧ decode 0x27010200 ≠ none ∧
    decode 0x27010201 = none := by decide
theorem test_wit_steps : (match nextTurn (State.reset.withFetchWord 32 0x20010203) with
    | (.issue (.team 0), s) => let u := tick (.issue (.team 0)) s; partyCan u (.team 0) && decode (prepare u (.team 0)).ir == some (.add 1 2 3)
    | _ => false) = true ∧
    (match nextTurn { one with schedule := [.issue (.shuttle 0 0)] } with
    | (.issue p, s) => !partyCan (tick (.issue p) s) p
    | _ => false) = true ∧ (nextTurn { one with schedule := [.event .notify {}] }).1 = .event .notify {} ∧ awake one .notify = true ∧
    awake { one with svc := { one.svc with power := .off } } .notify = false ∧
    (match step { one with schedule := [.outside (.host 8) [5] []] } with
    | .next t => t.byteAt (.host 8) == 5
    | _ => false) = true := by decide +kernel
theorem test_wit_canonical : State.reset.wf = true ∧
    (match step (State.reset.withFetchWord 32 0x41C18000) with
    | .next t => t.wf && sca 1 t == 0xFFFF8000
    | _ => false) = true := by decide +kernel
theorem test_wit_registers : (one.team 0).view.regs.wf = true ∧ (one.team 0).view.nl = 32 ∧ isV 0xBF = true ∧ isV 0xC0 = false ∧
    isS 0xDF = true ∧ isS 0xE0 = false := by decide +kernel

/-! ### Checks, faults and traps (IssueChecks to TrapsTaken) -/

theorem test_wit_issue_illegal : (match needs one (.add 0xE1 0 0) with
    | some r => !(r.team && r.legal (one.team 0).view && r.mode (one.team 0).view)
    | none => false) && nx one (.add 0xE1 0 0) (fun t => (t.team 0).ctl.tcause == 1 && (t.team 0).ctl.taddrLo == 0x20E10000) = true := by
  decide +kernel
theorem test_wit_issue_rights : (match needs one (.cpy 0xC4) with
    | some r => r.copy && r.legal (one.team 0).view
    | none => false) &&
    nx (tm one fun x => { x with info := { x.info with cpr := false } }) (.cpy 0xC4) (fun t => (t.team 0).ctl.tcause == 7) = true := by decide +kernel
theorem test_wit_issue_budget : overByte 8 1 [2, 8, 9] = some 8 ∧ overByte 8 2 [7] = some 7 ∧ ownIllegal (.guard 0xC2 8) = true ∧
    nx (tm one fun x => { x with info := { x.info with budget := 8 } }) (.add 7 8 9) (fun t => (t.team 0).ctl.tcause == 2 && (t.team 0).ctl.taddrLo == 8) = true ∧
    nx (tm one fun x => { x with info := { x.info with budget := 8 } }) (.add 7 7 7) (pcIs 1) = true := by decide +kernel
theorem test_wit_issue_mode : (match needs one (.fadd 1 2 3) with
    | some r => r.team && r.legal (one.team 0).view && !r.mode (one.team 0).view
    | none => false) && nx one (.fadd 1 2 3) (fun t => (t.team 0).ctl.tcause == 1) && nx (dorm one) (.fadd 1 2 3) (pcIs 1) = true := by
  decide +kernel
theorem test_wit_dormant : ((dorm one).team 0).dormant = true ∧ nx (dorm one) (.add 1 2 3) (fun t => pcIs 1 t && (t.team 0).perf.passes == 1) = true ∧
    nx (dorm one) (.add 0xE1 0 0) (fun t => (t.team 0).ctl.tcause == 1) = true := by decide +kernel
theorem test_wit_shuttle_refuses : nx shu (.fadd 1 2 3) (fun t => (t.shuttle 0 0).state == 3 && (t.shuttle 0 0).cause == 1 &&
    (t.team 0).due.shuttle == [(0, 1)]) = true ∧ (one.team 0).place ≠ .ended := by decide +kernel
theorem test_wit_code_end : faults (path one fun p => { p with pc := 0 }) (.jmp 1023) 4 1024 = true ∧
    nx (path one fun p => { p with pc := 1023 }) .nop (fun t => (t.team 0).ctl.tcause == 4 && (t.team 0).ctl.taddrLo == 1024) = true ∧
    fallsAlways (.add 4 5 6) = true ∧ (needs one (.add 4 5 6)).isSome = true ∧
    nx (setV (path one fun p => { p with pc := 1023 }) 5 fun _ => 7) (.add 4 5 6) (fun t => (t.team 0).ctl.tcause == 4 && vec 4 0 t == 0) = true ∧
    nx (dorm (path one fun p => { p with pc := 1023 })) (.sts 0xC2 0xC3 4) (fun t => (t.team 0).ctl.tcause == 4) = true ∧
    faults one (.jmp 0xFFFFFE) 4 0xFFFFFFFF = true ∧ does one (.jmp 1022) (pcIs 1023) = true := by decide +kernel
theorem test_wit_no_party : isEvent (.add 1 2 3) = false ∧ ({ one with cur := .none } : State).cur = .none := by decide
theorem test_wit_trap_entry : (one.team 0).ctl.inh = false ∧ (one.team 0).due.halt = false ∧ (one.team 0).due.one = none ∧
    nx (nest (ctl one fun c => { c with mr := 0x800 }) 3 2) (.trap 0x42) (fun t =>
      let x := t.team 0
      x.ctl.tpcPc == 1 && x.ctl.tcause == 0x28 && x.ctl.taddrLo == 0x42 && x.ctl.tmode == 0x800 && x.ctl.mr == 0 && x.ctl.inh &&
        pcIs 16 t && sget 0 x.flow.shadow 3 == 2 && sget 0 x.flow.nest 3 == 0) = true := by decide +kernel
theorem test_wit_double_fault : let s := ctl one fun c => { c with inh := true, tcause := 9 };
    (s.team 0).ctl.inh = true ∧ nx s (.trap 1) (fun t => (t.team 0).ctl.halted && (t.team 0).ctl.tcause == 9) = true := by decide +kernel
theorem test_wit_fault_policy : let s := la one fun l => { l with fpol := 0x7 };
    (s.launchOf 0).fpol.getLsbD 3 = false ∧ (s.launchOf 0).fpol.getLsbD 0 = true ∧
    nx s (.add 0xE1 0 0) (fun t => (t.team 0).ctl.halted && !(t.team 0).ctl.inh && pcIs 0 t && (t.team 0).ctl.tcause == 1) = true := by
  decide +kernel
theorem test_wit_rtt : let s := ctl one fun c => { c with inh := true, tmode := 0x860, tpcPc := 7 };
    mrOk (s.team 0).ctl.tmode = true ∧ nx s .rtt (fun t => pcIs 7 t && (t.team 0).ctl.mr == 0x860 && !(t.team 0).ctl.inh) = true ∧
    faults one .rtt 1 0x15000000 = true ∧ mrOk 0xF0 = false ∧
    nx (ctl s fun c => { c with tmode := 0xF0 }) .rtt (fun t => (t.team 0).ctl.halted) = true ∧
    nx (ctl s fun c => { c with tpcPc := 1024 }) .rtt (fun t => (t.team 0).ctl.halted) = true := by decide +kernel
theorem test_wit_svc_traps : (one.team 0).ctl.svcring = 0 ∧ does one (.svc 5) (fun t => (t.team 0).ctl.tcause == 0x29) = true ∧
    does one (.bkpt 5) (fun t => (t.team 0).ctl.tcause == 0x2A) = true := by decide +kernel
theorem test_wit_boundary_traps : let p := path one fun p => { p with step := true, watch := [⟨3, 0, 0x1234⟩] };
    let d := fun (f : Due → Due) => tm one fun x => { x with due := f x.due };
    atPathBoundary p 0 = true ∧ nx p .stepTrap (fun t => (t.team 0).ctl.tcause == 0x2D) = true ∧
    nx (path p fun p => { p with step := false }) .watchpointTrap (fun t => (t.team 0).ctl.tcause == 0x2B && (t.team 0).ctl.taddrLo == 0x1234) = true ∧
    atBoundary (d id) 0 = true ∧ (one.team 0).pathTrap = false ∧
    nx (d fun x => { x with shuttle := [(2, 4), (3, 5)] }) .shuttleFaultTrap
      (fun t => (t.team 0).ctl.tcause == 0x31 && (t.team 0).ctl.taddrLo == 2 && (t.team 0).due.shuttle == [(3, 5)]) = true ∧
    nx (d fun x => { x with timer := true }) .timerTrap (fun t => (t.team 0).ctl.tcause == 0x2C && !(t.team 0).due.timer) = true := by
  decide +kernel

/-! ### Register instructions (WordInstructions to LanesAndVotes) -/

theorem test_wit_integer : elemRule (.add 4 5 6) ≠ none ∧ elemRule (.clamp 4 5 6) ≠ none ∧ intMode (one.team 0).view = true ∧
    does (setV (setV one 5 fun _ => 0xFFFFFFFF) 6 fun _ => 2) (.add 4 5 6) (fun t => vec 4 31 t == 1) = true ∧
    does (setV (setV (ety 2) 5 fun _ => 0x0001FFFF) 6 fun _ => 0x00010001) (.add 4 5 6) (fun t => vec 4 0 t == 0x00020000) = true ∧
    does (setV (setV (ety 1) 5 fun _ => 0x80000000) 6 fun _ => 4) (.mulh 4 5 6) (fun t => vec 4 0 t == 2) = true := by decide +kernel
theorem test_wit_words : (wordRule (one.team 0).view 0 (.divn 4 5 6)).isSome = true ∧
    does (setV one 5 fun _ => 7) (.divn 4 5 6) (fun t => vec 4 0 t == 0xFFFFFFFF) = true ∧
    does (setV one 5 fun _ => 7) (.remn 4 5 6) (fun t => vec 4 0 t == 7) = true ∧
    does (setV (setV one 5 fun _ => 0x80000001) 6 fun _ => 33) (.shl 4 5 6) (fun t => vec 4 0 t == 0) = true ∧
    does (setV (setV one 5 fun _ => 0x80000001) 6 fun _ => 32) (.sha 4 5 6) (fun t => vec 4 0 t == 0xFFFFFFFF) = true ∧
    does (setV (setV one 5 fun _ => 0x80000001) 6 fun _ => 33) (.rotl 4 5 6) (fun t => vec 4 0 t == 3) = true := by decide +kernel
theorem test_wit_compares : intCompare (.setpLt 0xE2 5 6) ≠ none ∧ etIn [0, 1, 9] (one.team 0).view = true ∧
    does (setV (setV one 5 fun _ => 0xFFFFFFFF) 6 fun _ => 1) (.setpLt 0xE2 5 6) (fun t => (getP (t.team 0).regs 2).getLsbD 31) = true ∧
    does (setV (setV (ety 1) 5 fun _ => 0xFFFFFFFF) 6 fun _ => 1) (.setpLt 0xE2 5 6) (fun t => !(getP (t.team 0).regs 2).getLsbD 0) = true ∧
    mrEtype ((ety 6).team 0).view.mr = 6 ∧
    does (setV (ety 6) 5 fun _ => 0x7FC00000) (.setpNe 0xE2 5 6) (fun t => (getP (t.team 0).regs 2).getLsbD 0) = true ∧
    predRule (.pand 0xE1 0xE2 0xE3) ≠ none := by decide +kernel
theorem test_wit_wide_integers :
    does (setV (setV one 5 fun _ => 0xFFFFFFFF) 6 fun _ => 1) (.addc 4 5 6) (fun t => vec 4 0 t == 0 && (getP (t.team 0).regs 7).getLsbD 0) = true ∧
    does one (.subb 4 5 6) (fun t => vec 4 0 t == 0 && !(getP (t.team 0).regs 7).getLsbD 0) = true ∧
    does (setV (setV one 4 fun _ => 0xFFFFFFFF) 6 fun _ => 1) (.addp 2 4 6) (fun t => vec 2 0 t == 0 && vec 3 0 t == 1) = true ∧
    etIn [0, 1] (one.team 0).view = true ∧ etIn [2, 3, 4, 5] ((ety 4).team 0).view = true ∧
    does (setV (setV (ety 4) 5 fun _ => 0xFF010203) 6 fun _ => 0x01010101) (.dot4 4 5 6) (fun t => vec 4 0 t == 5) = true := by decide +kernel
theorem test_wit_reductions :
    does (setV one 5 fun k => BitVec.ofNat 32 k) (.redadd 0xC2 5) (fun t => sca 2 t == 496) = true ∧
    does (setV one 5 fun k => BitVec.ofNat 32 k) (.redmax 0xC2 5) (fun t => sca 2 t == 31) = true ∧
    does (setV one 5 fun _ => 1) (.scanadd 4 5) (fun t => vec 4 0 t == 1 && vec 4 31 t == 32) = true ∧
    etFloat (mrEtype ((ety 6).team 0).view.mr) = true ∧
    does (setV (ety 6) 5 fun _ => 0x3F800000) (.redadd 0xC2 5) (fun t => sca 2 t == 0x42000000) = true ∧
    does (setV (ety 6) 5 fun _ => 0xBF800000) (.redamax 0xC2 5) (fun t => sca 2 t == 0x3F800000) = true := by decide +kernel
theorem test_wit_float_extremes :
    does (setV (ety 6) 5 fun k => if k = 0 then 0x80000000 else if k = 1 then 0 else 0x7FC00000) (.redmin 0xC2 5) (fun t => sca 2 t == 0x80000000) = true ∧
    does (setV (ety 6) 5 fun k => if k = 0 then 0x80000000 else if k = 1 then 0 else 0x7FC00000) (.redmax 0xC2 5) (fun t => sca 2 t == 0) = true ∧
    does (setV (ety 6) 5 fun _ => 0xFF800001) (.redmax 0xC2 5) (fun t => sca 2 t == 0x7FC00000) = true ∧
    does (setV (ctl (ety 6) fun c => { c with mr := 0x61 }) 5 fun _ => 1) (.redmax 0xC2 5) (fun t => sca 2 t == 0xFF800000) = true := by
  decide +kernel
/-- The worked example of R190. -/
theorem test_wit_float_scan :
    does (setV (setP (ctl (ety 6) fun c => { c with mr := 0x61 }) 1 fun k => k < 4) 5 fun k =>
        if k = 0 then 0x4B800000 else if k = 3 then 0xCB800000 else 0x3F800000) (.scanadd 6 5) (fun t =>
      vec 6 0 t == 0x4B800000 && vec 6 1 t == 0x4B800000 && vec 6 2 t == 0x4B800000 && vec 6 3 t == 0x3F800000 && vec 6 4 t == 0) = true ∧
    scanBlocks 3 = [(1, 0), (0, 2)] := by decide +kernel
theorem test_wit_lanes :
    does (setV (setV one 5 fun k => BitVec.ofNat 32 k) 6 fun k => BitVec.ofNat 32 (k + 1)) (.shfl 4 5 6) (fun t => vec 4 31 t == 0 && vec 4 0 t == 1) = true ∧
    does (setV (setV one 5 fun k => BitVec.ofNat 32 (k + 9)) 6 fun _ => 32) (.shflx 4 5 6) (fun t => vec 4 0 t == 0) = true ∧
    does (setS one [(1, 77), (2, 31)]) (.lwrite 4 0xC1 0xC2) (fun t => vec 4 31 t == 77 && vec 4 30 t == 0) = true ∧
    does (setP one 2 fun k => k == 31) (.ballot 0xC3 0xE2 0) (fun t => sca 3 t == 0x80000000) = true ∧
    does (setP one 2 fun k => k == 31) (.ffs 0xC3 0xE2) (fun t => sca 3 t == 31) = true ∧
    does one (.ffs 0xC3 0xE2) (fun t => sca 3 t == 0xFFFFFFFF) = true ∧ does one (.lanecnt 0xC3) (fun t => sca 3 t == 32) = true := by decide +kernel
theorem test_wit_float : (floatRule ((ety 6).team 0).view 0 0 (.fadd 4 5 6)).isSome = true ∧ floatMode ((ety 6).team 0).view = true ∧
    does (setV (setV (ety 6) 5 fun _ => 0x3F800000) 6 fun _ => 0x3F800000) (.fadd 4 5 6) (fun t => vec 4 0 t == 0x40000000) = true ∧
    does (setV (setV (ety 7) 5 fun _ => 0x3C003C00) 6 fun _ => 0x3C004000) (.fmul 4 5 6) (fun t => vec 4 0 t == 0x3C004000) = true ∧
    does (setV (ety 6) 5 fun _ => 0x80000000) (.fneg 4 5) (fun t => vec 4 0 t == 0) = true ∧
    does (setV (setV (ety 6) 5 fun _ => 0x3F800000) 6 fun _ => 0xFFFFFFFF) (.fscale 4 5 6) (fun t => vec 4 0 t == 0x3F000000) = true := by decide +kernel
theorem test_wit_transcendental : transRule (.frcp 4 5) ≠ none ∧ transRule (.flog2 4 5) ≠ none ∧ (0 : Int) < (Num.qInt 2).num ∧
    does (setV (ety 6) 5 fun _ => 0x40000000) (.frcp 4 5) (fun t => vec 4 0 t == 0x3F000000) = true ∧
    does (ety 6) (.flog2 4 5) (fun t => vec 4 0 t == 0xFF800000) = true ∧
    does (setV (ety 6) 5 fun _ => 0xBF800000) (.frsq 4 5) (fun t => vec 4 0 t == 0x7FC00000) = true := by decide +kernel
theorem test_wit_fexpd :
    does (setV one 4 fun _ => 0x7FC00000) (.fexpd 4 6 8) (fun t => vec 4 0 t == 0x7FC00000 && vec 5 0 t == 0x7FC00000) = true ∧
    does (setV one 6 fun _ => 0x7F800000) (.fexpd 4 6 8) (fun t => vec 4 0 t == 0x7F800000 && vec 5 0 t == 0x7FC00000) = true := by decide +kernel
theorem test_wit_formats : etIn [0, 1, 9] (one.team 0).view = true ∧ fieldBits (.pkn 4 5 7) = some (4, 4, 5, 7) ∧ isPack (.pkn 4 5 7) = true ∧
    isPack (.upkh 4 5 1) = false ∧ goes one (.bscl 4 5 0) = true ∧
    does (setV one 5 fun _ => 0x7FC00000) (.cvtf2i 4 5) (fun t => vec 4 0 t == 0) = true ∧
    does (setV one 5 fun _ => 0xFFFFFFFF) (.cvti2f 4 5) (fun t => vec 4 0 t == 0xBF800000) = true ∧
    does (setV one 5 fun _ => 0x12345678) (.pkn 4 5 7) (fun t => vec 4 0 t == 0x80000000) = true ∧
    does (setV one 5 fun _ => 0x8FFF0000) (.upkh 4 5 1) (fun t => vec 4 0 t == 0xFFFF8FFF) = true := by decide +kernel

theorem test_wit_block_scaled : let w := (one.team 0).view; let m := val32 w 0x3F800000; let g := val32 w 0x437F0000;
    0 < rat g ∧ bsclNq4 g m = 1 ∧ bsclNq4 m g = 255 ∧ val32 w 0x7FC00000 = .nan ∧ bsclA8 m = 128 ∧ bsclA8 (val32 w 0x7FC00000) = 255 ∧
    cvtr w 0x3F800000 255 = 0 ∧ cvtr w 0x3F800000 128 = 64 ∧ cvtr w 0xFF800000 128 = 0xFFFFFF81 ∧ cvtr w 0xC37F0000 128 = 0xFFFFFF81 ∧
    qenc w 255 0x3F800000 0x42FE0000 = 8 ∧ qenc w 255 0x41200000 0x42FE0000 = 9 ∧ qenc w 0 0x41200000 0x42FE0000 = 8 ∧ qenc w 255 0x7F800000 0x42FE0000 = 15 ∧
    qdec w 0xFF09 0x42FE0000 = 0x41200000 ∧ qdec w 0xFF08 0x42FE0000 = 0 ∧ qdec w 0xFF08 0x7F800000 = 0x7FC00000 ∧ qdec w 0xFF00 0x7F800000 = 0xFF800000 := by decide +kernel

/-! ### Flow (LaneControl to Macros) -/

theorem test_wit_counters :
    does (nest one 3 2) .endif (fun t => sget 0 (t.team 0).flow.nest 3 == 1 && sget 0 (t.team 0).flow.nest 0 == 0) = true ∧
    does (setP one 2 fun k => k == 5) (.breakP 0xE2 7) (fun t => sget 0 (t.team 0).flow.nest 5 == 7 && sget 0 (t.team 0).flow.nest 4 == 0) = true ∧
    does (nest one 3 253) (.loop 4) (fun t => sget 0 (t.team 0).flow.nest 3 == 255 && pcIs 1 t) = true ∧
    faults (nest one 3 254) (.loop 4) 9 0 = true ∧ does (dorm one) (.loop 1022) (pcIs 1023) = true := by decide +kernel
theorem test_wit_if_else : let s := setP one 2 fun k => k == 5;
    does (nest s 3 254) (.ifP 0xE2 9) (fun t => sget 0 (t.team 0).flow.nest 3 == 255 && sget 0 (t.team 0).flow.nest 5 == 0 && pcIs 1 t) = true ∧
    faults (nest s 3 255) (.ifP 0xE2 9) 9 0 = true ∧
    does one (.ifP 0xE2 1022) (fun t => sget 0 (t.team 0).flow.nest 31 == 1 && pcIs 1023 t) = true ∧
    does (nest one 3 1) (.elseP 9) (fun t => sget 0 (t.team 0).flow.nest 3 == 0 && sget 0 (t.team 0).flow.nest 0 == 1 && pcIs 1 t) = true ∧
    does one (.elseP 9) (pcIs 10) = true := by decide +kernel
theorem test_wit_endloop :
    does (nest (path one fun p => { p with pc := 9 }) 3 1) (.endloop 0xFFFFFC) (fun t => sget 0 (t.team 0).flow.nest 3 == 0 && pcIs 6 t) = true ∧
    does ((List.range 32).foldl (fun s k => nest s k 2) one) (.endloop 0xFFFFFC) (fun t => sget 0 (t.team 0).flow.nest 3 == 0 && pcIs 1 t) = true := by
  decide +kernel
theorem test_wit_split : let s := setP one 2 fun k => k == 5;
    let full := tm s fun x => { x with flow := { x.flow with paths := x.flow.paths.map fun p => some (p.getD {}) } };
    does one (.brp 0xE2 3) (pcIs 1) = true ∧ does (setP one 2 fun _ => true) (.brp 0xE2 3) (pcIs 4) = true ∧
    does s (.brp 0xE2 3) (fun t => pcIs 1 t && (((t.team 0).flow.paths.getD 1 none).getD {}).pc == 4 && (t.team 0).live == 2) = true ∧
    faults full (.brp 0xE2 3) 8 0 = true ∧ faults s (.brp 0xE2 0x7FFF) 4 0x8000 = true ∧
    nx (ctl one fun c => { c with inh := true }) (.brp 0xE2 3) (fun t => (t.team 0).ctl.halted) = true := by decide +kernel
theorem test_wit_jump_table : let s := setM (setS one [(2, 256), (3, 2)]) 256 [7, 9];
    let s := setV s 4 fun k => if k == 0 then 0 else 1;
    does s (.jtab 4 0xC2 0xC3) (fun t => pcIs 7 t && (((t.team 0).flow.paths.getD 1 none).getD {}).pc == 9) = true ∧
    faults (setS s [(2, 0x180000)]) (.jtab 4 0xC2 0xC3) 0x0A 0x180000 = true ∧
    faults (setM s 256 [7, 1024]) (.jtab 4 0xC2 0xC3) 4 1024 = true ∧
    does (setS s [(3, 1)]) (.jtab 4 0xC2 0xC3) (fun t => pcIs 1 t && (t.team 0).live == 2) = true := by decide +kernel
theorem test_wit_join : let s := path one fun p => { p with token := some 5, mask := 1 };
    let two := tm s fun x => x.putPathAt 3 (some { pc := 0, mask := 2, token := some 5, join := some ⟨none⟩ });
    does one (.join 5 0) (pcIs 1) = true ∧ does two (.join 5 0) (fun t => pcIs 1 t && (t.team 0).path.mask == 3 && (t.team 0).live == 1) = true ∧
    does (tm two fun x => x.putPathAt 4 (some { pc := 2, mask := 4, token := some 5 })) (.join 5 0)
      (fun t => (((t.team 0).flow.paths.getD 0 none).getD {}).join == some ⟨none⟩ && (t.team 0).flow.path == 4) = true := by decide +kernel
theorem test_wit_exit :
    does (path one fun p => { p with mask := lanesMask 1 }) .exit (fun t => (t.team 0).live == 0) = true ∧
    does (nest one 3 1) .exit (fun t => (t.team 0).live == 1 && (t.team 0).path.mask == 8) = true ∧
    nx (ctl one fun c => { c with inh := true }) .exit (fun t => (t.team 0).ctl.halted) = true ∧
    does one (.pathq 0xC1 1 15) (fun t => sca 1 t == 0x000F0100) = true := by decide +kernel
theorem test_wit_macros : let s := setS one [(1, 0), (2, 0x20010203), (3, 0)];
    let e := nx s (.cswr 0xC1 0xC2 0xC3) fun t => nx { t with cur := .team 0 } (.mcall 0 0 0) fun u =>
      (u.team 0).path.mac == some ([0x20010203, 0xF2000000], 0);
    e = true ∧ does one (.mcall 63 0 0) (pcIs 1) = true ∧ goes one (.mcall 63 0 0) = true ∧ illegalHere one .mret = true ∧
    illegalHere (setS s [(1, 2048)]) (.cswr 0xC1 0xC2 0xC3) = true ∧ illegalHere (setS s [(3, 64)]) (.cswr 0xC1 0xC2 0xC3) = true ∧
    does (setS one [(1, 2047)]) (.csrd 0xC4 0xC1) (fun t => sca 4 t == 0xF2000000) = true ∧
    nx (path one fun p => { p with mac := some ([0xF2000000], 0) }) .mret (pcIs 1) = true ∧
    nx (ha s fun h => { h with macros := [(0, 0x01000001)] }) (.mcall 0 0 0) (fun t => (t.team 0).ctl.tcause == 1) = true := by
  decide +kernel

/-! ### Waits, modes, control registers, debug instructions (NextWordFrame to TraceAndWatch) -/

/-- With the guard p1, which no lane holds. -/
def guardOff (s : State) : State := ctl s fun c => { c with mr := c.mr ||| 0x1 }
/-- A step without a word, on what it acts on. -/
def ev (s : State) (e : EvArgs) (i : Instr) (f : State → Bool) : Bool := nx { s with ev := e } i f
/-- A second team of the role, in the same harness. -/
def two (s : State) (f : Team → Team) : State :=
  { s with teams := s.teams ++ [f { s.team 0 with info := { (s.team 0).info with tid := 1, part := 1, index := 1 } }] }
def dep (s : State) (d : Dep) : State := path s fun p => { p with dep := some d }
/-- A trace ring, and a service ring of 1,024 entries. -/
def ring (s : State) : State :=
  ctl (la s fun l => { l with rings := [{ ring := 3, base := 4096, evt := true, logn := 10 }] }) fun c => { c with svcring := 3 }
def trc (s : State) : State := la s fun l => { l with trace := some { base := 0, per := 8, evt := false, logn := 8 } }
/-- The messages that a function has been sent. -/
def evts (f : Nat) (t : State) : Nat := (t.func f).evtNum.toNat

theorem test_wit_next_word : 0 < one.teams.length ∧ (one.team 0).flow.path < (one.team 0).flow.paths.length ∧
    pcIs 1 (one.after 0 {} one) = true ∧ pcIs 9 (one.jumped 0 {} one 9) = true := by decide +kernel
theorem test_wit_waits : let l3 := deps one fun d => { d with l := 3, s := 63, m := 63, batches := List.replicate 70 ⟨1, 1, true⟩ };
    does l3 (.wait 0x0FFFFF) (pcIs 1) = true ∧ waitsHere (deps l3 fun d => { d with l := 4 }) (.wait 0x0FFFFF) = true ∧
    waitsHere (deps one fun d => { d with m := 1 }) (.wait 0xFFFFC0) = true ∧
    waitsHere (deps one fun d => { d with batches := [⟨1, 1, true⟩] }) (.wait 0xFFF03F) = true ∧
    does one .yield (pcIs 1) = true ∧ does one (.sleep 0) (pcIs 1) = true ∧ waitsHere one (.sleep 1) = true ∧
    does (dep one .met) (.sleep 1) (pcIs 1) = true := by decide +kernel
theorem test_wit_modes : does one (.mode 0x000860) (fun t => (t.team 0).ctl.mr == 0x860) = true ∧ illegalHere one (.mode 0x0000F0) = true ∧
    does (setS (ety 6) [(1, 0xFFFFFF), (2, 0x10)]) (.modex 0xC3 0xC1 0xC2) (fun t => (t.team 0).ctl.mr == 0x70 && sca 3 t == 0x60) = true ∧
    illegalHere (setS one [(1, 0xF0), (2, 0xF0)]) (.modex 0xC3 0xC1 0xC2) = true ∧
    illegalHere (setS one [(2, 0x1000000)]) (.modex 0xC3 0xC1 0xC2) = true ∧
    does { one with ir := 0x18030000 } .prio (fun t => (t.team 0).ctl.prio == 3) = true ∧
    nx { one with ir := 0x18040000 } .prio (fun t => (t.team 0).ctl.tcause == 1 && (t.team 0).ctl.taddrLo == 0x18040000) = true := by decide +kernel
theorem test_wit_gang : let s := la (two one id) fun l => { l with roles := l.roles.map fun r => { r with teams := 2 } };
    does s (.gang 0xC0) (fun t => (t.team 0).ctl.gang == 0) = true ∧ gangN 0x800 = 2 ∧
    does (setS s [(0, 0x800)]) (.gang 0xC0) (fun t => (t.team 0).ctl.gang == 0x800) = true ∧
    distinct ((gangTeams s 0 0x800).map fun u => (s.team u).info.part) = true ∧
    faults (setS (tm s fun x => { x with info := { x.info with tid := 2 } }) [(0, 0x800)]) (.gang 0xC0) 0x1B 0 = true ∧
    illegalHere (setS s [(0, 0x400)]) (.gang 0xC0) = true ∧ illegalHere (setS s [(0, 0x1C00)]) (.gang 0xC0) = true ∧
    illegalHere (setS s [(0, 0x2000)]) (.gang 0xC0) = true ∧ illegalHere (setS s [(0, 0x900)]) (.gang 0xC0) = true := by decide +kernel
theorem test_wit_timer : let s := ctl one fun c => { c with tmr := 0x1FFFFFFFF };
    does (setS s [(1, 1)]) (.tmrset 0xC1) (fun t => (t.team 0).ctl.tmrcmp == 0x200000000) = true ∧
    does (ctl s fun c => { c with tmrcmp := 7 }) (.tmrset 0xC1) (fun t => (t.team 0).ctl.tmrcmp == 0) = true ∧
    does s (.rdtm 0xC2 0) (fun t => sca 2 t == 0xFFFFFFFF && sca 3 t == 1) = true ∧ does s (.rdtm 0xC2 1) (fun t => sca 3 t == 0) = true := by
  decide +kernel
theorem test_wit_control_registers : (rdcrValue one 0 0x14).isSome = true ∧
    does one (.rdcr 0xC1 6) (fun t => sca 1 t == 32) = true ∧
    does (setS one [(1, 0)]) (.wrcr 0xC1 6) (fun t => (t.team 0).ctl.pquant == 32) = true ∧
    illegalHere (setS one [(1, 0x10000)]) (.wrcr 0xC1 6) = true ∧ illegalHere (setS one [(1, 2)]) (.wrcr 0xC1 0) = true ∧
    does (setS one [(1, 1023)]) (.wrcr 0xC1 1) (fun t => (t.team 0).ctl.tvec == 1023) = true ∧
    faults (setS one [(1, 1024)]) (.wrcr 0xC1 1) 4 1024 = true ∧ crAllows 0x0D 255 = true ∧ crAllows 0x0D 256 = false ∧
    does (setS one [(1, 1)]) (.wrcr 0xC1 0) (fun t => (t.team 0).ctl.step) = true ∧
    nx (ctl one fun c => { c with tmr := 0x200000005 }) (.rdcr 0xC1 0x0B)
      (fun t => rdcrValue t 0 0x0C == some 2 && (t.team 0).ctl.snap == some (false, 2)) = true := by decide +kernel
theorem test_wit_service_call : let s := ring one; let q : SvcRing := { ring := 3, base := 4096, evt := true, logn := 10 };
    (s.team 0).ctl.svcring ≠ 0 ∧ ringOf (s.launchOf 0) 3 = some q ∧
    does s (.svc 5) (fun t => (t.team 0).fetch == [s.nextId] && (t.late.map fun y => (y.key, y.party)) == [(241 * 20000 + 5120, .team 0), (242 * 20000 + 5120, .team 0)] &&
      (let u := runDue (10 ^ 12) t; (u.team 0).ctl.parked && (u.team 0).place == .parked && memWord (u.func 0).qmem 4096 == 32)) = true ∧
    waitsHere (deps s fun d => { d with l := 1 }) (.svc 5) = true ∧
    waitsHere (la s fun l => { l with rings := [{ q with tail := 993 }] }) (.svc 5) = true ∧
    does (la s fun l => { l with rings := [{ q with tail := 992 }] }) (.svc 5) (pcIs 1) = true ∧
    does (guardOff s) (.svc 5) (fun t => pcIs 1 t && !(t.team 0).ctl.parked) = true := by decide +kernel
theorem test_wit_records : let s := trc one;
    does (setS s [(1, 7)]) (.trace 0xC1 9) (fun t => memWord (t.func 0).qmem 80 == 9 && memWord (t.func 0).qmem 84 == 7) = true ∧
    does s (.prec 0xC4) (fun t => memWord (t.func 0).qmem 0 == 1) = true ∧
    waitsHere (deps s fun d => { d with m := 1 }) (.prec 0xC4) = true ∧
    does (setS s [(1, 256), (2, 64)]) (.dbgmsg 0xC1 0xC2) (fun t => evts 0 t == 1) = true ∧
    faults (setS s [(1, 2), (2, 65)]) (.dbgmsg 0xC1 0xC2) 3 2 = true ∧ faults (setS s [(1, 256), (2, 68)]) (.dbgmsg 0xC1 0xC2) 4 68 = true ∧
    faults (setS s [(1, 256), (2, 3)]) (.dbgmsg 0xC1 0xC2) 4 3 = true ∧ faults s (.dbgmsg 0xC1 0xC2) 4 0 = true ∧
    checkAccess s false .load 4 [⟨0, 256⟩] = none := by decide +kernel
theorem test_wit_watch : let s := setS one [(4, 0x17FFFC), (5, 2), (6, 9), (7, 0xFF)];
    does s (.watch 3 0xC4) (fun t => (t.harness 0).watch.getD 3 none == some ⟨0x17FFFC, false, true, 9, 0xFF⟩) = true ∧
    illegalHere (setS s [(5, 4)]) (.watch 3 0xC4) = true ∧ faults (setS s [(4, 2)]) (.watch 3 0xC4) 3 2 = true ∧
    faults (setS s [(4, 0x180000)]) (.watch 3 0xC4) 4 0x180000 = true ∧ inRange s 0 true 0 = false ∧ inRange (share s) 0 true 0xFFFC = true ∧
    does s (.unwatch 3) (pcIs 1) = true ∧ does (setS s [(1, 7)]) (.perfrd 0xC2 0xC1) (fun t => sca 3 t == 0) = true ∧
    illegalHere (setS s [(1, 8)]) (.perfrd 0xC2 0xC1) = true ∧ does (setS s [(1, 4)]) (.eccq 0xC2 0xC1) (pcIs 1) = true ∧
    illegalHere (setS s [(1, 5)]) (.eccq 0xC2 0xC1) = true ∧ does s .iflush (pcIs 1) = true := by decide +kernel

/-! ### Memory (AccessChecks to MemoryWaits) -/

/-- A range lock, a live barrier slot, words of die scratch. -/
def lock (s : State) (lo hi : Nat) (dest : Bool) (k : Option Nat) : State :=
  ha s fun h => { h with locks := h.locks ++ [{ id := 99, lo := lo, hi := hi, dest := dest, shuttle := k }] }
def slot (s : State) (a n : Nat) : State :=
  ha s fun h => { h.putSlot a { exp := n, pend := n, bytes := 0, done := 0, snew := false, hgen := 0, lgrd := 3, mask := 0 } with live := sset 0 h.live a 1 }
def setX (s : State) (a : Nat) (v : Word) : State := s.locStore (.scratch 0 a) (leBytes 4 v.toNat)
def memS (a : Nat) (t : State) : Word := memWord (t.harness 0).shared a
def memX (a : Nat) (t : State) : Word := memWord (t.die 0).scratch a
/-- The passes and waves that come after an issue have acted. -/
def acted (f : State → Bool) (t : State) : Bool := f (runDue (10 ^ 12) t)
/-- Every lane at address 256. -/
def at256 : State := setS one [(2, 256)]

def shIllegalHere (s : State) (i : Instr) : Bool := shFaults s i 1 ((encode i).getD 0)

theorem test_wit_loads : let s := setM at256 256 [7, 8];
    does s (.lds 1 0xC2 0xC3) (fun t => vec 1 31 t == 7 && (t.team 0).deps.l == 1 && (t.team 0).deps.marks != []) = true ∧
    does s (.lds2 0xC4 0xC2 0xC3) (fun t => sca 4 t == 7 && sca 5 t == 8) = true ∧
    faults (setV s 4 fun k => if k == 31 then 2 else 0) (.lds 1 0xC2 4) 3 258 = true ∧
    faults (setS s [(2, 0x180000)]) (.lds 1 0xC2 0xC3) 4 0x180000 = true ∧ does (setS s [(2, 0x17FFFC)]) (.lds 1 0xC2 0xC3) (pcIs 1) = true ∧
    faults (lock s 256 260 true none) (.lds 1 0xC2 0xC3) 5 256 = true ∧ does (lock s 256 260 false none) (.lds 1 0xC2 0xC3) (pcIs 1) = true ∧
    does (lock s 260 264 true none) (.lds 1 0xC2 0xC3) (pcIs 1) = true ∧ does (slot s 256 1) (.lds 1 0xC2 0xC3) (pcIs 1) = true ∧
    shDoes (setM (setSh shu [(2, 256)]) 256 [7]) (.lds 0xC4 0xC2 0xC0) (fun t => getS (t.shuttle 0 0).regs 4 == 7) = true ∧
    nx (lock (setSh shu [(2, 256)]) 256 260 true (some 0)) (.lds 0xC4 0xC2 0xC0) (fun t => (t.shuttle 0 0).pc == 0 && (t.shuttle 0 0).state == 2) = true ∧
    shFaults (setSh shu [(2, 2)]) (.lds 0xC4 0xC2 0xC0) 3 2 = true := by decide +kernel
theorem test_wit_scratch_loads : let s := setX (share one) 0xFFFC 9;
    does (setS s [(2, 0xFFFC)]) (.ldx 1 0xC2 0xC3) (fun t => vec 1 5 t == 9) = true ∧ does (setS s [(2, 0xFFFC)]) (.ldaq 1 0xC2 0xC3) (fun t => vec 1 5 t == 9) = true ∧
    faults (setS s [(2, 0x10000)]) (.ldx 1 0xC2 0xC3) 4 0x10000 = true ∧ faults (setS one [(2, 0)]) (.ldx 1 0xC2 0xC3) 4 0 = true ∧
    does (setS s [(2, 0x18000000)]) (.ldx 1 0xC2 0xC3) (pcIs 1) = true ∧ faults (setS s [(2, 0x20000000)]) (.ldx 1 0xC2 0xC3) 4 0x20000000 = true ∧
    checkAccess s true .load 4 [⟨0, 0⟩] = none := by decide +kernel
theorem test_wit_frames : let s := setM (ctl one fun c => { c with ssp := 256, ssplim := 512 }) 128 [5];
    does s (.fill 4 2) (acted fun t => vec 5 0 t == 5 && (t.team 0).ctl.ssp == 0) = true ∧ faults s (.fill 4 3) 4 0xFFFFFF80 = true ∧
    faults (lock s 128 132 true none) (.fill 4 2) 5 128 = true ∧
    does (setV s 5 fun _ => 6) (.spill 4 2) (acted fun t => memS 384 t == 6 && (t.team 0).ctl.ssp == 512) = true ∧ faults s (.spill 4 3) 4 256 = true ∧
    faults (slot s 256 1) (.spill 4 1) 6 256 = true ∧ s.wf = true ∧ s.curHarness < s.harnesses.length ∧ s.dies.length = 4 := by decide +kernel
theorem test_wit_passes : let p := fun (k a : Nat) => ({ lane := k, addr := a, op := some .xchg, d := BitVec.ofNat 32 a } : Act);
    let w := ha one fun h => { h with watch := [some ⟨256, false, false, 256, 0xFF⟩, none, none, some ⟨256, false, true, 0, 0xFFF⟩] };
    let s := { one with ops := [{ id := 7, party := .team 0, kind := .store, pc := 0 }] };
    let x : Late := { key := 5, id := 7, party := .team 0, path := 0, issued := 0, acts := [p 32 260] };
    (one.wf = true ∧ one.curRegs.wf = true ∧ one.curHarness < one.harnesses.length ∧ one.dies.length = 4) ∧
    byGroup [p 33 4, p 1 8, p 32 12] = [[p 1 8], [p 33 4, p 32 12]] ∧
    memS 256 (runActs 0 0 false one [p 0 256, { p 1 256 with d := 9 }]) = 9 ∧
    (let u := runPasses one false (lanesMask 1) [[p 0 256], [p 32 260]]
     memS 256 u = 256 ∧ memS 260 u = 0 ∧ u.late.length = 1 ∧ (runDue ((one.time + 1) * 20000 + 5121) u).late = [] ∧ (runDue ((one.time + 1) * 20000) u).late.length = 1) ∧
    (runLate { s with late := [x] } x).agenda.map (·.1) = [.storePerformed] ∧ (runLate { s with late := [x, { x with key := 6 }] } x).agenda = [] ∧ (runLate one x).agenda = [] ∧
    ((writeFor 0 5 w false 256 256).team 0).path.watch = [⟨5, 0, 256⟩] ∧ ((writeFor 0 5 w false 256 1).team 0).path.watch = [⟨5, 3, 256⟩] ∧ ((writeFor 0 5 w false 260 1).team 0).path.watch = [] ∧
    noteHit 5 2 8 [⟨5, 3, 4⟩] = [⟨5, 2, 8⟩] ∧ noteHit 5 3 8 [⟨5, 2, 4⟩] = [⟨5, 2, 4⟩] ∧ noteHit 6 3 8 [⟨5, 2, 4⟩] = [⟨5, 2, 4⟩, ⟨6, 3, 8⟩] := by decide +kernel
theorem test_wit_counts : let c := fun (f : Team → Team) => tm one f;
    nx one .nop (fun t => (t.team 0).flow.quantum == 1 && (t.team 0).perf.issued == 1 && (t.team 0).perf.passes == 1 && !(t.team 0).path.step) = true ∧
    nx (c fun x => { x with ctl := { x.ctl with step := true } }) .nop (fun t => (t.team 0).path.step) = true ∧
    nx (c fun x => { x with ctl := { x.ctl with step := true, inh := true } }) .nop (fun t => !(t.team 0).path.step) = true ∧
    nx (c fun x => { x with due := { x.due with one := some 0 } }) (.jmp 5) (fun t => (t.team 0).ctl.halted && (t.team 0).due.one == none && pcIs 6 t && (t.team 0).flow.quantum == 1) = true ∧
    nx (path one fun p => { p with mac := some ([0x01000000, 0x01000000], 0) }) .nop (fun t => (t.team 0).flow.quantum == 0 && (t.team 0).perf.issued == 1) = true := by decide +kernel

theorem test_wit_stores : let s := setV at256 4 fun k => BitVec.ofNat 32 (4 * k);
    does (setV s 1 fun k => BitVec.ofNat 32 k) (.sts 1 0xC2 4) (fun t => memS 256 t == 0 && memS 380 t == 31 && memS 384 t == 0) = true ∧
    does (setV s 1 fun k => BitVec.ofNat 32 k) (.sts 1 0xC2 0xC3) (fun t => memS 256 t == 31) = true ∧
    does (setS s [(4, 3), (5, 4)]) (.sts2 0xC4 0xC2 0xC3) (fun t => memS 260 t == 4) = true ∧
    faults (setS s [(3, 4)]) (.sts2 0xC4 0xC2 0xC3) 3 260 = true ∧ faults (lock s 256 260 false none) (.sts 1 0xC2 0xC3) 5 256 = true ∧
    faults (slot s 256 1) (.sts 1 0xC2 0xC3) 6 256 = true ∧ does (slot s 272 1) (.sts 1 0xC2 0xC3) (pcIs 1) = true ∧
    does (setS (share s) [(4, 3), (2, 0xFFFC)]) (.stx 0xC4 0xC2 0xC3) (fun t => memX 0xFFFC t == 0 && acted (fun u => memX 0xFFFC u == 3) t) = true ∧ at256.wf = true ∧
    shDoes (setSh shu [(2, 256), (4, 8)]) (.sts 0xC4 0xC2 0xC0) (fun t => memS 256 t == 8) = true := by decide +kernel
theorem test_wit_atomics : let s := setM (setV at256 1 fun k => BitVec.ofNat 32 (k + 1)) 256 [10];
    (atomOf (.atomsMin 1 0xC2 0xC3)).isSome = true ∧ does s (.atomsAdd 1 0xC2 0xC3) (fun t => memS 256 t == 538 && vec 1 0 t == 10 && vec 1 1 t == 11) = true ∧
    does s (.atomsMin 1 0xC2 0xC3) (fun t => memS 256 t == 1 && vec 1 31 t == 1) = true ∧
    does s (.atomsMax 1 0xC2 0xC3) (fun t => memS 256 t == 32) = true ∧ does s (.atomsXchg 1 0xC2 0xC3) (fun t => memS 256 t == 32 && vec 1 31 t == 31) = true ∧
    does (setS s [(4, 10), (5, 3)]) (.atomsCas 0xC4 0xC2 0xC3) (fun t => memS 256 t == 3 && sca 4 t == 10) = true ∧
    does (setS s [(4, 9), (5, 3)]) (.atomsCas 0xC4 0xC2 0xC3) (fun t => memS 256 t == 10) = true ∧
    does (setX (share s) 256 7) (.ticket 0xC4 0xC2 0xC3) (fun t => memX 256 t == 8 && sca 4 t == 7) = true ∧
    faults (setS s [(2, 2)]) (.atomsOr 1 0xC2 0xC3) 3 2 = true ∧ shDoes (setX (share (setSh shu [(2, 256), (4, 1)])) 256 7) (.atomxAdd 0xC4 0xC2 0xC0)
      (fun t => memX 256 t == 8 && getS (t.shuttle 0 0).regs 4 == 7) = true := by decide +kernel
theorem test_wit_ordered_adds : let s := setV at256 1 fun _ => 0x3F800000;
    let dom := fun (s : State) (m : Option (BitVec 4)) => ha s fun h => { h with dom := { h.dom with mask := m } };
    does s (.fatomsAdd 1 0xC2 0xC3) (fun t => (t.harness 0).dom.entries.length == 32) = true ∧
    illegalHere (dom s (some 2)) (.fatomsAdd 1 0xC2 0xC3) = true ∧ does (dom s (some 1)) (.fatomsAdd 1 0xC2 0xC3) (pcIs 1) = true ∧
    faults (setS s [(2, 2)]) (.fatomsAdd 1 0xC2 0xC3) 3 2 = true ∧ does s (.fence 4 2 0) (pcIs 1) = true ∧ illegalHere s (.fence 5 0 0) = true ∧
    illegalHere s (.fence 1 4 0) = true ∧ illegalHere s (.fence 1 2 1) = true ∧ shIllegalHere shu (.fence 1 3 1) = true ∧
    does s (.fence 1 3 1) (fun t => (t.team 0).deps.sharedRound == 1 && (t.harness 0).dom.mask == some 1) = true ∧
    illegalHere s (.fence 2 3 1) = true ∧ illegalHere s (.fence 1 3 0) = true ∧ illegalHere s (.fence 1 3 2) = true ∧
    illegalHere (dom s (some 3)) (.fence 1 3 1) = true ∧
    nx s (.fatomsAdd 1 0xC2 0xC3) (fun t => nx { t with cur := .team 0 } (.fence 1 3 1) fun u =>
      ev u { ctl := false, id := 0, launch := 0 } .roundClose fun v => memS 256 v == 0x42000000 && (v.harness 0).dom.rounds == 1) = true := by
  decide +kernel
theorem test_wit_waves : bankWaves [0, 384, 768, 1] = 3 ∧ rowsOf [0, 384, 768, 1] 0 = 3 ∧ rowsOf [0, 384, 768, 1] 1 = 1 ∧ bankWaves [] = 0 ∧
    does (setV one 4 fun k => BitVec.ofNat 32 (1536 * k)) (.lds 1 0xC3 4) (fun t => (t.harness 0).waves == 31) = true ∧
    does at256 (.lds 1 0xC2 0xC3) (fun t => (t.harness 0).waves == 0) = true := by decide +kernel
theorem test_wit_in_flight : let s := ha (setS (share one) [(2, 256)]) fun h => { h with watch := h.watch.set 0 (some ⟨0, true, false, 0, 0⟩) };
    nx s (.stx 0xC4 0xC2 0xC3) (fun t => (t.team 0).fetch == [0] && (t.team 0).deps.s == 1) = true ∧ nx s (.sts 0xC4 0xC2 0xC3) (fun t => (t.team 0).fetch == []) = true ∧
    nx at256 (.sts 1 0xC2 0xC3) (fun t => (t.ops.map (·.space)) == [some false] &&
      nx { t with cur := .team 0 } (.fence 2 1 0) fun u => (u.team 0).path.fence == [0] && !pathCan u 0 (u.team 0).path) = true ∧
    nx at256 (.sts 1 0xC2 0xC3) (fun t => nx { t with cur := .team 0 } (.fence 2 0 0) fun u => (u.team 0).path.fence == []) = true ∧
    nx (setSh shu [(2, 256)]) (.sts 0xC4 0xC2 0xC0) (fun t => (t.shuttle 0 0).accesses == 1) = true := by decide +kernel
theorem test_wit_memory_waits : let s := setM at256 256 [5];
    does (setS s [(1, 5)]) (.waitv 0xC1 0xC2 0) (pcIs 1) = true ∧ waitsHere (setS s [(1, 6)]) (.waitv 0xC1 0xC2 0) = true ∧
    does (setS (dep s .met) [(1, 6)]) (.waitv 0xC1 0xC2 0) (pcIs 1) = true ∧ faults (setS s [(2, 3)]) (.waitv 0xC1 0xC2 0) 3 3 = true ∧
    ev (dep s (.value 256 false 0 5)) { team := 0, path := 0 } .waitvPoll (fun t => (t.team 0).path.dep == some .met) = true ∧
    ev (dep s (.value 256 false 0 6)) { team := 0, path := 0 } .waitvPoll (fun t => (t.team 0).path.dep == some (.value 256 false 0 6)) = true ∧
    nx s (.lds 1 0xC2 0xC3) (fun t => ev t { id := 0 } .loadReturn fun u => (u.team 0).deps.l == 0 && (u.team 0).deps.marks == []) = true ∧
    nx s (.sts 1 0xC2 0xC3) (fun t => ev t { id := 0 } .storePerformed fun u => (u.team 0).deps.s == 0) = true ∧
    nx (setSh shu [(2, 256)]) (.lds 0xC4 0xC2 0xC0) (fun t => ev t { id := 0 } .loadReturn fun u => (u.shuttle 0 0).accesses == 0) = true := by decide +kernel

/-! ### Copies, transfers, Shuttle programs (PlainCopies to ShuttleEnds) -/

/-- Virtual 0 to FFFFH plain and 10000H to 1FFFFH graded, in HBM at the same addresses, in every TLB; four graded cells. -/
def mp (s : State) : State :=
  let f := (s.launch 0).f
  let leaf : Leaf := { tier := 0, target := 0, peer := 0, spec := false, graded := false, write := true }
  let l : List TlbEntry := [{ f := f, base := 0, size := 65536, leaf := leaf },
    { f := f, base := 65536, size := 65536, leaf := { leaf with target := 65536, graded := true } },
    { f := f, base := 131072, size := 65536, leaf := { leaf with target := 131072, write := false } },
    { f := f, base := 196608, size := 65536, leaf := { leaf with tier := 3, peer := s.svc.peerId } }]
  la ({ s with ioTlb := l }.putCore 0 { s.core 0 with copyTlb := l, tlbs := List.replicate 4 l })
    fun x => { x with regions := [{ base := 65536, cells := 4, clr := false }] }
/-- With a copy's operands in s4 to s7. -/
def cp (a b c d : Word) : State := setS (mp one) [(4, a), (5, b), (6, c), (7, d)]

theorem test_wit_plain_copies :
    does (cp 0 0 256 8) (.cpy 0xC4) (fun t => t.copies.length == 1 && (t.harness 0).copyq == [0] && (t.harness 0).locks.length == 1) = true ∧
    does (cp 0xFFFC 0 256 0x80000004) (.cpya 0xC4) (fun t => t.copies.length == 1) = true ∧ illegalHere (cp 0 0 256 0x01000004) (.cpy 0xC4) = true ∧
    faults (cp 2 0 256 4) (.cpy 0xC4) 3 2 = true ∧ faults (cp 0 0 258 4) (.cpy 0xC4) 3 258 = true ∧ faults (cp 0 0 256 6) (.cpy 0xC4) 3 6 = true ∧
    faults (cp 0 0x02000000 256 4) (.cpy 0xC4) 4 0 = true ∧ does (cp 0 0x01FFFFFF 256 0) (.cpy 0xC4) (fun t => (t.team 0).deps.batches.length == 1) = true ∧
    faults (cp 0 0 0x180000 0) (.cpy 0xC4) 4 0x180000 = true ∧ faults (cp 0 0 0x17FFFC 8) (.cpy 0xC4) 4 0x17FFFC = true ∧
    faults (slot (cp 0 0 256 4) 256 1) (.cpy 0xC4) 6 256 = true ∧ faults (cp 0x10000 0 256 4) (.cpy 0xC4) 0x12 0x10000 = true ∧
    nx (cp 0x40000 0 256 4) (.cpy 0xC4) (fun t => t.faults.length == 1 && pcIs 0 t) = true ∧
    nx (cp 0x20000 0 256 0x80000004) (.cpy 0xC4) (fun t => t.faults.length == 1) = true ∧
    nx (cp 0x30000 0 256 4) (.cpy 0xC4) (fun t => (t.team 0).ctl.tcause == 0x11) = true ∧
    waitsHere ((List.range 64).foldl (fun s _ => lock s 0 1 false none) (cp 0 0 256 4)) (.cpy 0xC4) = true ∧
    waitsHere (ha (cp 0 0 256 4) fun h => { h with copyq := List.range 256 }) (.cpy 0xC4) = true := by decide +kernel
theorem test_wit_described_copies :
    let d := fun (l : List Word) => setM (setS (mp one) [(4, 512)]) 512 l;
    let t := fun (ctl c : Word) => d [0, 0, 4096, 0, ctl, c, 0, 4, 0, 0, 0, 16, 0, 0, 0, 0];
    does (t 0x84000004 2) (.cpyt 0xC4) (fun t => (t.copies.map fun c => (c.pieces.map segBytes)) == [[8]]) = true ∧
    illegalHere (t 0x84000003 2) (.cpyt 0xC4) = true ∧ illegalHere (t 0x84000004 0) (.cpyt 0xC4) = true ∧
    faults (setS one [(4, 32)]) (.cpyt 0xC4) 3 32 = true ∧ faults (setS one [(4, 0x180000)]) (.cpyt 0xC4) 4 0x180000 = true ∧
    faults (d [2, 0, 4096, 0, 0x82000004, 0, 0, 0, 0, 0, 0, 0, 0, 0, 0, 0]) (.cpyt 0xC4) 3 2 = true ∧
    does (d [0, 0, 4096, 1024, 4, 64, 2, 0]) (.cpyg 0xC4) (fun t => t.copies.length == 1) = true ∧
    does (d [0, 0, 4096, 1024, 4, 64, 2, 0]) (.cpys 0xC4) (fun t => (t.copies.map (·.ordered)) == [true]) = true ∧
    illegalHere (d [0, 0, 4096, 1024, 4, 64, 4097, 0]) (.cpyg 0xC4) = true ∧ illegalHere (d [0, 0, 4096, 1024, 4, 64, 0, 0]) (.cpyg 0xC4) = true ∧
    faults (d [0, 0, 4098, 1024, 4, 64, 2, 0]) (.cpyg 0xC4) 3 4098 = true ∧ faults (d [0, 0x02000000, 4096, 1024, 4, 64, 2, 0]) (.cpyg 0xC4) 4 0 = true ∧
    faults (d [0, 0, 4096, 0x17FFFC, 4, 64, 2, 0]) (.cpyg 0xC4) 4 0x17FFFC = true ∧
    does (deps one fun x => { x with next := 0xFFFFFFFF }) (.seal 0xC1) (fun t => sca 1 t == 0xFFFFFFFF && (t.team 0).deps.next == 1) = true := by decide +kernel
def xfer : Transfer :=
  { id := 3, h := 0, shuttle := 0, segs := [⟨.hbm 8, .zero, 4⟩], add := false, barrier := none, copy := none, data := some [], reg := some (0xC4, 0), word := none }

theorem test_wit_transfers :
    nx (setM (cp 0 0 256 0x80000008) 256 [7, 8]) (.cpy 0xC4) (fun t => takesPiece t 0 1 && ev t { id := 0, n := 1 } .copyPieceTake fun u =>
      u.transfers.length == 1 && (u.harness 0).copyq == [] && ev u { id := 1 } .lastSourceByteRead fun v =>
      (v.harness 0).locks == [] && ev v { id := 1 } .transferComplete fun w =>
        memWord w.hbm 4 == 8 && w.copies == [] && w.transfers == [] && (w.team 0).deps.batches.all fun b => b.left == 0) = true ∧
    nx (cp 0 0 256 8) (.cpy 0xC4) (fun t => ev t { id := 0, n := 1 } .copyPieceTake fun u => ev u { id := 1 } .lastSourceByteRead fun v =>
      (v.transfers.map (·.data)) == [some [0, 0, 0, 0, 0, 0, 0, 0]] && !heldBack v (v.transfers.headD xfer)) = true ∧
    ev { one with transfers := [xfer] } { id := 3 } .transferComplete (fun t => t.transfers == []) = true := by decide +kernel
theorem test_wit_ports : let a : PortWrite := { id := 5, port := 0, loc := .host 8, bytes := [1, 2, 3, 4] };
    let s := { one with portWrites := [a, { a with id := 6, bytes := [9, 9, 9, 9] }] };
    let y := { xfer with id := 4, segs := [⟨.hbm 8, .hbm 16, 4⟩], data := none };
    let z := { xfer with reg := none };
    sentBefore s { a with id := 6 }.held = true ∧ sentBefore s a.held = false ∧ portRead s 0 0 (.host 9) 2 = [9, 9] ∧ portRead s 0 1 (.host 9) 2 = [0, 0] ∧
    ev s { id := 6 } .transferComplete (fun t => t.portWrites.length == 2) = true ∧
    ev s { id := 5 } .transferComplete (fun t => t.portWrites.length == 1 && t.byteAt (.host 9) == 2 && ev t { id := 6 } .transferComplete fun u => u.byteAt (.host 9) == 9) = true ∧
    heldBack { one with transfers := [z, y] } { y with id := 5 } = false ∧ readWaits { one with transfers := [{ z with data := none }, y] } y = true ∧
    readWaits { one with transfers := [{ z with segs := [⟨.hbm 0, .hbm 8, 4⟩] }, y] } y = true ∧ gradedHeld { one with transfers := [z] } (.shuttle 0 0) 7 = true ∧
    gradedHeld one (.shuttle 0 0) 7 = false ∧
    (let x : Transfer := { z with segs := [⟨.shared 0 0, .host 8, 4⟩], data := some [1, 2, 3, 4] }
     ev { one with transfers := [x] } { id := 3 } .transferComplete (fun t => (t.transfers.map (·.sent)) == [some 0] && t.byteAt (.host 8) == 0 && x.leaves t &&
       ev t { id := 3 } .transferComplete fun u => u.transfers == [] && u.byteAt (.host 9) == 2) = true) := by decide +kernel
def shuT : State := { shu with cur := .team 0 }

theorem test_wit_shuttle_programs : let s := fun (n pc p : Word) => setS one [(1, n), (2, pc), (3, p)];
    does (s 3 1023 0x17FFFC) (.shrun 0xC1 0xC2 0xC3) (fun t => (t.shuttle 0 3).state == 1 && (t.shuttle 0 3).pc == 1023 && getS (t.shuttle 0 3).regs 0 == 0x17FFFC) = true ∧
    illegalHere (s 4 0 0) (.shrun 0xC1 0xC2 0xC3) = true ∧ faults (s 3 0 2) (.shrun 0xC1 0xC2 0xC3) 3 2 = true ∧
    faults (s 3 1024 0) (.shrun 0xC1 0xC2 0xC3) 4 1024 = true ∧ faults (s 3 0 0x180000) (.shrun 0xC1 0xC2 0xC3) 4 0x180000 = true ∧
    does (dep (s 3 0 0) .met) (.shrun 0xC1 0xC2 0xC3) (fun t => (t.shuttle 0 3).state == 0) = true ∧
    (let b := ha (s 0 7 0) fun h => { h with shuttles := h.shuttles.set 0 { state := 1 } }
     waitsHere b (.shrun 0xC1 0xC2 0xC3) && ev (dep b (.start 0 7 0)) { team := 0, path := 0 } .shuttleProgramStart (fun t => (t.team 0).path.dep == some (.start 0 7 0)) &&
      ev (dep (s 0 7 0) (.start 0 7 0)) { team := 0, path := 0 } .shuttleProgramStart fun t => (t.team 0).path.dep == some .met && (t.shuttle 0 0).pc == 7) = true ∧
    does (setS shuT [(1, 0x300)]) (.shstat 0xC2 0xC1) (pcIs 1) = true ∧ illegalHere (setS shuT [(1, 0x400)]) (.shstat 0xC2 0xC1) = true ∧
    illegalHere (setS shuT [(1, 4)]) (.shstat 0xC2 0xC1) = true ∧ does shuT (.shstop 0xC1) (fun t => (t.shuttle 0 0).state == 0) = true ∧
    illegalHere (setS shuT [(1, 4)]) (.shstop 0xC1) = true ∧ does (setS shuT [(1, 3)]) (.shstop 0xC1) (pcIs 1) = true := by decide +kernel

/-- The Shuttle with a cursor over far memory. -/
def cur (c : Cursor) : State := sh (mp shu) fun x => { x with cursors := x.cursors.set 0 (some c) }
def c0 : Cursor := { space := 2, src := 0, run := 8, ndim := 2, cnt := [2, 1, 1, 1], str := [16, 0, 0, 0], idx := [0, 0, 0, 0], addr := 0 }
def shWaits (s : State) (i : Instr) (n : Nat) : Bool := shGoes s i && nx s i fun t => (t.shuttle 0 0).pc == 0 && (t.shuttle 0 0).state == n

theorem test_wit_cursor_transfers : let s := fun (l : List (Nat × Word)) => setSh (cur c0) l;
    shDoes (s [(1, 256)]) (.tld 0xC1 0xF0 0xEF) (fun t => t.transfers.length == 1 && (t.harness 0).locks.length == 1) = true ∧
    shDoes (s [(1, 256)]) (.tst 0xC1 0xF0 0xEF) (fun t => t.transfers.length == 1) = true ∧
    shDoes (s [(1, 256)]) (.tadd 0xC1 0xF0 0xEF) (fun t => (t.transfers.map (·.add)) == [true]) = true ∧
    shIllegalHere shu (.tld 0xC1 0xF0 0xEF) = true ∧ shFaults (s [(1, 2)]) (.tld 0xC1 0xF0 0xEF) 3 2 = true ∧
    shFaults (s [(2, 8)]) (.tld 0xC1 0xF0 0xC2) 3 8 = true ∧ shFaults (s [(2, 0x180000)]) (.tld 0xC1 0xF0 0xC2) 4 0x180000 = true ∧
    shDoes (s [(2, 0x17FFF0)]) (.tld 0xC1 0xF0 0xC2) (fun t => (t.transfers.map (·.barrier)) == [some 0x17FFF0]) = true ∧
    shWaits ((List.range 64).foldl (fun s _ => lock s 0 1 false none) (s [])) (.tld 0xC1 0xF0 0xEF) 1 = true := by decide +kernel
theorem test_wit_list_transfers : let s := fun (a b c : Word) => setM (setSh (cur c0) [(1, 256), (4, a), (5, b), (6, c)]) 512 [1, 2];
    shDoes (s 512 1 0) (.tgat 0xC1 0xF0 0xC4) (fun t => (t.transfers.map fun x => x.segs) == [[⟨.hbm 16, .shared 0 256, 8⟩]]) = true ∧
    shDoes (s 512 1 0) (.tsca 0xC1 0xF0 0xC4) (fun t => t.transfers.length == 1) = true ∧ shFaults (s 514 1 0) (.tgat 0xC1 0xF0 0xC4) 3 514 = true ∧
    shFaults (s 512 0 0) (.tgat 0xC1 0xF0 0xC4) 4 0 = true ∧ shFaults (s 512 8193 0) (.tgat 0xC1 0xF0 0xC4) 4 8193 = true ∧
    shFaults (s 512 2 0) (.tgat 0xC1 0xF0 0xC4) 4 2 = true ∧
    shDoes (setSh shu [(1, 256), (2, 65536)]) (.tzero 0xC1 0xC2 0xEF) (fun t => t.transfers.length == 1) = true ∧
    shFaults (setSh shu [(1, 256), (2, 65540)]) (.tzero 0xC1 0xC2 0xEF) 4 65540 = true ∧ shFaults (setSh shu [(1, 256), (2, 0)]) (.tzero 0xC1 0xC2 0xEF) 4 0 = true ∧
    shFaults (setSh shu [(1, 0x17FFFC), (2, 8)]) (.tzero 0xC1 0xC2 0xEF) 4 0x17FFFC = true ∧ shFaults (setSh shu [(2, 2)]) (.tzero 0xC1 0xC2 0xEF) 3 2 = true ∧
    shFaults (slot (setSh shu [(1, 256), (2, 4)]) 256 1) (.tzero 0xC1 0xC2 0xEF) 6 256 = true ∧
    shWaits ((List.range 64).foldl (fun s _ => lock s 0 1 false none) (setSh shu [(2, 4)])) (.tzero 0xC1 0xC2 0xEF) 1 = true := by decide +kernel
theorem test_wit_far_words : let s := fun (lo hi : Word) => setSh (mp shu) [(4, lo), (5, hi), (6, 9)];
    shDoes (s 0xFFFC 0) (.xld 0xC2 0xC4 0xC0) (fun t => (t.transfers.map (·.reg)) == [some (0xC2, 0)] && (t.shuttle 0 0).marks != []) = true ∧
    shDoes (s 8 0) (.xst 0xC6 0xC4 0xC0) (fun t => (t.transfers.map (·.word)) == [some 9]) = true ∧ shFaults (s 2 0) (.xld 0xC2 0xC4 0xC0) 3 2 = true ∧
    shFaults (s 4 0x02000000) (.xld 0xC2 0xC4 0xC0) 4 4 = true ∧ nx (s 0x40000 0) (.xld 0xC2 0xC4 0xC0) (fun t => t.faults.length == 1) = true ∧
    shFaults (s 0x10000 0) (.xst 0xC6 0xC4 0xC0) 0x12 0x10000 = true := by decide +kernel
def pcSh (n : Nat) (t : State) : Bool := (t.shuttle 0 0).pc == n
def lp (l : HwLoop) : State := sh shu fun x => { x with loops := x.loops.set 3 l }

theorem test_wit_cursors_and_loops :
    let d := fun (l : List Word) => setM (setSh shu [(1, 512)]) 512 l;
    let g := stepCursor c0 4 1;
    shDoes (d [0, 0, 0, 0, 0x84000008, 2, 0, 16]) (.tcur 0xF1 0xC1) (fun t => ((t.shuttle 0 0).cursors.getD 1 none).isSome) = true ∧
    shFaults (setSh shu [(1, 32)]) (.tcur 0xF1 0xC1) 3 32 = true ∧ shIllegalHere (d [0, 0, 0, 0, 0x04000008, 2]) (.tcur 0xF1 0xC1) = true ∧
    shFaults (d [2, 0, 0, 0, 0x84000008, 2]) (.tcur 0xF1 0xC1) 3 2 = true ∧ g.1.addr = 16 ∧ g.2 = false ∧ (stepCursor g.1 4 1).2 = true ∧
    shDoes (cur c0) (.tstep 0xE1 0xF0 1) (pcSh 1) = true ∧ shIllegalHere (cur c0) (.tstep 0xE1 0xF0 2) = true ∧
    shIllegalHere shu (.tstep 0xE1 0xF0 1) = true ∧
    shDoes (setSh shu [(1, 2)]) (.lpset 3 0xC1 5) (fun t => pcSh 1 t && (t.shuttle 0 0).loops.getD 3 {} == ⟨2, 1, true⟩) = true ∧ shDoes shu (.lpset 3 0xC1 5) (pcSh 6) = true ∧
    shIllegalHere shu (.lpend 3) = true ∧ shDoes (lp ⟨2, 1, true⟩) (.lpend 3) (pcSh 1) = true ∧
    shDoes (lp ⟨1, 9, true⟩) (.lpend 3) (fun t => pcSh 1 t && !((t.shuttle 0 0).loops.getD 3 {}).active) = true ∧ shDoes (lp ⟨0, 9, true⟩) (.lpend 3) (pcSh 9) = true := by
  decide +kernel
theorem test_wit_shuttle_ends : let fly := nx (setSh (cur c0) [(1, 256)]) (.tld 0xC1 0xF0 0xEF);
    let again := fun (t : State) => sh { t with cur := .shuttle 0 0 } fun x => { x with pc := 0 };
    shDoes (setSh (slot shu 256 2) [(1, 256), (2, 4)]) (.arrive 0xC1 0xC2) (fun t => ((t.harness 0).slotAt 256).pend == 1) = true ∧
    shFaults (setSh shu [(1, 256)]) (.arrive 0xC1 0xC2) 4 256 = true ∧ shWaits (sh (setSh (slot shu 256 2) [(1, 256)]) fun x => { x with accesses := 1 }) (.arrive 0xC1 0xC2) 1 = true ∧
    fly (fun t => shWaits (again t) (.shwait 0) 2 && shDoes (again t) (.shwait 1) (fun u => (u.shuttle 0 0).pc == 1) && shWaits (again t) .shend 2 && shWaits (again t) (.shpost 0xC8 0xC2) 1) = true ∧
    shWaits shu .shend 0 = true ∧ shDoes (setSh shu [(2, 65535), (8, 7)]) (.shpost 0xC8 0xC2) (fun t => mboxTail t 0 65535 == 1) = true ∧
    shIllegalHere (setSh shu [(2, 65536)]) (.shpost 0xC8 0xC2) = true ∧
    shWaits (fu shu fun f => { f with mbox := memStore [] 4 [7] }) (.shpost 0xC8 0xC2) 2 = true := by decide +kernel

/-! ### Barriers and graded values (SlotUpdate to GradedReads) -/

/-- A live slot with fields of its own, the operands s1 and s2, an own lock list. -/
def slotDone (s : State) (a done : Nat) : State :=
  ha s fun h => { h.putSlot a { exp := 1, pend := 1, bytes := 0, done := done, snew := false, hgen := 3, lgrd := 2, mask := 5 } with live := sset 0 h.live a 1 }
def ab (s : State) (a b : Word) : State := setS s [(1, a), (2, b)]
/-- A graded descriptor in s4 to s7, cell tags, 64 locks elsewhere. -/
def gd (s : State) (w first count p : Word) : State := setS (mp s) [(4, w), (5, first), (6, count), (7, p)]
def gdSh (w first count p : Word) : State := setSh (mp shu) [(4, w), (5, first), (6, count), (7, p)]
def tag (s : State) (j : Nat) (t : Byte) : State := fu s fun f => { f with tags := sset 0 f.tags (256 + j) t }
def tagIs (j : Nat) (x : Byte) (t : State) : Bool := sget 0 (t.func 0).tags (256 + j) == x
def locks64 (s : State) : State := (List.range 64).foldl (fun s _ => lock s 0x100000 0x100004 false none) s
/-- A graded write in flight on cell 0. -/
def flight : GradedFlight :=
  { id := 7, h := 0, party := .none, team := 0, batch := 0, kind := some .gput, launch := 0, region := 0, first := 0, count := 1, grade := 3
    hop := 0, data := [], sh := 256, slot := 0, input := 0, lowG := 0, highN := 0, locs := [.hbm 65536] }
def busy (s : State) : State := { s with graded := [flight] }

theorem test_wit_slot_update : one.wf = true ∧ (one.harness 0).isLive 256 = false ∧ ((slot one 256 1).harness 0).isLive 256 = true ∧
    (let y := (((slot one 256 2).harness 0).slotAt 256).update true 0 (some { grade := 2, gen := 5, input := 3 })
     y.pend == 1 && y.done == 0 && y.lgrd == 2 && y.hgen == 5 && y.mask == 8) = true ∧
    (let y := (((slot one 256 1).harness 0).slotAt 256).update true 0 none
     y.pend == 1 && y.done == 1 && y.snew) = true ∧
    (let y := (((slot one 256 1).harness 0).slotAt 256).update true 16 none
     y.pend == 0 && y.done == 0 && y.bytes == 16) = true := by decide +kernel
theorem test_wit_barrier_checks :
    does (ab one 256 1) (.binit 0xC1 0xC2) (fun t => (t.harness 0).isLive 256 && memS 256 t == 0x00010001) = true ∧ faults (ab one 256 0) (.binit 0xC1 0xC2) 1 256 = true ∧
    does (ab one 0x17FFF0 65535) (.binit 0xC1 0xC2) (pcIs 1) = true ∧ faults (ab one 256 65536) (.binit 0xC1 0xC2) 1 256 = true ∧
    faults (ab one 8 1) (.binit 0xC1 0xC2) 3 8 = true ∧ faults (ab one 0x180000 1) (.binit 0xC1 0xC2) 4 0x180000 = true ∧
    faults (lock (ab one 256 1) 271 272 false none) (.binit 0xC1 0xC2) 5 256 = true ∧ does (lock (ab one 256 1) 272 273 false none) (.binit 0xC1 0xC2) (pcIs 1) = true ∧
    faults (slot (ab one 256 1) 256 1) (.binit 0xC1 0xC2) 6 256 = true ∧ faults (ab one 256 0) (.barr 0xC1) 4 256 = true ∧
    faults (ab one 8 0) (.bret 0xC1) 3 8 = true ∧ faults (ab one 0x180000 0) (.bexp 0xC1 0xC2) 4 0x180000 = true := by decide +kernel
theorem test_wit_barriers : let s := slot (ab one 256 4) 256 1;
    does s (.barr 0xC1) (fun t => ((t.harness 0).slotAt 256).done == 1) = true ∧ does s (.bexp 0xC1 0xC2) (fun t => ((t.harness 0).slotAt 256).bytes == 4) = true ∧
    does s (.bret 0xC1) (fun t => !(t.harness 0).isLive 256) = true ∧ waitsHere (ab s 256 0) (.bwait 0xC1 0xC2) = true ∧
    does (ab s 256 65535) (.bwait 0xC1 0xC2) (pcIs 1) = true ∧ does (ab s 256 32769) (.bwait 0xC1 0xC2) (pcIs 1) = true ∧ waitsHere (ab s 256 32768) (.bwait 0xC1 0xC2) = true ∧
    does (dep (ab s 256 0) .met) (.bwait 0xC1 0xC2) (pcIs 1) = true ∧ faults (dep (ab s 256 0) (.lost 256)) (.bwait 0xC1 0xC2) 4 256 = true ∧
    does (ab (slotDone s 256 1) 256 0) (.btry 0xC4 0xC1 0xC2) (fun t => sca 4 t == 1) = true ∧ does (ab s 256 0) (.btry 0xC4 0xC1 0xC2) (fun t => sca 4 t == 0) = true ∧
    does (slotDone s 256 1) (.bgrd 0xC4 0xC1) (fun t => sca 5 t == 5) = true ∧ Ahead 1 0 := by
  refine ⟨?_, ?_, ?_, ?_, ?_, ?_, ?_, ?_, ?_, ?_, ?_, ?_, ⟨1, by decide, by decide, by decide⟩⟩ <;> decide +kernel
theorem test_wit_graded_tags : (planTag .gput 1 (mkTag true 31 1) = .error 0x22 ∧ planTag .gput 2 (mkTag true 30 1) = .ok (mkTag false 31 2, true) ∧
    planTag .gput 1 0 = .ok (1, false) ∧ planTag .gput 3 3 = .error 0x21 ∧ planTag .gput 1 2 = .error 0x20 ∧ planTag .amend 1 0 = .error 0x12 ∧
    planTag .amend 2 1 = .ok (mkTag false 1 2, true)) ∧ planTag .final 3 3 = .ok (3, false) ∧ planTag .final 3 (mkTag true 31 1) = .error 0x22 ∧
    planTag .final 3 2 = .ok (3, false) := ⟨⟨rfl, rfl, rfl, rfl, rfl, rfl, rfl⟩, rfl, rfl, rfl⟩
theorem test_wit_graded_descriptors :
    does (gd one 0x40 0 4 256) (.gput 0xC4) (fun t => t.graded.length == 1 && (t.harness 0).locks.length == 1) = true ∧ faults (gd one 0x40 1 4 256) (.gput 0xC4) 4 1 = true ∧
    faults (gd one 0x40 0 0 256) (.gput 0xC4) 4 0 = true ∧ faults (gd one 0x41 0 1 256) (.gput 0xC4) 4 0 = true ∧ illegalHere (gd one 0 0 1 256) (.gput 0xC4) = true ∧
    illegalHere (gd one 0x140 0 1 256) (.gput 0xC4) = true ∧ illegalHere (gd one 0x10040 0 1 256) (.gput 0xC4) = true ∧ illegalHere (gd one 0x40 0 1 0) (.final 0xC4) = true ∧
    faults (gd one 0x40 0 1 258) (.gput 0xC4) 3 258 = true ∧ faults (gd one 0x40 0 1 0x17FF04) (.gput 0xC4) 4 0x17FF04 = true ∧
    does (gd one 0x40 0 1 0x17FF00) (.gput 0xC4) (pcIs 1) = true ∧ faults (lock (gd one 0x40 0 1 256) 511 512 true none) (.gput 0xC4) 5 256 = true ∧
    does (lock (gd one 0x40 0 1 256) 511 512 false none) (.gput 0xC4) (pcIs 1) = true ∧ shWaits (lock (gdSh 0x40 0 1 256) 511 512 true (some 0)) (.gput 0xC4) 2 = true ∧
    faults (tag (slot (setS (gd one 0x40 0 1 512) [(1, 256)]) 512 1) 0 1) (.gget 0xC4 0xC1) 6 512 = true := by decide +kernel
theorem test_wit_graded_writes :
    nx (setM (gd one 0xC0 0 1 256) 256 [77]) (.gput 0xC4) (fun t => ev t { id := 0 } .gradedWriteComplete fun u => memWord u.hbm 65536 == 77 && tagIs 0 3 u && u.graded == []) = true ∧
    waitsHere (busy (gd one 0x40 0 1 256)) (.gput 0xC4) = true ∧ faults (tag (gd one 0x40 0 2 256) 1 2) (.gput 0xC4) 0x20 1 = true ∧
    waitsHere (locks64 (gd one 0x40 0 1 256)) (.gput 0xC4) = true ∧ does (tag (gd one 0x40 0 1 256) 0 1) (.amend 0xC4) (pcIs 1) = true ∧
    faults (gd one 0x40 0 1 256) (.amend 0xC4) 0x12 0 = true ∧ does (tag (gd one 0 0 1 0) 0 1) (.final 0xC4) (tagIs 0 3) = true ∧
    faults (gd one 0 3 1 0) (.final 0xC4) 0x12 3 = true ∧ waitsHere (busy (gd one 0 0 1 0)) (.final 0xC4) = true ∧
    does (tag (gd one 0 0 1 0) 0 3) (.retire 0xC4) (tagIs 0 0) = true ∧ waitsHere (busy (gd one 0 0 1 0)) (.retire 0xC4) = true ∧
    shDoes (gdSh 0x40 0 1 256) (.gput 0xC4) (fun t => (t.graded.map (·.party)) == [.shuttle 0 0]) = true ∧ illegalHere (gd one 0x40 0 1 0) (.retire 0xC4) = true := by decide +kernel
theorem test_wit_graded_away : let x := { flight with locs := [.peer 1 0], sh := 256 };
    let s := setM { one with graded := [x] } 256 [77];
    ev s { id := 7 } .gradedWriteComplete (fun t => (t.graded.map (·.sent)) == [some 0] && t.byteAt (.peer 1 0) == 0 &&
      ev t { id := 7 } .gradedWriteComplete fun u => u.graded == [] && u.byteAt (.peer 1 0) == 77) = true ∧
    ev { s with transfers := [xfer], graded := [{ x with party := .shuttle 0 0 }] } { id := 7 } .gradedWriteComplete (fun t => (t.graded.map (·.sent)) == [none]) = true := by decide +kernel
theorem test_wit_graded_reads : let s := slot (setS (tag (gd one 0x40 0 1 512) 0 2) [(1, 256)]) 256 1;
    nx s (.gget 0xC4 0xC1) (fun t => tagIs 0 0x82 t && ev t { id := 0 } .ggetLanding fun u => ((u.harness 0).slotAt 256).done == 1 && ((u.harness 0).slotAt 256).lgrd == 2) = true ∧
    faults (tag s 0 0) (.gget 0xC4 0xC1) 0x12 0 = true ∧ faults (setS s [(1, 272)]) (.gget 0xC4 0xC1) 4 272 = true ∧ waitsHere (busy s) (.gget 0xC4 0xC1) = true ∧
    waitsHere (locks64 s) (.gget 0xC4 0xC1) = true ∧ does (tag (gd one 0 0 4 0) 1 7) (.gqry 0xC1 0xC4) (fun t => sca 1 t == 0x700) = true ∧
    illegalHere (gd one 0x40 0 1 0) (.gqry 0xC1 0xC4) = true ∧ waitsHere (busy (gd one 0 0 1 0)) (.gqry 0xC1 0xC4) = true ∧
    does (tag (gd one 0x80 0 1 0) 0 2) (.gwait 0xC4) (pcIs 1) = true ∧ waitsHere (tag (gd one 0x80 0 1 0) 0 1) (.gwait 0xC4) = true ∧ waitsHere (busy (gd one 0x80 0 1 0)) (.gwait 0xC4) = true ∧
    ev (mp one) { f := 0, off := 65536, n := 1, v := 2, graded := .gput, bytes := [9] } .peerGradedWrite (fun t => tagIs 0 2 t && memWord t.hbm 65536 == 9) = true ∧
    ev (mp one) { f := 0, off := 0, n := 1, v := 2, graded := .gput } .peerGradedWrite (fun t => t.hbm == (mp one).hbm) = true := by decide +kernel

/-! ### Tokens, mailboxes, tasks (BatchJoin to ReportingTiles) -/

def jn (v key done : Word) : State := setS (share one) [(4, v), (5, key), (6, done), (7, 9)]
def batch (n : Nat) (closed : Bool) (k : Option (Nat × Nat × Nat)) : BfBatch :=
  { group := 16, key := 5, no := 1, rows := (List.range n).map fun j => { seq := j, payload := 7, done := 64 + 4 * j, launch := 0 }, opened := 0, win := 1
    closed := closed, taker := k }
def bats (s : State) (l : List BfBatch) : State := { s with batches := l }
def pool (s : State) (n w : Nat) (o : List (Nat × KvPage)) : State := la s fun l => { l with pool := some { base := 0, pages := n, wmark := w, owned := o } }
def poolIs (o : List (Nat × KvPage)) (t : State) : Bool := (t.launch 0).pool.map (·.owned) == some o

theorem test_wit_batch_join : does (jn 0xFFFFFF 5 0xFFFC) (.bfjoin 0xC1 0xC4) (fun t => sca 1 t == 0 && t.batches.length == 1) = true ∧
    faults (jn 0x1000000 5 2) (.bfjoin 0xC1 0xC4) 4 0x1000000 = true ∧ faults (jn 1 5 2) (.bfjoin 0xC1 0xC4) 3 2 = true ∧ faults (jn 1 5 0x10000) (.bfjoin 0xC1 0xC4) 4 0x10000 = true ∧
    does (la (jn 1 5 0) fun l => { l with cancelled := [1] }) (.bfjoin 0xC1 0xC4) (fun t => sca 1 t == 0xFFFFFFFF && (t.launch 0).refused == [1]) = true ∧
    waitsHere (bats (jn 1 5 0) ((List.range 64).map fun _ => batch 1024 true none)) (.bfjoin 0xC1 0xC4) = true ∧
    does (la (jn 1 5 0) fun l => { l with rcl := [1] }) (.bfjoin 0xC1 0xC4) (fun t => sca 1 t == 512 && (t.launch 0).rcl == []) = true := by decide +kernel
theorem test_wit_batch_take : let s := bats (ab (share one) 5 256) [batch 2 true none];
    does s (.bftake 0xC4 0xC1 0xC2) (fun t => sca 4 t == 1 && sca 5 t == 2) = true ∧ does (ab s 6 256) (.bftake 0xC4 0xC1 0xC2) (fun t => sca 5 t == 0) = true ∧
    does (ab s 0xFFFFFFFF 0x17FFE0) (.bftake 0xC4 0xC1 0xC2) (fun t => sca 5 t == 2) = true ∧ does (bats s [batch 2 false none]) (.bftake 0xC4 0xC1 0xC2) (fun t => sca 5 t == 0) = true ∧
    faults (ab s 5 2) (.bftake 0xC4 0xC1 0xC2) 3 2 = true ∧ faults (ab s 5 0x17FFE4) (.bftake 0xC4 0xC1 0xC2) 4 0x17FFE4 = true ∧
    faults (lock s 287 288 false none) (.bftake 0xC4 0xC1 0xC2) 5 256 = true ∧ faults (slot s 272 1) (.bftake 0xC4 0xC1 0xC2) 6 256 = true ∧
    does (bats (ab (share one) 1 0) [batch 2 true (some (0, 0, 256))]) (.bfdone 0xC1) (fun t => t.batches == [] && memX 68 t == 1) = true ∧
    faults (bats (ab (share one) 2 0) [batch 2 true (some (0, 0, 256))]) (.bfdone 0xC1) 4 2 = true ∧ faults (bats (ab (share one) 1 0) [batch 2 true none]) (.bfdone 0xC1) 4 1 = true ∧
    ev (bats { one with time := 1 } [batch 1 false none]) { launch := 16, seq := 1 } .batchWindowExpiry (fun t => t.batches.all (·.closed)) = true ∧
    ev (bats one [batch 1 false none]) { launch := 16, seq := 1 } .batchWindowExpiry (fun t => t.batches.all (!·.closed)) = true := by decide +kernel
theorem test_wit_pages : does (pool (ab one 7 0) 2 0 [(0, .committed 3)]) (.specpg 0xC4 0xC1) (pcIs 1) = true ∧
    does (pool (ab one 7 0) 1 0 [(0, .spec 3)]) (.specpg 0xC4 0xC1) (fun t => sca 4 t == 0xFFFFFFFF && poolIs [(0, .quarantine 3)] t) = true ∧
    does (la (pool (ab one 7 0) 1 0 []) fun l => { l with refused := [7] }) (.specpg 0xC4 0xC1) (fun t => sca 4 t == 0xFFFFFFFF) = true ∧
    faults (ab one 7 0) (.specpg 0xC4 0xC1) 4 7 = true ∧ faults (ab one 0x1000000 0) (.specpg 0xC4 0xC1) 4 0x1000000 = true ∧
    does (pool (ab one 7 0x10001) 3 0 [(0, .spec 7), (1, .spec 7), (2, .spec 8)]) (.commit 0xC4 0xC1 0xC2) (fun t => sca 4 t == 1 && poolIs [(0, .committed 7), (2, .spec 8)] t) = true ∧
    does (pool (ab one 7 0x20000) 3 0 [(0, .committed 7), (2, .spec 8)]) (.commit 0xC4 0xC1 0xC2) (poolIs [(2, .spec 8)]) = true ∧
    illegalHere (pool (ab one 7 0x40000) 1 0 []) (.commit 0xC4 0xC1 0xC2) = true ∧ faults (pool (ab one 0x1000000 0) 1 0 []) (.commit 0xC4 0xC1 0xC2) 4 0x1000000 = true ∧
    faults (ab one 7 0) (.commit 0xC4 0xC1 0xC2) 4 7 = true ∧ does (la (ab one 7 0) fun l => { l with cancelled := [7] }) (.cancelq 0xC4 0xC1) (fun t => sca 4 t == 1) = true ∧
    faults (ab one 0x1000000 0) (.cancelq 0xC4 0xC1) 4 0x1000000 = true := by decide +kernel
theorem test_wit_egress : let st : Egress := { stream := 3, ring := 0, credit := 0, note := 4096, seq := 9, slots := 7 };
    let s := la (setS (gd one 0 0 1 0) [(1, 3), (2, 0)]) fun l => { l with egress := [st] };
    does s (.egress 0xC4 0xC1) (fun t => ((t.launch 0).egress.map fun e => e.entries) == [[⟨0, 0⟩]]) = true ∧ faults (setS s [(1, 4)]) (.egress 0xC4 0xC1) 4 4 = true ∧
    waitsHere (la s fun l => { l with egress := [{ st with entries := List.replicate 4096 ⟨0, 0⟩ }] }) (.egress 0xC4 0xC1) = true ∧
    does s (.release 0xC3 0xC1 0xC2) (fun t => sca 3 t == 0 && ((t.launch 0).egress.map (·.released)) == [1]) = true ∧ does (setS s [(2, 1)]) (.release 0xC3 0xC1 0xC2) (fun t => sca 3 t == 2) = true ∧
    does (la s fun l => { l with egress := [{ st with released := 1 }] }) (.release 0xC3 0xC1 0xC2) (fun t => sca 3 t == 1) = true ∧
    does (la s fun l => { l with refused := [9] }) (.release 0xC3 0xC1 0xC2) (fun t => sca 3 t == 3) = true ∧ faults (setS s [(1, 4)]) (.release 0xC3 0xC1 0xC2) 4 4 = true ∧
    ev (tag (la { s with hbm := memStore s.hbm 0 [1] } fun l => { l with egress := [{ st with entries := [⟨0, 0⟩], released := 1 }] }) 0 3) { launch := 0, n := 3 } .egressDeparture
      (fun t => ((t.launch 0).egress.map (·.leaves)) == [1] && t.portWrites.length == 1 && ev t { id := 0 } .transferComplete fun u =>
        ((u.launch 0).egress.map (noteDue u)) == [some 1] && ev u { launch := 0, n := 3 } .egressDeparture fun v =>
        ev v { id := 1 } .transferComplete fun w => memWord w.host 4096 == 1 && w.portWrites == []) = true := by decide +kernel
theorem test_wit_mailboxes : let full := fu one fun f => { f with mbox := memStore [] (256 * 5 + 4) [7] };
    does (setS one [(1, 65535), (8, 7)]) (.mbxput 0xC8 0xC1) (fun t => mboxTail t 0 65535 == 1) = true ∧ illegalHere (setS one [(1, 65536)]) (.mbxput 0xC8 0xC1) = true ∧
    waitsHere (setS full [(1, 5)]) (.mbxput 0xC8 0xC1) = true ∧ does (setS full [(1, 5)]) (.mbxget 0xC8 0xC1 0xC2) (fun t => sca 2 t == 1 && mboxHead t 0 5 == 1) = true ∧
    does (setS one [(1, 5)]) (.mbxget 0xC8 0xC1 0xC2) (fun t => sca 2 t == 0) = true ∧ illegalHere (setS one [(1, 65536)]) (.mbxget 0xC8 0xC1 0xC2) = true ∧ one.wf = true := by decide +kernel

def task : Task := { tpri := 0, rolem := 1, tx := 1, ty := 1, tz := 2, arg := 0, ins := [], out := none }
def tile : Tile := { task := 0, x := 1, y := 2, z := 3 }
def tk (s : State) (b : List Tile) : State := la s fun l => { l with tasks := [task], fronts := l.fronts.set 0 { buffer := b } }
def holding (s : State) (n : Nat) : State := tm s fun x => { x with tiles := List.replicate n tile }

theorem test_wit_taking_tiles : does (tk one [tile]) (.fetchw 0xC4) (fun t => sca 5 t == 1 && (t.team 0).tiles == [tile]) = true ∧
    does (tk one [tile]) (.tryw 0xC4) (fun t => sca 7 t == 3) = true ∧ waitsHere (tk one []) (.fetchw 0xC4) = true ∧ does (tk one []) (.tryw 0xC4) (fun t => sca 4 t == 0xFFFFFFFF) = true ∧
    does (dep (tk one []) .met) (.fetchw 0xC4) (pcIs 1) = true ∧ faults (holding (tk one [tile]) 16) (.fetchw 0xC4) 4 0 = true ∧ faults (holding (tk one [tile]) 16) (.tryw 0xC4) 4 0 = true ∧
    does (holding (tk one [tile]) 15) (.fetchw 0xC4) (pcIs 1) = true ∧
    ev (la one fun l => { l with tasks := [{ task with fired := true, left := 2 }] }) { launch := 0 } .tileDeal (fun t => ((t.launch 0).fronts.map (·.transit.length)) == [1, 0, 0, 0]) = true ∧
    ev (la (tk one []) fun l => { l with fronts := l.fronts.set 0 { transit := [tile] } }) { launch := 0, die := 0 } .dealtTileArrival
      (fun t => ((t.launch 0).fronts.map (·.buffer)) == [[tile], [], [], []]) = true := by decide +kernel
theorem test_wit_reporting_tiles : let s := setS (slotDone (holding (tk one []) 1) 256 0) [(4, 0), (5, 1), (6, 2), (7, 3), (1, 256)];
    does s (.taskend 0xC4 0xC1) (fun t => (t.team 0).tiles == [] && ((t.launch 0).reports.map (·.hgen)) == [3]) = true ∧ faults (setS s [(5, 2)]) (.taskend 0xC4 0xC1) 4 0 = true ∧
    faults (setS s [(1, 272)]) (.taskend 0xC4 0xC1) 4 272 = true ∧ does s (.taskend 0xC4 0xEF) (pcIs 1) = true ∧
    (let h := setS (tm s fun x => { x with tiles := [{ tile with task := 0xFFFFFFFE }] }) [(4, 0xFFFFFFFE)]
     illegalHere h (.taskend 0xC4 0xC1) && does h (.taskend 0xC4 0xEF) (pcIs 1)) = true ∧
    does (tk (ab one 0 0) []) (.refire 0xC1) (pcIs 1) = true ∧ faults (tk (ab one 1 0) []) (.refire 0xC1) 4 1 = true ∧ does (tk (ab one 0 0) []) (.taskq 0xC2 0xC1 0) (pcIs 1) = true ∧
    faults (tk (ab one 1 0) []) (.taskq 0xC2 0xC1 0) 4 1 = true ∧ does (tk one [tile]) (.dispq 0xC2 0) (fun t => sca 2 t == 1) = true ∧
    does (tk one []) (.dispq 0xC2 2) (fun t => sca 2 t == 0xFFFFFFFF) = true ∧ ({ task with done := true } : Task).refire.fires = 1 ∧ ({ task with given := true } : Task).refire.pend = some 0 ∧
    (let r : Report := { id := 3, team := 0, tile := tile, hgen := 0, mask := 0, after := [] }
     ev (la (tk one []) fun l => { l with reports := [r], tasks := [{ task with fired := true, left := 1 }] }) { launch := 0, id := 3 } .taskendReport
       (fun t => (t.launch 0).tasks.all (·.done) && (t.launch 0).reports == []) &&
      ev (la (tk { one with ops := [{ id := 9, party := .team 0, kind := .load }] } []) fun l => { l with reports := [{ r with after := [9] }] }) { launch := 0, id := 3 } .taskendReport
       (fun t => (t.launch 0).reports.length == 1)) = true := by decide +kernel

/-! ### The Wide Multipliers (GuardAndPack to StreamsAndStatus) -/

def cfg (s : State) : State := tm s fun x => { x with wm := { x.wm with cfg := some { w := 32, cL := 16, cS := 16, lo := 0, cnt := 64, base := 0, fr := 0 } } }
def ones (s : State) : State := setV (setV (cfg s) 10 fun k => if k == 0 then 2 else 0) 11 fun k => if k == 0 then 3 else 0
def dig (n : Nat) (t : State) : Int := digit 32 (t.acc 0 0) n
def binary (s : State) : State := s.putAcc 0 0 0 true
def stm (s : State) (filled : Nat) : State :=
  tm (ha s fun h => { h with streams := h.streams.set 2 (some { base := 256, rows := 4, win := 2, fill := 0x1000, free := 0x1010, filled := filled, freed := 0 }) })
    fun x => { x with wm := { x.wm with sub := some (2, 0) } }

theorem test_wit_guard : Lanes one 0 ∧ ¬ Lanes (guardOff one) 0 ∧ isWm .rls = true ∧ does (guardOff one) (.wmul 0xF0 10 11) (pcIs 1) = true ∧
    does (ab one 0x101020 0xFC00) (.guard 0xC1 0xC2) (fun t => (t.team 0).wm.cfg.isSome) = true ∧ illegalHere (ab one 0x8101020 0x10000) (.guard 0xC1 0xC2) = true ∧
    illegalHere (ab one 0x1101020 0xFC00) (.guard 0xC1 0xC2) = true ∧ illegalHere (ab one 0x101020 0x40000000) (.guard 0xC1 0xC2) = true ∧
    faults (ab one 0x111020 0xFC00) (.guard 0xC1 0xC2) 0x1A 0 = true ∧ faults (ab one 0x101020 0) (.guard 0xC1 0xC2) 0x1A 0 = true ∧
    does (ab one 0x101020 0x1FC00) (.guard 0xC1 0xC2) (pcIs 1) = true ∧ faults (ab one 0x101020 0x20000) (.guard 0xC1 0xC2) 0x1A 0 = true := by unfold Lanes; decide +kernel
theorem test_wit_pack : let s := setV (cfg one) 5 fun k => if k == 1 then 0xFFFF8000 else 0x7FFF;
    does s (.pack 10 5) (fun t => vec 10 1 t == 0xFFFF8000 && vec 10 0 t == 0x7FFF) = true ∧ faults (setV s 5 fun k => if k == 1 then 0x8000 else 0) (.pack 10 5) 0x19 1 = true ∧
    does s (.packr 10 5) (fun t => vec 10 31 t == 0) = true ∧ faults one (.pack 10 5) 0x1A 0 = true ∧ does (ab s 2 0) (.packs 10 5 0xC1) (fun t => vec 10 2 t == 0xFFFF8000) = true ∧
    illegalHere (ab s 0 0) (.packs 10 5 0xC1) = true ∧ illegalHere (ab s 256 0) (.packs 10 5 0xC1) = true ∧ does (ab s 255 0) (.packs 10 5 0xC1) (pcIs 1) = true ∧
    does (setV (ab s 0xFF01 0) 5 fun _ => 0x00000002) (.packq 10 5 0xC1) (fun t => vec 10 0 t == 0xFFFFFFB3) = true ∧
    does (ab s 0 0) (.packq 10 5 0xC1) (fun t => vec 10 0 t == 0 && (t.team 0).wm.skips == 1) = true ∧ illegalHere (ab s 0x40000000 0) (.packq 10 5 0xC1) = true ∧
    illegalHere (ab s 0x01000000 0) (.packq 10 5 0xC1) = true ∧ does (setV (ab s 4 0) 5 fun _ => 0x04030201) (.packa 10 5 0xC1) (fun t => vec 10 3 t == 4) = true ∧
    illegalHere (ab s 65 0) (.packa 10 5 0xC1) = true ∧ illegalHere (ab s 0x01000000 0) (.packa 10 5 0xC1) = true ∧ illegalHere (ab s 0xFF0002 0) (.packa 10 5 0xC1) = true ∧
    faults one (.packa 10 5 0xC1) 0x1A 0 = true := by decide +kernel
theorem test_wit_wide_products : ({ w := 32, cL := 16, cS := 16, lo := 0, cnt := 64, base := 0, fr := 0 } : WmConfig).valid = true ∧ prodSum 2 [2, 3] [5, 7] 1 = 29 ∧
    product 2 [2, 3] [5, 7] 1 = 29 ∧ ¬ FitsBits 8 128 ∧ FitsBits 8 (-128) := by unfold FitsBits; decide
theorem test_wit_wide_multiply : let s := ones one;
    does s (.wmul 0xF0 10 11) (fun t => dig 0 t == 6 && (t.team 0).deps.m == 1) = true ∧ faults (ab one 0 0) (.wmul 0xF0 10 11) 0x1A 0 = true ∧ illegalHere (binary s) (.wmul 0xF0 10 11) = true ∧
    illegalHere s (.wmul 0xF0 10 0xED) = true ∧ waitsHere (stm s 0) (.wmul 0xF0 10 0xED) = true ∧ does (stm s 1) (.wmulk 0xF0 10 0xED) (fun t => (t.team 0).wm.latch.isSome) = true ∧
    faults (s.putAcc 0 0 0x7FFFFFFF false) (.wmul 0xF0 10 11) 0x18 0 = true ∧
    does (tm s fun x => { x with regs := { x.regs with skip := 1 <<< 10 } }) (.wmul 0xF0 10 11) (fun t => dig 0 t == 0) = true ∧
    does s .rls (fun t => (t.team 0).wm.latch.isNone) = true ∧ PartPlaced s 0 ∧
    nx s (.wmul 0xF0 10 11) (fun t => ev t { id := 0 } .wmOperationComplete fun u => (u.team 0).deps.m == 0 && u.ops == []) = true := by unfold PartPlaced; decide +kernel
theorem test_wit_gang_multiply : let g := fun (s : State) => tm (la (two (ones s) fun x => { x with ctl := { x.ctl with gang := 0x800 } }) fun l =>
        { l with roles := l.roles.map fun r => { r with teams := 2 } }) fun x => { x with ctl := { x.ctl with gang := 0x800 } };
    waitsHere (g one) (.wmulg 0xF0 10 11) = true ∧ faults (ones one) (.wmulg 0xF0 10 11) 0x1B 0 = true ∧
    faults (tm (g one) fun x => { x with wm := {} }) (.wmulg 0xF0 10 11) 0x1A 0 = true ∧ illegalHere (binary (g one)) (.wmulg 0xF0 10 11) = true ∧
    nx (g one) (.wmulg 0xF0 10 11) (fun t => nx { t with cur := .team 1 } (.wmulg 0xF0 10 11) fun u => dig 0 u == 6 && digit 32 (u.acc 1 0) 0 == 6) = true ∧
    illegalHere (g one) (.wmulg 0xF0 10 0xED) = true ∧ waitsHere (stm (g one) 0) (.wmulg 0xF0 10 0xED) = true ∧ ((g one).team 0).wm.sub = none ∧
    nx ((g one).putAcc 0 0 0x7FFFFFFF false) (.wmulg 0xF0 10 11) (fun t => nx { t with cur := .team 1 } (.wmulg 0xF0 10 11) fun u =>
      (u.team 0).ctl.tcause == 0x18 && digit 32 (u.acc 1 0) 0 == 6 && (u.team 1).deps.m == 1) = true ∧ PartPlaced (g one) 0 ∧ PartPlaced (g one) 1 ∧
    sparseWf 0 (((g one).harnessOf 0).parts.getD 1 {}).acc = true ∧ (memberParts (.wmulg 0xF0 10 11) 0 { w := 32, cL := 16, cS := 16, lo := 0, cnt := 64, base := 0, fr := 0 } 0 (0, true) one []).2 = [] ∧ (g one).goesOn 0 ∧ (g one).goesOn 1 ∧
    nx (path (g one) fun p => { p with pc := 1023 }) (.wmulg 0xF0 10 11) (fun t => (t.team 0).ctl.tcause == 4 && ((t.harness 0).gangs == [])) = true ∧
    nx (g one) (.wmulg 0xF0 10 11) (fun t => nx { t with cur := .team 1 } (.wmulgk 0xF0 10 11) fun u => (u.team 1).ctl.tcause == 0x1B) = true := by
  unfold PartPlaced State.goesOn; decide +kernel
theorem test_wit_digits : let s := (ones one).putAcc 0 0 0xFFFFFFFF00000002 false;
    does s (.extr 4 0xF0) (fun t => vec 4 0 t == 2 && vec 4 1 t == 0xFFFFFFFF) = true ∧ does s (.norm 0xF0) (fun t => t.form 0 0 && (t.acc 0 0).extractLsb' 32 32 == 0xFFFFFFFF) = true ∧
    does (setV (ety 6 |> fun e => (ones e).putAcc 0 0 2 false) 5 fun _ => 0x3F800000) (.extsF32 4 0xF0 5) (pcIs 1) = true ∧ illegalHere (binary s) (.extr 4 0xF0) = true ∧
    does (binary s) (.norm 0xF0) (pcIs 1) = true ∧ faults one (.extr 4 0xF0) 0x1A 0 = true ∧ does s (.aclr 0xF0) (fun t => t.acc 0 0 == 0) = true ∧
    does (ab s 64 0) (.accst 0xF0 0xC1) (acted fun t => memS 64 t == 2 && memS 68 t == 0xFFFFFFFF) = true ∧ does (ab s 0x17FE00 0) (.accld 0xF0 0xC1 1) (acted fun t => t.form 0 0) = true ∧
    faults (ab s 32 0) (.accst 0xF0 0xC1) 3 32 = true ∧ faults (ab s 0x17FE40 0) (.accst 0xF0 0xC1) 4 0x17FE40 = true ∧ faults (lock (ab s 0 0) 511 512 false none) (.accst 0xF0 0xC1) 5 0 = true ∧
    does (lock (ab s 0 0) 511 512 false none) (.accld 0xF0 0xC1 0) (pcIs 1) = true ∧ faults (lock (ab s 0 0) 511 512 true none) (.accld 0xF0 0xC1 0) 5 0 = true ∧
    faults (slot (ab s 0 0) 496 1) (.accst 0xF0 0xC1) 6 0 = true := by decide +kernel
theorem test_wit_streams : let d := fun (s : State) (b rw fi fr : Word) => setM (setS s [(1, 512)]) 512 [b, rw, fi, fr];
    does (d one 256 0x00020004 0x1000 0x1010) (.strm 2 0xC1) (fun t => ((t.harness 0).streams.getD 2 none).isSome) = true ∧ faults (ab one 8 0) (.strm 2 0xC1) 3 8 = true ∧
    faults (ab one 0x180000 0) (.strm 2 0xC1) 4 0x180000 = true ∧ faults (d one 128 0x00010001 0 16) (.strm 2 0xC1) 3 128 = true ∧ faults (d one 0x17FF00 0x00010002 0 16) (.strm 2 0xC1) 4 0x17FF00 = true ∧
    illegalHere (d one 0 0x00020001 0 16) (.strm 2 0xC1) = true ∧ illegalHere (d one 0 0 0 16) (.strm 2 0xC1) = true ∧ illegalHere (d (stm one 0) 256 0x00010001 0x1000 0x1010) (.strm 2 0xC1) = true ∧
    does (tm (stm one 0) fun x => { x with wm := {} }) (.subs 2) (fun t => (t.team 0).wm.sub == some (2, 0)) = true ∧ illegalHere one (.subs 2) = true ∧ illegalHere (stm one 0) (.subs 2) = true ∧
    does one .unsubs (pcIs 1) = true ∧ does (stm one 0) .unsubs (fun t => (t.team 0).wm.sub == none) = true ∧ does one (.skipq 0xC2 1) (fun t => sca 2 t == 0) = true ∧
    does (tm (ones one) fun x => { x with wm := { x.wm with ovf := true } }) (.wstat 0xC2 0xF0) (fun t => sca 2 t == 0x60000 && !(t.team 0).wm.ovf) = true := by decide +kernel

/-! ### Hosts, queues, events (QueueControl to RemoteAccesses) -/

/-- The physical function's queue 0 with one packet of SEQ 5 at hand, the launch its own; the event starts it. -/
def pq (ws : List (Nat × Word)) : Packet := { seq := 5, words := (ws.foldl (fun l e => l.set e.1 e.2) (List.replicate 64 0)) }
def pk (s : State) (ws : List (Nat × Word)) : State :=
  { (mp (la s fun l => { l with f := 64 })).putQueue 64 0 { state := 1, logn := 6, nextseq := 5, taken := some (pq ws) } with ev := { f := 64, q := 0, seq := 5 } }
def qOf (t : State) : Queue := t.queue 64 0
def pdone (s : State) (i : Instr) (f : State → Bool) : Bool := nx s i fun t => (qOf t).accepted.all (·.done) && (qOf t).accepted.length == 1 && f t
def pwaits (s : State) (i : Instr) : Bool := nx s i fun t => (qOf t).accepted.all (fun p => !p.done) && (qOf t).accepted.length == 1
/-- The last message of the physical function: a packet error of this code. -/
def code (t : State) : Nat := ((sget 0 (t.func 64).evlog ((t.func 64).evtNum.toNat - 1)).extractLsb' 128 32).toNat
def pfails (s : State) (i : Instr) (c : Nat) : Bool := nx s i fun t => (qOf t).accepted == [] && (qOf t).state == 3 && code t == c
/-- With a program bound to the queue for QFENCE. -/
def qp (s : State) (ws : List Word) : State := s.putQueue 64 0 { s.queue 64 0 with prog := ws, progMask := 0x100 }
/-- Queue 0 of the physical function, alone; the event acts on it. -/
def qs (x : Queue) : State := { one.putQueue 64 0 x with ev := { f := 64, q := 0 } }
/-- Words in HBM, where virtual 0 to FFFFH lie. -/
def setH (s : State) (a : Nat) (l : List Word) : State := { s with hbm := memStore s.hbm a (l.flatMap fun w => leBytes 4 w.toNat) }

theorem test_wit_queue_control : let n := fun (x : Queue) (v : Nat) => { qs x with ev := { f := 64, v := BitVec.ofNat 64 (v * 2 ^ 32) } };
    nx (n { state := 1, logn := 6 } 64) .notify (fun t => (qOf t).notified == 64 && (qOf t).state == 1) = true ∧ nx (n { state := 1, logn := 6 } 65) .notify (fun t => (qOf t).state == 3) = true ∧
    nx (n { state := 1, logn := 6, notified := 3 } 3) .notify (fun t => (qOf t).notified == 3) = true ∧ nx (n { state := 2, logn := 6, notified := 0xFFFFFFFF } 0x7FFFFFFF) .notify (fun t => (qOf t).notified == 0x7FFFFFFF) = true ∧
    nx (n { state := 2, logn := 6, notified := 0xFFFFFFFF } 0x80000000) .notify (fun t => (qOf t).notified == 0xFFFFFFFF) = true ∧ nx (n { state := 4 } 1) .notify (fun t => (qOf t).notified == 0) = true ∧
    nx (qs { logn := 6, nextseq := 9 }) .queueCreate (fun t => (qOf t).state == 1 && (qOf t).lastcomp == 8) = true ∧ nx (qs { logn := 5 }) .queueCreate (fun t => (qOf t).state == 0 && code t == 2) = true ∧
    nx (qs { logn := 17 }) .queueCreate (fun t => code t == 2) = true ∧ nx (qs { logn := 16, ringoff := 0x3C00000 }) .queueCreate (fun t => (qOf t).state == 1) = true ∧
    nx (qs { logn := 16, ringoff := 0x3C01000 }) .queueCreate (fun t => code t == 3) = true ∧ nx (qs { logn := 6, ringoff := 64 }) .queueCreate (fun t => code t == 3) = true ∧
    nx (qs { state := 3 }) .queueCreate (fun t => (qOf t).state == 3) = true ∧ nx (qs { state := 4 }) .queueDestroy (fun t => (qOf t).state == 0) = true ∧ nx (qs { state := 1 }) .queueDestroy (fun t => (qOf t).state == 0) = true ∧
    nx (qs { state := 1, accepted := [pq []] }) .queueDestroy (fun t => (qOf t).state == 5) = true ∧ nx (qs { state := 5 }) .queueDestroy (fun t => (qOf t).state == 5) = true ∧
    nx (qs { state := 2, logn := 6 }) .queueResume (fun t => (qOf t).state == 1) = true ∧ nx (qs { state := 3, logn := 6, notified := 65 }) .queueResume (fun t => (qOf t).state == 3) = true ∧
    nx (qs { state := 1 }) .queueResume (fun t => (qOf t).state == 1) = true := by decide +kernel
theorem test_wit_register_fields : let w := fun (s : State) (o v : Nat) => { s with ev := { f := 64, off := o, bytes := leBytes 8 v } };
    nx (w (qs {}) 0 0x1000_0010_0000) .registerWrite (fun t => (qOf t).logn == 16 && (qOf t).ringoff == 0x1000) = true ∧ nx (w (qs { state := 1 }) 0 0x1000_0010_0000) .registerWrite (fun t => (qOf t).logn == 0) = true ∧
    nx (w (qs {}) 16 0x7_0000_0000) .registerWrite (fun t => (qOf t).nextseq == 7) = true ∧ nx (w one 0x20020 9) .registerWrite (fun t => (t.func 64).dbgdata == 9) = true ∧
    nx (w one 0x20058 9) .registerWrite (fun t => (t.func 64).nonce == 9 <<< 192) = true ∧ nx (w one 0x307E0 0x3FFFF) .registerWrite (fun t => (t.func 63).root == 0x20000) = true ∧
    nx (w one 0x307E8 0x100) .registerWrite (fun t => (t.func 63).ccnt == 256) = true ∧ nx (w one 0x307F0 0x3F) .registerWrite (fun t => (t.func 63).evtaddr == 0x20) = true ∧
    nx (w (share one) 0x30008 0x100) .registerWrite (fun t => (t.func 0).ccnt == 0) = true := by decide +kernel
theorem test_wit_packet_reading : let u := fun (x : Queue) (l : List Word) => (qs { x with state := 1, logn := 6 }).putFunc 64 { (qs { x with state := 1, logn := 6 }).func 64 with qmem := memStore [] 0 (l.flatMap fun w => leBytes 4 w.toNat) };
    nx (u { notified := 1, nextseq := 9 } [0x109, 9]) .packetAccept (fun t => (qOf t).taken.isSome && (qOf t).rdidx == 0 && ev t { f := 64, q := 0, seq := 9 } .qfence fun v =>
      (qOf v).accepted.length == 1 && (qOf v).rdidx == 1 && (qOf v).lastacc == 9 && memWord (v.func 64).qmem 0 == 9) = true ∧
    nx (u { notified := 1, nextseq := 9 } [9, 9]) .packetPoll (fun t => (qOf t).rdidx == 0) = true ∧ nx (u { nextseq := 9 } [0x109, 9]) .packetAccept (fun t => (qOf t).rdidx == 0) = true ∧
    nx (u { notified := 1, nextseq := 8 } [0x109, 9]) .packetAccept (fun t => (qOf t).state == 2 && code t == 8) = true ∧ nx (u { notified := 1, nextseq := 10 } [0x109, 9]) .packetAccept (fun t => (qOf t).accepted == [] && (qOf t).rdidx == 1) = true ∧
    nx (u { notified := 1, nextseq := 9 } [0x100, 9]) .packetAccept (fun t => code t == 1) = true ∧ nx (u { notified := 1, nextseq := 9 } [0x10D, 9]) .packetAccept (fun t => code t == 1) = true ∧
    pfails (pk one [(0, 9), (4, 1)]) .qfence 2 = true ∧ pfails (pk one [(0, 9), (2, 4)]) .qfence 3 = true ∧
    pfails (qp (pk one [(0, 9)]) [0x0F000003]) .qfence 3 = true ∧ pdone (qp (pk one [(0, 9)]) [0x0E000000]) .qfence (fun _ => true) = true ∧
    pfails (qp (pk one [(0, 9), (2, 4)]) [0x0E000000]) .qfence 3 = true ∧ pfails (qp (pk one [(0, 9), (3, 0x01000000)]) [0x0E000000]) .qfence 3 = true ∧
    pfails (pk one [(0, 9), (3, 0x01000000)]) .qfence 3 = true ∧ startsFor (pk one [(0, 9)]) 64 0 5 9 = some (pq [(0, 9)]) ∧ isReady (pk one [(0, 9)]) 64 0 = true ∧
    mayStart [pq [(0, 2)]] (pq [(0, 9)]) = false ∧ mayStart [{ pq [(0, 2)] with orphan := true }] (pq [(0, 9)]) = true ∧ packetCheck (pq [(0, 4), (8, 3)]) = 2 ∧
    nx (u { notified := 1, nextseq := 9, accepted := [pq [(0, 2)]] } [0x100, 9]) .packetAccept (fun t => (qOf t).state == 3) = true ∧
    nx (u { notified := 1, nextseq := 9, accepted := [{ pq [(0, 8)] with started := true }] } [0x309, 9]) .packetAccept (fun t =>
      (qOf t).accepted.length == 2 && (qOf t).rdidx == 1 && (qOf t).lastacc == 9 && (qOf t).held.isSome) = true ∧
    nx { qs { state := 1, accepted := [pq [(0, 9)]] } with ev := { f := 64, q := 0, seq := 5 } } .qfence (fun t => (qOf t).accepted.all (·.done)) = true ∧
    nx { qs { state := 3, accepted := [{ pq [(0, 9)] with done := true }] } with ev := { f := 64, q := 0, seq := 5 } } .qfence (fun t =>
      (qOf t).accepted.all (·.started)) = true ∧
    nx (u { notified := 3, nextseq := 9 } [0x102, 9, 0, 0, 1]) .packetAccept (fun t => (qOf t).rdidx == 0) = true ∧ nx (u { notified := 4, nextseq := 9 } [0x102, 9, 0, 0, 1]) .packetAccept (fun t => (qOf t).taken.isSome) = true := by decide +kernel
theorem test_wit_packet_actions : let s := fun (l : List (Nat × Word)) => setH (pk one l) 8 [5, 0];
    pdone (s [(0, 4), (4, 8), (6, 7)]) .signal (fun t => memWord t.hbm 8 == 7) = true ∧ pdone (s [(0, 4), (4, 8), (6, 7), (8, 2)]) .signal (fun t => memWord t.hbm 8 == 0xFFFFFFFE) = true ∧
    pdone (s [(0, 4), (4, 8), (6, 7), (8, 1)]) .signal (fun t => memWord t.hbm 8 == 12) = true ∧ pfails (s [(0, 4), (4, 0x40000)]) .signal 3 = true ∧
    pdone (s [(0, 2), (4, 1), (16, 8), (18, 5)]) .waitall (fun _ => true) = true ∧ pwaits (s [(0, 2), (4, 2), (16, 8), (18, 5), (20, 8), (22, 6)]) .waitall = true ∧
    pdone (s [(0, 3), (4, 2), (16, 8), (18, 5), (20, 8), (22, 6)]) .waitany (fun _ => true) = true ∧ pwaits (s [(0, 3), (4, 1), (16, 8), (18, 6)]) .waitany = true ∧ pfails (s [(0, 3), (4, 1), (16, 0x40000)]) .waitany 3 = true ∧
    nx (s [(0, 3), (4, 1), (16, 8), (18, 6)]) .waitany (fun t => pdone (setH t 8 [6, 0]) .waitEvaluation fun _ => true) = true ∧
    pdone (s [(0, 5), (4, 65535), (6, 9)]) .mbox (fun t => mboxTail t 64 65535 == 1) = true ∧ pwaits (let t := s [(0, 5), (4, 0)]; t.putFunc 64 { t.func 64 with mbox := memStore [] 4 [7] }) .mbox = true ∧
    pdone (s [(0, 7), (12, 3)]) .cancel (fun t => (t.launch 0).cancelled == [3]) = true ∧ pfails (s [(0, 7), (11, 1)]) .cancel 2 = true ∧ pdone (la (s [(0, 7), (12, 3)]) fun l => { l with cancelled := [3] }) .cancel (fun t => (t.launch 0).cancelled == [3]) = true ∧
    pdone (s [(0, 8), (4, 8), (6, 0xFFFC), (8, 4)]) .copy (fun t => memWord t.hbm 0xFFFC == 5) = true ∧ pfails (s [(0, 8), (4, 8), (6, 0x1FFFC), (8, 4)]) .copy 3 = true ∧ pfails (s [(0, 8), (4, 0x40000), (8, 4)]) .copy 3 = true ∧
    pdone (s [(0, 9)]) .qfence (fun _ => true) = true ∧ pdone (s [(0, 12)]) .qprog (fun t => (qOf t).prog == []) = true ∧
    pdone (let t := s [(0, 12), (6, 1), (7, 0xFFF)]; t.putFunc 64 { t.func 64 with qmem := memStore [] 0 [0, 0, 0, 0x0D] }) .qprog (fun t => (qOf t).prog == [0x0D000000] && (qOf t).progMask == 0xFFF) = true ∧
    pfails (s [(0, 12), (6, 1)]) .qprog 6 = true ∧ pfails (s [(0, 12), (4, 2), (6, 1)]) .qprog 3 = true ∧ pfails (s [(0, 12), (4, 0x3FFFFFC), (6, 2)]) .qprog 3 = true ∧
    pdone (s [(0, 11), (4, 8), (6, 5)]) .eventreq (fun t => (t.func 64).evreqs == [⟨8, 0, 5⟩]) = true ∧ pfails (s [(0, 11), (4, 0x40000)]) .eventreq 3 = true ∧
    pfails (let t := s [(0, 11), (4, 8)]; t.putFunc 64 { t.func 64 with evreqs := List.replicate 256 ⟨8, 0, 5⟩ }) .eventreq 6 = true := by decide +kernel

/-- A launch record of one role and one core, its code in the page of the records. -/
def launchRec (version cores : Word) : List Word :=
  [0x000F0100 + version, cores, 0x1000, 0, 4, 0, 0, 0, 0, 0, 0, 0, 0, 0, 0, 0, 0, 0, 0x00010101, 0, 0, 0, 0, 0] ++ List.replicate 24 0 ++
    (List.replicate 8 [0x8000, 0]).flatten
def lr (v c : Word) : State := let t := setH (pk one [(0, 1)]) 0 (launchRec v c); t.putFunc 64 { t.func 64 with ccnt := 1 }

theorem test_wit_launch : pdone (lr 1 1) .launch (fun t => t.launches.length == 2 && t.teams.length == 2 && t.harnesses.length == 2 && ((t.team 1).path.mask == lanesMask 1)) = true ∧
    pfails (lr 2 1) .launch 1 = true ∧ pfails (lr 1 257) .launch 2 = true ∧ pfails (lr 1 2) .launch 0x0A = true ∧ pfails (pk one [(0, 1), (4, 0x40000)]) .launch 9 = true ∧
    pfails (setH (lr 1 1) 8 [0x40000]) .launch 9 = true ∧ (placement (lr 1 1) 64 1 [{}]).isSome = true := by decide +kernel
theorem test_wit_host_gput : let s := fun (l : List (Nat × Word)) => setH (pk one ([(0, 6), (8, 1), (9, 3)] ++ l)) 0 [77];
    pdone (s []) .gputPacket (fun t => memWord t.hbm 65536 == 77 && sget 0 (t.func 64).tags 256 == 3) = true ∧ pfails (s [(7, 4)]) .gputPacket 2 = true ∧ pfails (s [(11, 1)]) .gputPacket 2 = true ∧
    pfails (s [(4, 0x40000)]) .gputPacket 3 = true ∧ (let t := { s [] with graded := [flight] }; cellsTaken t 64 (pq [(0, 6), (8, 1), (9, 3)]) && !isReady t 64 0 && !waitsForCells t 64 0 (pq [(0, 9)]) && isReady (s []) 64 0) = true ∧ pdone (s [(7, 3)]) .gputPacket (fun _ => true) = true ∧
    pfails (let t := s []; t.putFunc 64 { t.func 64 with tags := [(256, 3)] }) .gputPacket 6 = true ∧ pfails (la (s []) fun l => { l with regions := [{ base := 0, cells := 1, clr := false }] }) .gputPacket 3 = true := by decide +kernel
theorem test_wit_completions : let x : Queue := { state := 1, logn := 6, lastcomp := 4, accepted := [{ pq [(0, 0x409)] with done := true, started := true }] };
    nx { qs x with ev := { f := 64, q := 0, seq := 5 } } .packetCompletion (fun t => (qOf t).lastcomp == 5 && (qOf t).accepted == [] && (t.func 64).evtNum == 1) = true ∧
    nx { qs { x with lastcomp := 3 } with ev := { f := 64, q := 0, seq := 5 } } .packetCompletion (fun t => (qOf t).lastcomp == 3 && (qOf t).finished == [5]) = true ∧
    (let s := setH ((pk one []).putFunc 64 { (pk one []).func 64 with evreqs := [⟨8, 0, 5⟩] }) 8 [5, 0]
     nx { s with ev := { f := 64, n := 0 } } .eventreqConditionHolds (fun t => (t.func 64).evreqs == [] && (t.func 64).evtNum == 1) &&
      nx { setH s 8 [6, 0] with ev := { f := 64, n := 0 } } .eventreqConditionHolds fun t => (t.func 64).evreqs.length == 1) = true ∧
    nx { qs x with ev := { n := 0, pairs := [(64, 0)] } } .queueProcessorLost (fun t => (qOf t).state == 4 && t.lostProcs == [0]) = true ∧ homeOf (qs x) 64 0 = some 0 := by decide +kernel
theorem test_wit_graph_operations : let s := fun (op : Word) (l : List (Nat × Word)) (r : List Word) => setH (pk one ([(0, 10), (4, op)] ++ l)) 0 r;
    let t : List Word := [0x00010005, 0x00010001, 1, 0];
    pdone (la (s 1 [] t) fun l => { l with tasks := [task] }) .graphopSetPriority (fun t => ((t.launch 0).tasks.map (·.tpri)) == [5]) = true ∧ pfails (s 1 [] t) .graphopSetPriority 6 = true ∧
    pfails (s 1 [(11, 1)] t) .graphopSetPriority 2 = true ∧ pfails (s 1 [(6, 0x40000)] t) .graphopSetPriority 3 = true ∧ pdone (s 2 [] t) .graphopAppendTask (fun t => (t.launch 0).tasks.length == 1) = true ∧
    pfails (s 2 [] [0x00020005, 0x00010001, 1, 0]) .graphopAppendTask 6 = true ∧ pdone (la (s 3 [] []) fun l => { l with tasks := [task] }) .graphopRemoveTask (fun t => (t.launch 0).tasks.all (·.removed)) = true ∧
    pfails (la (s 3 [] []) fun l => { l with tasks := [{ task with ever := true }] }) .graphopRemoveTask 6 = true ∧ pfails (s 3 [] []) .graphopRemoveTask 6 = true ∧
    pdone (s 4 [] [0, 0, 1, 1]) .graphopDefinePool (fun t => (t.launch 0).pool.isSome) = true ∧ pfails (s 4 [] [0, 0, 1, 2]) .graphopDefinePool 6 = true ∧ pfails (s 4 [] [0, 0, 0, 0]) .graphopDefinePool 6 = true ∧
    pdone (s 5 [] [256, 0, 8, 0, 16, 0, 9, 0x00070003]) .graphopBindEgress (fun t => (t.launch 0).egress.length == 1) = true ∧ pfails (s 5 [] [128, 0, 8, 0, 16, 0, 9, 0x00070003]) .graphopBindEgress 6 = true ∧
    pdone (s 6 [] [0x1000, 0x10A, 0, 0]) .graphopBindServiceRing (fun t => (t.launch 0).rings.length == 1) = true ∧ pfails (s 6 [] [0x1000, 0x109, 0, 0]) .graphopBindServiceRing 6 = true ∧ pfails (s 6 [] [0x1000, 0x00A, 0, 0]) .graphopBindServiceRing 6 = true ∧
    pdone (s 7 [] [0x1000, 0x00080008, 0, 0]) .graphopBindTraceRing (fun t => (t.launch 0).trace.isSome) = true ∧ pfails (s 7 [] [0x1000, 0x00070008, 0, 0]) .graphopBindTraceRing 6 = true ∧
    pfails (trc (s 7 [] [0x1000, 0x00080008, 0, 0])) .graphopBindTraceRing 6 = true := by decide +kernel
theorem test_wit_remote : let s := fun (o : Nat) (b : List Byte) => { pk one [] with ev := { f := 64, off := o, bytes := b, n := 8, v := 3 } };
    let bad := fun (t : State) => match t.outbox with | [.transportError _ _] => true | _ => false;
    let ok := fun (t : State) => t.outbox.length == 1 && !bad t;
    answers one 63 = false ∧ ev one { f := 63, off := 0x20000, n := 8 } .remoteRead bad = true ∧ nx (s 0x100000 [1]) .remoteWrite bad = true ∧ nx (s 0x10000 [1]) .remoteWrite bad = true ∧ nx (s 0x1000004 []) .remoteAtomicAdd bad = true ∧
    nx (s 0x100000008 [9]) .remoteWrite (fun t => ok t && memWord t.hbm 8 == 9) = true ∧ nx (s 0x100040000 [9]) .remoteWrite bad = true ∧ nx (s 0x100000008 []) .remoteRead ok = true ∧ nx (s 0x100040000 []) .remoteRead bad = true ∧
    nx (s 0x100000008 []) .remoteAtomicAdd (fun t => ok t && memWord t.hbm 8 == 3) = true ∧ nx (s 0x1000000 [7]) .remoteWrite (fun t => ok t && memWord (t.func 64).qmem 0 == 7) = true ∧ nx (s 0x4FFFFF8 []) .remoteRead ok = true ∧
    nx (s 0x1000008 []) .remoteAtomicAdd (fun t => ok t && memWord (t.func 64).qmem 8 == 3) = true ∧ nx (s 0x20000 (leBytes 8 0x100000000)) .remoteWrite (fun t => ok t && (qOf t).notified == 1) = true ∧
    (s 0 []).wf = true := by decide +kernel

/-! ### Replies, the debugger, functions, sets, residence, power (RepliesAndInvalidations to MemoryErrors) -/

def rec1 (t : List (Nat × Nat)) (k : List (Nat × Nat)) : FaultRec := { fid := 1, f := 0, page := 4, addr := 0x40000, cause := 0x10, write := false, teams := t, shuttles := k }
def flt (t : List (Nat × Nat)) (k : List (Nat × Nat)) : State := { ctl (mp (share one)) fun c => { c with pflt := 0x110 } with faults := [rec1 t k], ev := { f := 0, id := 1 } }
def k0 (s : State) (f : Core → Core) : State := s.putCore 0 (f (s.core 0))
def p0 (s : State) (f : CPart → CPart) : State := s.putPart 0 0 (f (s.part 0 0))

theorem test_wit_replies : nx (flt [(0, 0x40000)] []) .replyServed (fun t => t.faults == [] && (t.team 0).ctl.pflt == 0x10) = true ∧ nx (flt [(0, 0x40000)] []) .replyRefused (fun t => (t.team 0).ctl.tcause == 0x10) = true ∧
    nx (flt [] [(0, 0)]) .replyRefused (fun t => (t.shuttle 0 0).state == 3) = true ∧ ev (flt [] []) { f := 0, id := 2 } .replyServed (fun t => t.faults.length == 1) = true ∧
    ev (mp (share one)) { f := 0, n := 0, off := 0 } .invalidatePage (fun t => t.ioTlb.length == 3 && (t.func 0).invals == [[]]) = true ∧ ev (mp (share one)) { f := 0, n := 0, off := 3 } .invalidatePage (fun t => t.ioTlb.length == 4) = true ∧
    ev (mp (share one)) { f := 0 } .invalidateFunction (fun t => t.ioTlb == [] && ev t { f := 0 } .invalidationComplete fun u => (u.func 0).invseq == 1) = true ∧
    ev (fu one fun f => { f with invals := [[3]] }) { f := 0 } .invalidationComplete (fun t => (t.func 0).invseq == 0) = true := by decide +kernel
theorem test_wit_calls_end : let s := tm (ring one) fun x => { x with place := .parked, svc := [(0, 3)], svcOn := 3, ctl := { x.ctl with parked := true } };
    let s := fu s fun f => { f with qmem := memStore f.qmem 4160 [0, 0, 0, 0x80] };
    callDone s 0 = true ∧ ev s { f := 0, n := 3 } .doorbell (fun t => (t.team 0).svcFound && (t.team 0).place == .parked && acted (fun u => (u.team 0).place == .pending && !(u.team 0).ctl.parked) t) = true ∧
    ev s { f := 1 } .serviceRingCheck (fun t => !(t.team 0).svcFound) = true ∧ (runLate s { key := 0, id := 9, party := .none, path := 0, issued := 0, ask := some (.resume 0) }).late = [] ∧ callDone (ring one) 0 = false := by decide +kernel
theorem test_wit_debug : let d := fun (s : State) (i : Instr) (f : State → Bool) => ev s { f := 0, cid := 0, role := 0, tid := 0, path := 0, opnd := 0xC1, lane := 0 } i f;
    let h := tm one fun x => { x with ctl := { x.ctl with halted := true } };
    let two := fu h fun f => { f with dbgdata := 9 };
    debugTeam one = some 0 ∧ debugTeam { one with ev := { tid := 1 } } = none ∧ d one .debugHalt (fun t => (t.team 0).due.halt && ev t { team := 0 } .debugHaltTaken fun u => (u.team 0).ctl.halted) = true ∧
    d h .debugResume (fun t => !(t.team 0).ctl.halted) = true ∧ d one .debugResume (fun t => !(t.team 0).ctl.halted) = true ∧
    d (tm h fun x => { x with due := { x.due with entry := true } }) .debugResume (fun t => (t.team 0).ctl.inh && pcIs 16 t) = true ∧
    d h .debugStepPath (fun t => (t.team 0).due.one == some 0 && !(t.team 0).ctl.halted) = true ∧ d one .debugStepPath (fun t => (t.team 0).due.one == none) = true ∧
    d one .debugHoldPath (fun t => (t.team 0).path.held && d t .debugReleasePath fun u => !(u.team 0).path.held) = true ∧
    d (setS h [(1, 7)]) .debugRead (fun t => (t.func 0).dbgdata == 7) = true ∧ d one .debugRead (fun t => (t.func 0).dbgdata == 0) = true ∧ d two .debugWrite (fun t => sca 1 t == 9) = true ∧
    ev two { f := 0, cid := 0, role := 0, tid := 0, ctl := true, opnd := 1 } .debugWrite (fun t => (t.team 0).ctl.tvec == 9) = true ∧
    ev h { f := 0, cid := 0, role := 0, tid := 0, ctl := true, opnd := 6 } .debugRead (fun t => (t.func 0).dbgdata == 32) = true ∧
    d (dep (ha one fun g => { g with gangs := [{ gang := 0, keep := false, acc := 0, cfg := { w := 32, cL := 16, cS := 16, lo := 0, cnt := 64, base := 0, fr := 0 }, strm := false, here := [(0, 10, 11)] }] }) .gang) .debugHoldPath
      (fun t => (t.team 0).path.held && (t.team 0).path.dep == none && (t.harness 0).gangs == []) = true ∧
    ev one { f := 0, cid := 0, role := 0, tid := 0, path := 3 } .debugHoldPath (fun t => t.teams == one.teams) = true ∧
    ev (dep (tm one fun x => { x with due := { x.due with halt := true } }) .gang) { team := 0 } .debugHaltTaken (fun t => (t.team 0).ctl.halted && (t.team 0).path.dep == none) = true := by decide +kernel
theorem test_wit_samples : let s := k0 (trc one) fun c => { c with cyc := 300 };
    sampleTimes 300 8 600 = [212, 468] ∧ ((sampleCore s 600 (s.core 0)).parts.headD {}).samples = 2 ∧ (((sampleCore s 600 (s.core 0)).parts.headD {}).taken.map (·.1)) = [0] ∧
    sampleCore one 600 (one.core 0) = one.core 0 ∧ (one.team 0).isHalted = false ∧ (reasonOf { one with time := 5 } 0).1 ≠ 7 ∧
    (reasonOf (dep { one with time := 5 } .gang) 0).1 = 5 ∧ (reasonOf (tm one fun x => { x with place := .moving }) 0).1 = 7 ∧
    ev (p0 s fun p => { p with taken := [(0, [1, 2, 3, 4, 5, 6, 7, 8])] }) { core := 0, part := 0 } .stallSample
      (fun t => (t.part 0 0).taken == [] && memWord (t.func 0).qmem 0 == 1) = true := by decide +kernel
theorem test_wit_functions : let e := fun (g : Func → Func) => { fu one g with ev := { f := 0 } };
    nx (e fun f => { f with ccnt := 1, sbase := 2047, slen := 1 }) .functionEnable (fun t => (t.func 0).state == 1) = true ∧ nx (e fun f => { f with ccnt := 1, sbase := 2048, slen := 1 }) .functionEnable (fun t => (t.func 0).state == 0 && t.pf.evtNum == 1) = true ∧
    nx (e id) .functionEnable (fun t => t.pf.evtNum == 1) = true ∧ nx (e fun f => { f with state := 1 }) .functionEnable (fun t => (t.func 0).state == 1) = true ∧ nx (e id) .functionReset (fun t => (t.func 0).state == 0) = true ∧
    nx (e fun f => { f with state := 1 }) .functionReset (fun t => (t.func 0).state == 2 && (t.core 0).preempt) = true ∧ nx (e fun f => { f with state := 1 }) .functionDisable (fun t => (t.func 0).disable) = true ∧
    nx (k0 (e fun f => { f with state := 1 }) fun c => { c with resident := none }) .functionDisable (fun t => !(t.harness 0).alive && ev t { f := 0 } .functionResetComplete fun u => (u.func 0).state == 0 && u.launches.all (!·.live)) = true ∧
    nx (e fun f => { f with state := 2 }) .functionResetComplete (fun t => (t.func 0).state == 2) = true := by decide +kernel
theorem test_wit_attestation : let a := fun (v : BitVec 64) => { fu one fun f => { f with nonce := 5 } with ev := { f := 0, v := v } };
    nx (a 0x01FFFFFFFFFFFF00) .attestationRequest (fun t => (t.func 0).attest == some (0x01FFFFFFFFFFFF00, 5)) = true ∧ nx (a 0x80) .attestationRequest (fun t => (t.func 0).attest == none) = true ∧
    nx (a 0x0200000000000000) .attestationRequest (fun t => (t.func 0).attest == none) = true ∧ nx (a 0) .attestationReport (fun t => (t.func 0).evtNum == 0) = true ∧
    nx (fu (a 0) fun f => { f with attest := some (0, 5), report := some 99 }) .attestationReport (fun t => (t.func 0).attest == none) = true ∧ (reportHead one 0 5).length = 256 := by decide +kernel
theorem test_wit_sets : let s := p0 (two one fun x => { x with place := .pending, info := { x.info with part := 0 } }) fun p => { p with pending := [1] };
    let full := p0 (dep s (.sleep 5)) fun p => { p with active := [0, 2, 3, 4, 5, 6, 7, 8] };
    wantedChange s 0 0 = some ⟨1, none⟩ ∧ ev s { core := 0, part := 0 } .setChange (fun t => (t.team 1).place == .moving && ev t { core := 0, part := 0, team := 1 } .setChangeComplete fun u => (u.part 0 0).active == [0, 1] && (u.team 1).place == .active) = true ∧
    wantedChange full 0 0 = some ⟨1, some 0⟩ ∧ ev full { core := 0, part := 0 } .setChange (fun t => ev t { core := 0, part := 0, team := 1 } .setChangeComplete fun u => (u.team 0).place == .pending && (u.part 0 0).pending == [0]) = true ∧
    wantedChange one 0 0 = none := by decide +kernel
theorem test_wit_wait_ends : let q := fun (n : Nat) => tm one fun x => { x with flow := { x.flow with quantum := n, path := 1, paths := x.flow.paths } };
    ev (q 32) { team := 0 } .pathQuantumExpiry (fun t => (t.team 0).flow.path == 0 && (t.team 0).flow.quantum == 0) = true ∧ ev (q 31) { team := 0 } .pathQuantumExpiry (fun t => (t.team 0).flow.path == 1) = true ∧ nextPathOf one 0 = some 0 ∧
    ev (ctl (path one fun p => { p with join := some ⟨some 9⟩ }) fun c => { c with tmr := 9 }) { team := 0, path := 0 } .joinTimeout (fun t => pcIs 1 t && (t.team 0).path.join == none) = true ∧
    ev (ctl (path one fun p => { p with join := some ⟨some 9⟩ }) fun c => { c with tmr := 8 }) { team := 0, path := 0 } .joinTimeout (pcIs 0) = true ∧
    ev (ctl (dep one (.sleep 9)) fun c => { c with tmr := 9 }) { team := 0, path := 0 } .sleepExpiry (fun t => (t.team 0).path.dep == some .met) = true ∧
    ev (ctl (dep one (.sleep 9)) fun c => { c with tmr := 8 }) { team := 0, path := 0 } .sleepExpiry (fun t => (t.team 0).path.dep == some (.sleep 9)) = true ∧
    ev (tm one fun x => { x with flow := {} }) { team := 0 } .teamEnd (fun t => (t.team 0).place == .ended && (t.part 0 0).active == []) = true ∧ ev one { team := 0 } .teamEnd (fun t => (t.team 0).place == .active) = true := by decide +kernel
theorem test_wit_residence : let s := fun (f : Core → Core) => { k0 (share one) f with ev := { core := 0 } };
    nx (s fun c => { c with slice := 2000000 }) .sliceExpiry (fun t => (t.core 0).preempt && nx { t with ev := { core := 0 } } .preemptionComplete fun u =>
      (u.core 0).resident == none && (u.core 0).lastRun == 1 && nx { u with ev := { core := 0 } } .contextRestore fun v => (v.core 0).resident == some 0) = true ∧
    nx (s fun c => { c with slice := 1999999 }) .sliceExpiry (fun t => !(t.core 0).preempt) = true ∧ nx (tm (s fun c => { c with slice := 2000000 }) fun x => { x with due := { x.due with halt := true } }) .sliceExpiry (fun t => (t.core 0).heldReq == [0] && !(t.core 0).preempt) = true ∧
    nx { dep (s fun c => { c with idle := 4096 }) .tile with harnesses := one.harnesses ++ one.harnesses } .idleDeparture (fun t => (t.core 0).preempt) = true ∧ nx (s fun c => { c with idle := 4096 }) .idleDeparture (fun t => !(t.core 0).preempt) = true ∧
    nx (s id) .preemptionComplete (fun t => (t.core 0).resident == some 0) = true ∧ nextContext (s id) 0 = some 0 ∧
    (let h := ha (k0 one fun c => { c with resident := none, left := [(0, [(8, 5)])] }) fun h => { h with started := false }
     nx { h with ev := { core := 0 } } .contextRestore fun t => (t.harness 0).shared == [(8, 5)] && (t.harness 0).started) = true := by decide +kernel
theorem test_wit_power : let v := fun (f : Services → Services) => { k0 one fun c => { c with resident := none } with svc := f one.svc };
    nx (v fun x => { x with idle := 1000000 }) .idleEntry (fun t => t.svc.power == .idle && nx t .idleExit fun u => u.svc.power == .run) = true ∧ nx (v fun x => { x with idle := 999999 }) .idleEntry (fun t => t.svc.power == .run) = true ∧
    nx (v id) .powerLoss (fun t => t.svc.power == .off && t.teams == [] && t.hbm == []) = true ∧ nx (v fun x => { x with power := .off }) .thermalShutdown (fun t => t.svc.power == .off) = true ∧
    ev one { n := 1601 } .powerWindow (fun t => t.svc.throttle) = true ∧ ev one { n := 1600 } .powerWindow (fun t => !t.svc.throttle) = true ∧ ev (v fun x => { x with throttle := true }) { n := 1549 } .powerWindow (fun t => !t.svc.throttle) = true ∧
    ev (v fun x => { x with throttle := true }) { n := 1550 } .powerWindow (fun t => t.svc.throttle) = true ∧ ev one { die := 3 } .overTemperature (fun t => t.svc.hot == [3] && nx t .dieTemperatureFalls fun u => u.svc.hot == []) = true ∧
    withheld { one with svc := { one.svc with throttle := false } } = false ∧
    ev (v fun x => { x with power := .run }) {} .powerGood (fun t => t.svc.power == .run) = true ∧
    (let i : FwImage := { bytes := [0, 0, 0, 0, 1, 0, 0, 0, 3] ++ List.replicate 7895 0 }
     i.length = 1 ∧ i.version = 3 ∧ i.key.length = 32 ∧ i.signature.length = 7856 ∧ i.image = [] ∧ i.ok 0 0 = false) := by decide +kernel
theorem test_sha_abc : beNat (sha256 [0x61, 0x62, 0x63]) = 0xba7816bf8f01cfea414140de5dae2223b00361a396177a9cb410ff61f20015ad := by decide +kernel
theorem test_sha_two_blocks : beNat (sha256 ((List.range 14).flatMap fun i => (List.range 4).map fun j => BitVec.ofNat 8 (0x61 + i + j))) =
    0x248d6a61d20638b8e5c026930c3e6039a33ce45964ff2167f6ecedd419db06c1 := by decide +kernel
theorem test_wit_errors : let e := fun (s : State) => { s with ev := { core := 0, nums := [0], n := 4 } };
    nx (e one) .uncorrectableDataError (fun t => (t.team 0).ctl.halted && (t.team 0).ctl.tcause == 0x30 && (t.core 0).uncorr == 1) = true ∧ nx (e (k0 one fun c => { c with inService := false })) .uncorrectableDataError (fun t => (t.core 0).uncorr == 0) = true ∧
    nx (e (k0 one fun c => { c with uncorr := 1 })) .uncorrectableDataError (fun t => !(t.core 0).inService && !(t.harness 0).alive) = true ∧
    ev one { core := 0, place := .regs } .correctedEccError (fun t => (t.core 0).eccRegs == 1) = true ∧ ev one { die := 3, place := .hbm } .correctedEccError (fun t => (t.die 3).eccHbm == 1) = true ∧
    ev one { core := 255, place := .shared } .correctedEccError (fun t => (t.core 255).eccShared == 1) = true ∧ ev one { die := 0, place := .scratch } .correctedEccError (fun t => (t.die 0).eccScratch == 1) = true := by decide +kernel

/-! ### Address translation (TableWalk, LeafChecks) -/

/-- Tables for virtual 0 to FFFFH, a page at 70000H with W, then a table entry and a leaf that are malformed, at the indices 1. -/
def tables : Memory :=
  [(0x20000, 0x40001), (0x40000, 0x50001), (0x40008, 0x50081), (0x50000, 0x60001), (0x50008, 0x70061), (0x60000, 0x70043), (0x60008, 0x700C3)].foldl
    (fun m e => memStore m e.1 (leBytes 8 e.2)) []
theorem test_wit_table_walk : let w := walkFrom tables [] 0 5;
    let leaf : Leaf := { tier := 0, target := 0x70000, peer := 0, spec := false, graded := false, write := true };
    (w 7 3 0x20000).1 = .page 0 65536 leaf ∧ (w 7 3 0x20000).2.length = 3 ∧ (walkFrom tables [⟨5, 3, 0, 0x40000⟩] 0 5 7 3 0).1 = .page 0 65536 leaf ∧
    (entryAt tables 3 0x20000 7).testBit 0 = true ∧ (entryAt tables 0 0x60000 7).testBit 6 = true ∧ leafSays 0x70043 = leaf ∧ (w 0x10000 3 0x20000).1 = .absent ∧
    (w 0x200000 3 0x20000).1 = .absent ∧ (w 0x40000000 3 0x20000).1 = .absent ∧ (w (2 ^ 43) 3 0x20000).1 = .absent ∧
    (walkFrom (memStore [] 0 (leBytes 8 0x53)) [] 65536 0 3 0 0).1 = .page 0 65536 { leaf with tier := 1, target := 0 } ∧
    (walkFrom (memStore [] 0 (leBytes 8 0x53)) [] 65535 0 3 0 0).1 = .absent ∧ bitsOf 0x50081 7 1 ≠ 0 ∧ (let s := { one with hbm := tables }
      let s := s.putFunc 0 { s.func 0 with root := 0x20000 }
      (s.tlbUse .io 0 7).ioTlb.length = 1 ∧ (s.tlbUse .io 0 0x10000).ioTlb = [] ∧ ((s.tlbUse .io 0 7).die 0).walker.length = 3 ∧
        (mp s).page .io 0 7 = .page 0 65536 { leaf with target := 0 }) := by decide +kernel
theorem test_wit_leaf_checks : let leaf : Leaf := { tier := 0, target := 0, peer := 0, spec := false, graded := false, write := true };
    let u := fun (a : Acc) (l : Leaf) => useLeaf one 0 a 8 4 0 l;
    u .add { leaf with tier := 2 } = .refused 0x11 8 ∧ u .write { leaf with write := false } = .host 0x11 8 true ∧ u .read { leaf with tier := 3, peer := one.svc.peerId } = .refused 0x11 8 ∧
    u .read { leaf with tier := 1, graded := true } = .trap 0x12 8 ∧ u .read { leaf with tier := 1, spec := true } = .trap 0x12 8 ∧ u .gread leaf = .trap 0x12 8 ∧
    u .write { leaf with graded := true } = .trap 0x12 8 ∧ u .read { leaf with graded := true } = .trap 0x12 8 ∧ u .read { leaf with spec := true } = .refused 0x11 8 ∧
    u .read leaf = .ok ∧ u .add { leaf with tier := 1 } = .ok ∧ (resolve one .io 0 .read (2 ^ 57) 1).2.chk = .trap 0x04 (2 ^ 57) ∧ (resolve one .io 0 .write 8 4).2.chk = .host 0x10 8 true ∧
    (resolve (mp one) .io 0 .read 0xFFFC 8).2.chk = .trap 0x12 0x10000 ∧ (resolve (mp one) .io 0 .read 8 4).2.locs = [(.hbm 8, 4)] ∧
    (resolve (mp one) .io 0 .read 0x1FFFC 4).2.chk ≠ .ok ∧ poolClosed true (some .free) = true ∧ (poolFault (pool one 2 0 [(0, .spec 3)]) 0 true 0 65537) = some 65536 ∧
    (poolFault (pool one 2 0 [(0, .spec 3)]) 0 true 0 65536) = none := by decide +kernel

/-! ### What acts later: die scratch, the Sequencer, ports, waits that end with something else -/

/-- Team 0 issues `i` again at the same word, from a state that an issue left. -/
def again (t : State) (i : Instr) (f : State → Bool) : Bool := nx { t with cur := .team 0 } i f
/-- Every lane at word 0xFFFC of die scratch, and s4 = 3. -/
def atX : State := setS (share one) [(4, 3), (2, 0xFFFC)]

theorem test_wit_scratch_stores :
    nx atX (.stx 0xC4 0xC2 0xC3) (fun t => t.late.map (fun y => (y.key, y.scratch)) == [((t.time + 60) * 20000 + 5120, true)] && memX 0xFFFC t == 0) = true ∧
    nx (setS atX [(2, 0x0800FFFC)]) (.stx 0xC4 0xC2 0xC3) (fun t => t.late.map (·.key) == [(t.time + 140) * 20000 + 5120] &&
      acted (fun u => memWord (u.die 1).scratch 0xFFFC == 3 && memX 0xFFFC u == 0) t) = true ∧
    nx atX (.stx 0xC4 0xC2 0xC3) (fun t => again t (.ldx 5 0xC2 0xC3) fun u => u.late.length == 2 && vec 5 0 u == 0 && acted (fun v => vec 5 0 v == 3) u) = true ∧
    nx atX (.stx 0xC4 0xC2 0xC3) (fun t => again (setS t [(2, 256)]) (.ldx 5 0xC2 0xC3) fun u => u.late.length == 1) = true ∧
    nx atX (.stx 0xC4 0xC2 0xC3) (fun t => again t (.ldaq 5 0xC2 0xC3) fun u => (u.team 0).path.fence == [1] && !pathCan u 0 (u.team 0).path) = true ∧
    nx atX (.ldaq 5 0xC2 0xC3) (fun t => (t.team 0).path.fence == []) = true ∧
    nx atX (.stx 0xC4 0xC2 0xC3) (fun t => again t (.ldx 5 0xC2 0xC3) fun u => waitsHere { setS u [(2, 256)] with cur := .team 0 } (.sts 5 0xC2 0xC3)) = true ∧
    nx atX (.stx 0xC4 0xC2 0xC3) (fun t => t.agenda.all (·.1 != .storePerformed) && (runDue (10 ^ 12) t).agenda.any (·.1 == .storePerformed)) = true := by decide +kernel
theorem test_wit_failed_cas : let w := ha (setM one 256 [10]) fun h => { h with watch := [some ⟨256, false, false, 10, 0xFF⟩, none, none, none] };
    let a : Act := { lane := 0, addr := 256, op := some .cas, d := 9, d1 := 3, dst := some 0xC4 };
    nearWord w false 256 = 10 ∧ ((runAct 0 5 false w a).team 0).path.watch = [] ∧ memS 256 (runAct 0 5 false w a) = 10 ∧ sca 4 (runAct 0 5 false w a) = 10 ∧
    ((runAct 0 5 false w { a with d := 10, d1 := 10 }).team 0).path.watch = [⟨5, 0, 256⟩] := by decide +kernel
theorem test_wit_late_waits :
    nx atX (.stx 0xC4 0xC2 0xC3) (fun t => waitsHere { setS t [(1, 3)] with cur := .team 0 } (.waitv 0xC1 0xC2 8) && waitsHere { setS t [(1, 0)] with cur := .team 0 } (.waitv 0xC1 0xC2 8) &&
      waitsHere { setS t [(1, 65535)] with cur := .team 0 } (.mbxput 0xC8 0xC1) &&
      waitsHere { setS t [(4, 1), (5, 5), (6, 0), (7, 9)] with cur := .team 0 } (.bfjoin 0xC1 0xC4) &&
      waitsHere { bats (setS t [(1, 1)]) [batch 2 true (some (0, 0, 256))] with cur := .team 0 } (.bfdone 0xC1)) = true ∧
    LateBefore { one with late := [{ key := 0, id := 3, party := .team 0, path := 0, issued := 0, image := some (0, false, 0) }] } (.team 0) 4 :=
  ⟨by decide +kernel, ⟨_, List.mem_singleton.2 rfl, rfl, by decide, .inr (by decide)⟩⟩
theorem test_wit_sequencer_asks : let s := setS (tk one []) [(1, 0)];
    does s (.refire 0xC1) (fun t => ((t.launch 0).tasks.map (·.fires)) == [0] && t.late.map (fun y => (y.key, y.ask)) == [((t.time + 240) * 20000 + 5120, some (.refire 0))] &&
      acted (fun u => ((u.launch 0).tasks.map (·.fired)) == ((s.launch 0).tasks.map fun k => k.refire.fired)) t) = true ∧
    does (la s fun l => { l with tasks := l.tasks.map fun k => { k with done := true } }) (.refire 0xC1) (acted fun u => ((u.launch 0).tasks.map (·.fires)) == [1]) = true ∧
    does (la s fun l => { l with tasks := l.tasks.map fun k => { k with arg := 77 } }) (.taskq 0xC2 0xC1 1) (fun t => sca 2 t == 0 && (t.team 0).deps.marks.length == 1 && acted (fun u =>
      sca 2 u == 77 && (u.agenda.any (·.1 == .wmOperationComplete))) t) = true ∧
    runLate one { key := 0, id := 9, party := .team 0, path := 0, issued := 0, ask := some (.refire 5) } = one := by decide +kernel
theorem test_wit_barrier_waits : let s := slot (setS one [(1, 512), (2, 256)]) 512 2;
    does s (.barr 0xC1) (fun t => ((t.harness 0).slotAt 512).pend == 1 && t.ops == []) = true ∧
    nx s (.sts 0xC4 0xC2 0xC3) (fun t => again t (.barr 0xC1) fun u => ((u.harness 0).slotAt 512).pend == 2 && (u.team 0).deps.s == 2 &&
      ev u { id := 1 } .storePerformed (fun v => ((v.harness 0).slotAt 512).pend == 2 && (v.team 0).deps.s == 2) &&
      ev u { id := 0 } .storePerformed fun v => ev v { id := 1 } .storePerformed fun w => ((w.harness 0).slotAt 512).pend == 1 && (w.team 0).deps.s == 0 && w.ops == []) = true := by decide +kernel
theorem test_wit_reads_left : let r : Transfer := { xfer with data := none };
    let g : GradedFlight := { flight with id := 9, party := .shuttle 0 0, kind := none };
    readsLeft { one with transfers := [r] } (.shuttle 0 0) 9 = true ∧ readsLeft { one with transfers := [xfer] } (.shuttle 0 0) 9 = false ∧
    ev { one with transfers := [r], graded := [g] } { id := 9 } .ggetLanding (fun t => t.graded.length == 1) = true ∧
    ev { one with graded := [g] } { id := 9 } .ggetLanding (fun t => t.graded.length == 0) = true ∧
    CopyReads { one with copies := [{ id := 2, h := 0, team := 0, batch := 0, pieces := [], flying := 1, add := false, ordered := false, unread := 1, pc := 0, pages := [] }] } 0 3 ∧
    (let w : GradedFlight := { flight with id := 9, kind := some .gput, locs := [.peer 1 0], count := 1 }
     ev { (lock one 0 256 false none) with graded := [{ w with id := 99 }] } { id := 99 } .gradedWriteComplete (fun t => (t.harness 0).locks == [] && (t.graded.map (·.sent)) == [some 0])) = true :=
  ⟨by decide +kernel, by decide +kernel, by decide +kernel, by decide +kernel, ⟨_, List.mem_singleton.2 rfl, rfl, by decide, by decide⟩, by decide +kernel⟩
theorem test_wit_ports_add : let s := setH (mp (share one)) 8 [5];
    let far := { s with ioTlb := [{ f := 0, base := 0, size := 65536, leaf := { tier := 2, target := 0, peer := 0, spec := false, graded := false, write := true } }] };
    ev s { f := 0, off := 2 ^ 32 + 8, v := 3 } .remoteAtomicAdd (fun t => memWord t.hbm 8 == 8 && t.outbox.length == 1) = true ∧
    ev far { f := 0, off := 2 ^ 32 + 8, v := 3 } .remoteAtomicAdd (fun t => t.outbox == [] && t.portWrites.length == 1 && ev t { id := 0 } .transferComplete fun u =>
      u.outbox.length == 1 && u.portWrites == [] && u.byteAt (.host 8) == 3) = true ∧
    ev far { f := 0, off := 2 ^ 32 + 8, bytes := [7, 8] } .remoteWrite (fun t => t.portWrites.length == 1 && t.byteAt (.host 8) == 0) = true := by decide +kernel
theorem test_wit_wm_busy : let huge := setV (setV (cfg one) 10 fun k => if k == 0 then 0x7FFF else 0) 11 fun k => if k == 0 then 0x7FFF else 0;
    let o := huge.putAcc 0 0 0x7FFFFFFF false;
    let armed := ha (ab (cfg one) 64 0) fun h => { h with watch := h.watch.set 0 (some ⟨0, false, true, 0, 0⟩) };
    nx o (.wmul 0xF0 10 11) (fun t => (t.team 0).ctl.tcause == 0x18 && (t.team 0).wm.ovf && (t.part 0 0).busy.any (·.isSome) && (t.ops.map (·.kind)) == [.hold]) = true ∧
    nx armed (.accst 0xF0 0xC1) (fun t => (t.team 0).fetch == [0] && acted (fun u => (u.agenda.any (·.1 == .wmOperationComplete))) t) = true ∧
    nx (ab (cfg one) 64 0) (.accst 0xF0 0xC1) (fun t => (t.team 0).fetch == []) = true ∧
    nx (ab (cfg one) 64 0) (.accld 0xF0 0xC1 1) (fun t => again t (.wstat 0xC2 0xF0) fun u => (sca 2 u).getLsbD 19 && !u.form 0 0) = true := by decide +kernel
theorem test_wit_yields : let s := p0 (two one fun x => { x with place := .pending, info := { x.info with part := 0 } }) fun p => { p with pending := [1] };
    does s .yield (fun t => (t.team 0).yields && teamWaits t 0 && !teamCan t 0 && standingOf t 0 == .waiting && wantedChange t 0 0 == some ⟨1, none⟩) = true ∧
    does one .yield (fun t => !(t.team 0).yields) = true := by decide +kernel
theorem test_wit_service_entry : let s := setV (ring one) 5 fun k => BitVec.ofNat 32 (100 + k);
    (ring one).wf = true ∧ FnHere one 0 ∧
    does s (.svc 9) (acted fun t => memWord (t.func 0).qmem (4096 + 64 + 64 * 31 + 36) == 131 && memWord (t.func 0).qmem (4096 + 64 + 64 * 31 + 4) == 9 && memWord (t.func 0).qmem (4096 + 64 + 64 * 31 + 8) == 31 &&
      evts 0 t == 1) = true := ⟨by decide +kernel, fun _ => by decide +kernel, by decide +kernel⟩
theorem test_wit_trace_ring : let ws : List Word := [1, 2, 3, 4, 5, 6, 7, 8];
    let full := la (trc one) fun l => { l with trace := l.trace.map fun r => { r with tail := 256 } };
    traceRecord 0 one ws = one ∧ memWord ((traceRecord 0 (trc one) ws).func 0).qmem 92 = 8 ∧ memWord ((traceRecord 0 (trc one) ws).func 0).qmem 0 = 1 ∧
    memWord ((traceRecord 0 full ws).func 0).qmem 8 = 1 ∧ ((traceRecord 0 full ws).launch 0).trace.map (·.tail) = some 256 ∧
    evts 0 (traceRecord 0 (la (trc one) fun l => { l with trace := l.trace.map fun r => { r with evt := true, tail := 63 } }) ws) = 1 ∧ (trc one).wf = true := by decide +kernel
theorem test_wit_loop_of_none :
    (match (qRun 64 { state := 1, logn := 6, prog := [0x03100001, 0x0C000102, 0x04000001, 0x0C000080, 0x0D000000] } 512 one { words := [] }).2 with
      | .pass r => r.get 0 == 3
      | _ => false) = true ∧ qProgramOk [0x03100001, 0x0C000102, 0x04000001, 0x0C000080, 0x0D000000] = true := by decide +kernel
theorem test_wit_held_packets : let bad := { pq [(0, 4), (4, 0x40000)] with seq := 6 };
    let s := fun (x : Queue) => { (qs x) with ev := { f := 64, q := 0, seq := 6 } };
    (match exec .signal (s { state := 1, logn := 6, lastacc := 7, nextseq := 8, accepted := [bad, { pq [(0, 9)] with seq := 7 }] }) with
      | .next t => (qOf t).lastacc == 6 && (qOf t).nextseq == 7 && (qOf t).accepted == [] && (qOf t).state == 3
      | _ => false) = true ∧
    (let p : Packet := { pq [(0, 9)] with started := true, done := true, csig := some (.host 8) }
     ev (qs { state := 1, accepted := [p] }) { f := 64, q := 0, seq := 5 } .packetCompletion (fun t => t.portWrites.length == 1 && ((qOf t).accepted.map (·.signalled)) == [true] &&
       ev t { f := 64, q := 0, seq := 5 } .packetCompletion (fun u => (qOf u).accepted.length == 1) &&
       ev t { id := 0 } .transferComplete fun u => ev u { f := 64, q := 0, seq := 5 } .packetCompletion fun v => (qOf v).accepted == [] && v.byteAt (.host 8) == 0xFF)) = true := by decide +kernel
theorem test_wit_reset_steps : let s := fu one fun f => { f with state := 2, queues := [(0, { state := 1, accepted := [{ pq [(0, 5)] with started := true }] })] };
    let g := ha s fun h => { h with alive := false };
    resetStill { g with ev := { f := 0 } } 0 = true ∧ resetStill s 0 = false ∧ ev s { f := 0 } .functionResetComplete (fun t => (t.queue 0 0).accepted.length == 1) = true ∧
    ev (bats g [batch 1 false (some (0, 0, 256))]) { f := 0 } .functionResetComplete (fun t => (t.queue 0 0).accepted == [] && (t.queue 0 0).state == 0 && (t.func 0).swept &&
      t.batches.all fun b => b.rows.all (·.void)) = true ∧
    ev g { f := 0 } .functionResetComplete (fun t => (t.func 0).state == 1) = true ∧
    resetStill (fu g fun f => { f with queues := [(0, { accepted := [{ pq [(0, 1)] with started := true }] })] }) 0 = false := by decide +kernel
theorem test_wit_report_sent : let s := fu one fun f => { f with attest := some (0, 5) };
    ev s { f := 0 } .attestationReport (fun t => (t.func 0).attest.isSome && (t.func 0).evtNum == 0 && t.portWrites.length == 1 &&
      ev t { f := 0 } .attestationReport (fun u => (u.func 0).attest.isSome) &&
      ev { t with portWrites := [] } { f := 0 } .attestationReport fun u => (u.func 0).attest == none && evts 0 u == 1) = true := by decide +kernel
theorem test_wit_held_requests : let c := { f := 0, cid := (one.team 0).info.cid, role := (one.team 0).info.role, tid := (one.team 0).info.tid : EvArgs };
    let s := fun (l : List Nat) => k0 (ctl one fun c => { c with halted := true }) fun k => { k with heldReq := l };
    ev (s [0]) c .debugResume (fun t => (t.core 0).preempt && (t.core 0).heldReq == []) = true ∧ ev (s [0, 1]) c .debugResume (fun t => !(t.core 0).preempt && (t.core 0).heldReq == [1]) = true ∧
    ev (s [1]) c .debugResume (fun t => !(t.core 0).preempt && (t.core 0).heldReq == [1] && !(t.team 0).ctl.halted) = true ∧
    teamReady (path (tm one fun x => { x with place := .pending, sent := [0], due := { x.due with one := some 0 } }) fun p => { p with held := true }) 0 = true := by decide +kernel
theorem test_wit_stand_in : let gone := fun (p : Path) => tm one fun x => { x with due := { x.due with timer := true }, flow := { x.flow with path := 1, paths := x.flow.paths.set 0 (some p) } };
    let w := gone { (one.team 0).path with dep := some (.barrier 256 0) };
    ((standIn w 0).team 0).flow.path = 0 ∧ standIn one 0 = one ∧
    ev w { team := 0 } .timerTrap (fun t => (t.team 0).ctl.inh && (t.team 0).ctl.tcause == 0x2C && (t.team 0).flow.path == 0) = true := by decide +kernel
theorem test_wit_samples_later : let s := path (ctl one fun c => { c with tmr := 5 }) fun p => { p with join := some ⟨some 9⟩ };
    (((s.team 0).later s 4).path.join) = none ∧ (((s.team 0).later s 3).path.join).isSome = true ∧ ((s.team 0).later s 4).ctl.tmr = 9 ∧ ((s.team 0).later s 4).path.pc = (s.team 0).path.pc + 1 := by decide +kernel
theorem test_wit_shuttle_wakes : let s := sh shu fun x => { x with state := 2 };
    ((prepare s (.shuttle 0 0)).shuttle 0 0).state = 1 ∧ (wakeShuttle s 0 0).shuttle 0 0 = { s.shuttle 0 0 with state := 1 } := by decide +kernel
theorem test_wit_dormant_prio : nx { dorm one with ir := 0x18040000 } .prio (pcIs 1) = true ∧
    nx { dorm one with ir := 0x18000001 } .prio (fun t => (t.team 0).ctl.tcause == 1) = true := by decide +kernel
theorem test_wit_shuttle_illegal : nx { shu with ir := 0x8A000005 } .udf (fun t => (t.shuttle 0 0).state == 3 && (t.shuttle 0 0).cause == 1 && (t.shuttle 0 0).faddr == 0x8A000005) = true ∧
    instrOf 0xFF123456 = .udf := by decide +kernel
/-- A read of die scratch of team 0 that has still to act, of path `p` and the lanes `m`. -/
def owes (s : State) (p : Nat) (m : BitVec 1024) : State :=
  { s with late := [{ key := 10 ^ 9, id := 9, party := .team 0, path := p, lanes := m, issued := 0, acts := [{ lane := 0, addr := 8, dst := some 5 }], scratch := true }] }
theorem test_wit_reads_owed : let w := fun (s : State) (i : Instr) => waitsHere (owes s 0 0) i && waitsHere (owes s 1 1) i && !waitsHere (owes s 1 0) i;
    w (ab one 256 1) (.binit 0xC1 0xC2) = true ∧ w (slot (ab one 256 4) 256 1) (.bexp 0xC1 0xC2) = true ∧ w (setV (ctl one fun c => { c with ssp := 256, ssplim := 512 }) 5 fun _ => 6) (.spill 4 2) = true ∧
    w (ab (cfg one) 64 0) (.accst 0xF0 0xC1) = true ∧ w (setS one [(1, 5), (2, 256)]) (.sts 0xC1 0xC2 0xC3) = true := by decide +kernel
theorem test_wit_reads_owed_is : ReadsOwed (owes one 0 0) 1 ∧ ¬ ReadsOwed one 1 :=
  ⟨⟨_, List.mem_singleton.2 rfl, ⟨rfl, fun _ h => by cases h; exact .inl rfl⟩, rfl, _, List.mem_singleton.2 rfl, by decide⟩, fun ⟨_, h, _⟩ => nomatch h⟩
theorem test_wit_takes_owed : let s := fun (t : State) => owes t 0 0;
    let b := bats (ab (share one) 5 256) [batch 2 true none];
    does b (.bftake 0xC4 0xC1 0xC2) (fun t => sca 4 t == 1) = true ∧ waitsHere (s b) (.bftake 0xC4 0xC1 0xC2) = true ∧ waitsHere (owes b 1 (2 ^ 40)) (.bftake 0xC4 0xC1 0xC2) = false ∧
    waitsHere (s (fu (setS one [(1, 5)]) fun f => { f with mbox := memStore [] (256 * 5 + 4) [7] })) (.mbxget 0xC8 0xC1 0xC2) = true := by decide +kernel
theorem test_wit_scratch_paths : let far : State := owes atX 0 1;
    let a : Act := { lane := 0, addr := 8, op := some .add, d := 1, dst := some 5 };
    let b : Late := { key := 10 ^ 9, id := 9, party := .team 7, path := 0, cycle := one.time, issued := 0, acts := [a], scratch := true };
    nx far (.stx 0xC4 0xC2 0xC3) (fun t => (t.late.map (·.key)) == [10 ^ 9, 10 ^ 9]) = true ∧ nx (owes atX 1 (2 ^ 40)) (.stx 0xC4 0xC2 0xC3) (fun t => (t.late.map (·.key)).any (· < 10 ^ 9)) = true ∧
    loadBehind { one with late := [b] } [a] = some (10 ^ 9) ∧ loadBehind { one with late := [b] } [{ a with op := none }] = none ∧ loadBehind { one with late := [{ b with cycle := one.time + 1 }] } [a] = none := by decide +kernel
theorem test_wit_puts_after_writes : let w : PortWrite := { id := 8, port := 0, loc := .host 8, bytes := [1], packet := some (64, 0, 3) };
    let s := pk one [(0, 5), (4, 3)];
    writesOut { s with portWrites := [w] } 64 0 = [8] ∧ nx { s with portWrites := [w] } .mbox (fun t => (qOf t).accepted.length == 1 && mboxTail t 64 3 == 0 &&
      nx { t with ev := { f := 64, q := 0, seq := 5 }, portWrites := [] } .mbox fun u => mboxTail u 64 3 == 1) = true ∧ writesOut s 64 0 = [] := by decide +kernel
theorem test_wit_taken_back : let e : Packet := { pq [(0, 9)] with seq := 7, unit := 3, raw := 0x109 :: 7 :: List.replicate 14 0 };
    let x : Queue := { state := 1, logn := 6, lastacc := 7, nextseq := 8, rdidx := 4, accepted := [pq [(0, 4)], e] };
    let s := fun (v : Nat) => { (qs x) with funcs := (qs x).funcs, pf := { (qs x).pf with qmem := memStore [] (3 * 64) (leBytes 4 v ++ [7]) } };
    x.later (pq [(0, 4)]) = [e] ∧ x.later e = [] ∧ (takeBack (s 9) 64 0 (pq [(0, 4)])).queue 64 0 = { x with lastacc := 6, nextseq := 7, rdidx := 3, accepted := [pq [(0, 4)]] } ∧
    memWord ((takeBack (s 9) 64 0 (pq [(0, 4)])).func 64).qmem 192 = 0x109 ∧ memWord ((takeBack (s 0xA) 64 0 (pq [(0, 4)])).func 64).qmem 192 = 0xA ∧
    takeBack (s 9) 64 0 e = s 9 := by decide +kernel
theorem test_wit_slot_choices : let u := p0 (two one fun x => { x with info := { x.info with part := 0 } }) fun q => { q with active := [0, 1] };
    let m := path u fun p => { p with mac := some ([0x01000000, 0x01000000], 0), slot := 1 };
    let out := tm m fun x => { x with flow := { x.flow with path := 1, paths := x.flow.paths.set 1 (some { x.path with mac := none }) } };
    nextChoice u (partOf u 0) = some (0, 0) ∧ choosingSlot u 1 = none ∧ slotFree u (partOf u 0) 1 = true ∧ slotFree m (partOf m 0) 1 = false ∧ (m.team 0).boundTo = some 1 ∧ (u.team 0).boundTo = none ∧
    candidates m (partOf m 0) 0 = [1] ∧ candidates out (partOf out 0) 0 = [1] ∧ candidates out (partOf out 0) 1 = [0, 1] ∧ wordPhase 0xF0 = 2 ∧ wordPhase 0x01 = 1 := by decide +kernel
theorem test_wit_end_of_cycle : let d := path one fun p => { p with step := true };
    let s := fun (t : State) => k0 t fun k => { k with preempt := true, preemptAt := t.time };
    askedNow (s one) ((s one).core 0) = some 0 ∧ askedNow one (one.core 0) = none ∧ dueTrap one 0 = none ∧ (dueTrap d 0).isSome = true ∧ ((endCycle (s d)).team 0).ctl.tcause = 0x2D ∧
    endCycle d = d ∧ nx { s d with ev := { core := 0 } } .preemptionComplete (fun t => (t.core 0).resident == some 0) = true ∧
    nx { s one with ev := { core := 0 } } .preemptionComplete (fun t => (t.core 0).resident == none) = true := by decide +kernel
theorem test_wit_messages_in_order : let s := fu one fun f => { f with evtaddr := 4096 };
    let t := sendEvent (sendEvent s 0 5 [1]) 0 6 [2];
    (t.portWrites.map (·.event)) = [some 0] ∧ ((t.func 0).evwait.map (·.1)) = [4096] ∧ ev t { id := 0 } .transferComplete (fun u => (u.portWrites.map (·.id)) == [1] && (u.func 0).evwait == [] &&
      memWord u.host 4096 == 5 && ev u { id := 1 } .transferComplete fun v => v.portWrites == [] && memWord v.host 4096 == 6) = true ∧ sendEvent one 0 5 [1] = fu one (fun f => { f with
        evtNum := 1, evlog := [(0, BitVec.ofNat 256 (5 + 2 ^ 64))] }) := by decide +kernel
theorem test_wit_calls_to_come : let s := ring one;
    nx s (.svc 5) (fun t => callsUnder t 0 3 == 32 && callsUnder t 0 4 == 0 && waitsHere { la t (fun l => { l with rings := l.rings.map fun r => { r with tail := 970 } }) with cur := .team 0 } (.svc 5)) = true := by decide +kernel

end Sys2Proof.Tests
end

section
/-! SUPPORT. What an operand byte names, what the writes of results leave in a register file (R4, R79, R82, R171), and
the claim that says these at once. -/

namespace Sys2Proof.Machine

/-! ## What an operand byte names -/

theorem isV_iff {x : Byte} : isV x = true ↔ x.toNat < 0xC0 := decide_eq_true_iff

theorem isS_iff {x : Byte} : isS x = true ↔ 0xC0 ≤ x.toNat ∧ x.toNat < 0xE0 := by simp [isS]

/-- A byte of 0xE8 or more names no register and no predicate. -/
theorem opd_of_special {x : Byte} (h : 0xE8 ≤ x.toNat) (n : Nat) : opd x ≠ .v n ∧ opd x ≠ .s n ∧ opd x ≠ .p n := by
  have hv : ¬ x.toNat < 0xC0 := by omega
  have hs : ¬ x.toNat < 0xE0 := by omega
  have hp : ¬ x.toNat < 0xE8 := by omega
  simp only [opd, if_neg hv, if_neg hs, if_neg hp]
  (repeat' split) <;> simp

/-- R79: the ranges of the vector registers, the scalar registers and the predicates, and the rest. -/
theorem opd_cases (x : Byte) :
    (isV x = true ∧ opd x = .v x.toNat) ∨ (isS x = true ∧ opd x = .s (x.toNat - 0xC0)) ∨
      (0xE0 ≤ x.toNat ∧ x.toNat < 0xE8 ∧ opd x = .p (x.toNat - 0xE0)) ∨
      (0xE8 ≤ x.toNat ∧ ∀ n, opd x ≠ .v n ∧ opd x ≠ .s n ∧ opd x ≠ .p n) := by
  rw [isV_iff, isS_iff]
  by_cases hv : x.toNat < 0xC0
  · exact .inl ⟨hv, if_pos hv⟩
  by_cases hs : x.toNat < 0xE0
  · exact .inr (.inl ⟨⟨by omega, hs⟩, (if_neg hv).trans (if_pos hs)⟩)
  by_cases hp : x.toNat < 0xE8
  · exact .inr (.inr (.inl ⟨by omega, hp, (if_neg hv).trans ((if_neg hs).trans (if_pos hp))⟩))
  · exact .inr (.inr (.inr ⟨by omega, opd_of_special (by omega)⟩))

theorem opd_v_iff {x : Byte} {n : Nat} : opd x = .v n ↔ isV x = true ∧ n = x.toNat := by
  grind [opd_cases x, isV_iff, isS_iff]

theorem opd_s_iff {x : Byte} {n : Nat} : opd x = .s n ↔ isS x = true ∧ n + 0xC0 = x.toNat := by
  grind [opd_cases x, isV_iff, isS_iff]

theorem opd_p_iff {x : Byte} {n : Nat} : opd x = .p n ↔ n + 0xE0 = x.toNat ∧ n < 8 := by
  grind [opd_cases x, isV_iff, isS_iff]

theorem opd_of_isV {x : Byte} (h : isV x = true) : opd x = .v x.toNat := opd_v_iff.2 ⟨h, rfl⟩

theorem opd_of_isS {x : Byte} (h : isS x = true) : opd x = .s (x.toNat - 0xC0) :=
  opd_s_iff.2 ⟨h, Nat.sub_add_cancel (isS_iff.1 h).1⟩

/-! ## The result writes by the kind of their destination -/

theorem wr_of_isV {w : View} {d : Byte} {g : Nat → Word} (h : isV d = true) :
    wr w d g = putV w.regs d.toNat (runLanes w) g := by simp [wr, opd_of_isV h]

theorem wr_of_isS {w : View} {d : Byte} {g : Nat → Word} (h : isS d = true) :
    wr w d g = putS w.regs (d.toNat - 0xC0) (g 0) := by simp [wr, opd_of_isS h]

theorem wr_of_other {w : View} {d : Byte} {g : Nat → Word} (hv : isV d = false) (hs : isS d = false) :
    wr w d g = w.regs := by
  unfold wr
  split
  · next h => simp [opd_v_iff.1 h] at hv
  · next h => simp [opd_s_iff.1 h] at hs
  · rfl

theorem wr64_of_isV {w : View} {d : Byte} {g : Nat → BitVec 64} (h : isV d = true) :
    wr64 w d g =
      putV (putV w.regs d.toNat (runLanes w) fun k => (g k).setWidth 32) (d.toNat + 1) (runLanes w)
        fun k => (g k).extractLsb' 32 32 := by simp [wr64, opd_of_isV h]

theorem wr64_of_isS {w : View} {d : Byte} {g : Nat → BitVec 64} (h : isS d = true) :
    wr64 w d g =
      putS (putS w.regs (d.toNat - 0xC0) ((g 0).setWidth 32)) (d.toNat - 0xC0 + 1) ((g 0).extractLsb' 32 32) := by
  simp [wr64, opd_of_isS h]

theorem wr64_of_other {w : View} {d : Byte} {g : Nat → BitVec 64} (hv : isV d = false) (hs : isS d = false) :
    wr64 w d g = w.regs := by
  unfold wr64
  split
  · next h => simp [opd_v_iff.1 h] at hv
  · next h => simp [opd_s_iff.1 h] at hs
  · rfl

/-! ## Reads after them -/

theorem mem_runLanes {w : View} {k : Nat} : k ∈ runLanes w ↔ k < w.nl ∧ w.run.getLsbD k = true := by simp [runLanes]

theorem runLanes_lt {w : View} (h : w.nl ≤ 1024) : ∀ k ∈ runLanes w, k < 1024 :=
  fun _ hk => Nat.lt_of_lt_of_le (mem_runLanes.1 hk).1 h

/-- A scalar register after a write of one. -/
theorem getS_putS {r : RegFile} {n m : Nat} {x : Word} (h : r.wf = true) :
    getS (putS r n x) m = if m = n then x else getS r m := by
  split
  · next e => rw [e, getS_putS_same h]
  · next e => exact getS_putS_other h e

theorem getV_wr {w : View} {d : Byte} {g : Nat → Word} (hw : w.regs.wf = true) (hn : w.nl ≤ 1024) {n k : Nat}
    (hk : k < 1024) :
    getV (wr w d g) n k =
      if isV d = true ∧ n = d.toNat ∧ k < w.nl ∧ w.run.getLsbD k = true then g k else getV w.regs n k := by
  cases hv : isV d with
  | true => simp [wr_of_isV hv, getV_putV hw (runLanes_lt hn) hk, mem_runLanes]
  | false =>
    cases hs : isS d with
    | true => simp [wr_of_isS hs]
    | false => simp [wr_of_other hv hs]

theorem getS_wr {w : View} {d : Byte} {g : Nat → Word} (hw : w.regs.wf = true) {n : Nat} :
    getS (wr w d g) n = if isS d = true ∧ n + 0xC0 = d.toNat then g 0 else getS w.regs n := by
  cases hs : isS d with
  | true =>
    have e : n = d.toNat - 0xC0 ↔ n + 0xC0 = d.toNat := by have := (isS_iff.1 hs).1; omega
    simp [wr_of_isS hs, getS_putS hw, e]
  | false =>
    cases hv : isV d with
    | true => simp [wr_of_isV hv]
    | false => simp [wr_of_other hv hs]

theorem getP_wr {w : View} {d : Byte} {g : Nat → Word} {n : Nat} : getP (wr w d g) n = getP w.regs n := by
  unfold wr; split <;> simp

theorem wr_wf {w : View} {d : Byte} {g : Nat → Word} (hw : w.regs.wf = true) : (wr w d g).wf = true := by
  unfold wr
  split
  · exact putV_wf hw
  · exact putS_wf hw
  · exact hw

theorem getV_wr64 {w : View} {d : Byte} {g : Nat → BitVec 64} (hw : w.regs.wf = true) (hn : w.nl ≤ 1024) {n k : Nat}
    (hk : k < 1024) :
    getV (wr64 w d g) n k =
      if isV d = true ∧ k < w.nl ∧ w.run.getLsbD k = true ∧ n = d.toNat then (g k).setWidth 32
      else if isV d = true ∧ k < w.nl ∧ w.run.getLsbD k = true ∧ n = d.toNat + 1 then (g k).extractLsb' 32 32
      else getV w.regs n k := by
  cases hv : isV d with
  | true =>
    rw [wr64_of_isV hv, getV_putV (putV_wf hw) (runLanes_lt hn) hk, getV_putV hw (runLanes_lt hn) hk]
    grind [mem_runLanes]
  | false =>
    cases hs : isS d with
    | true => simp [wr64_of_isS hs]
    | false => simp [wr64_of_other hv hs]

theorem getS_wr64 {w : View} {d : Byte} {g : Nat → BitVec 64} (hw : w.regs.wf = true) {n : Nat} :
    getS (wr64 w d g) n =
      if isS d = true ∧ n + 0xC0 = d.toNat then (g 0).setWidth 32
      else if isS d = true ∧ n + 0xBF = d.toNat then (g 0).extractLsb' 32 32
      else getS w.regs n := by
  cases hs : isS d with
  | true =>
    have := (isS_iff.1 hs).1
    rw [wr64_of_isS hs, getS_putS (putS_wf hw), getS_putS hw]
    grind
  | false =>
    cases hv : isV d with
    | true => simp [wr64_of_isV hv]
    | false => simp [wr64_of_other hv hs]

theorem getP_wrQ {w : View} {d : Byte} {g : Nat → Bool} (hw : w.regs.wf = true) {n k : Nat} (hk : k < 1024) :
    (getP (wrQ w d g) n).getLsbD k =
      if n + 0xE0 = d.toNat ∧ 0 < n ∧ n < 8 ∧ k < w.nl ∧ w.run.getLsbD k = true then g k
      else (getP w.regs n).getLsbD k := by
  unfold wrQ
  split
  · next m hm =>
    rw [opd_p_iff] at hm
    rw [getP_putP hw hk]
    grind [mem_runLanes]
  · next hm =>
    rw [if_neg fun h => hm n (opd_p_iff.2 ⟨h.1, h.2.2.1⟩)]

/-- p0 reads true (R79). -/
theorem getP_zero (r : RegFile) : getP r 0 = BitVec.allOnes 1024 := rfl

theorem getV_wrQ {w : View} {d : Byte} {g : Nat → Bool} {n k : Nat} : getV (wrQ w d g) n k = getV w.regs n k := by
  unfold wrQ; split <;> simp

theorem getS_wrQ {w : View} {d : Byte} {g : Nat → Bool} {n : Nat} : getS (wrQ w d g) n = getS w.regs n := by
  unfold wrQ; split <;> simp

end Sys2Proof.Machine

namespace Sys2Proof.Claims
open Sys2Proof.Machine

theorem operandReads : OperandReads := by
  refine fun w k => ⟨fun x hx => ?_, fun x hx => ?_, rfl, rfl, rfl, rfl, rfl, rfl, rfl⟩
  · simp [rd, opd_of_isV hx]
  · simp [rd, opd_of_isS hx]

theorem registerWrite : RegisterWrite := fun _ _ _ hw hn =>
  ⟨fun _ _ hk => getV_wr hw hn hk, fun _ => getS_wr hw, fun _ => getP_wr, wr_wf hw⟩

theorem predicateWrite : PredicateWrite := fun _ _ _ hw _ =>
  ⟨fun _ _ hk => getP_wrQ hw hk, fun k hk => by rw [getP_zero, BitVec.getLsbD_allOnes, decide_eq_true hk],
    fun _ _ => getV_wrQ, fun _ => getS_wrQ⟩

theorem pairWrite : PairWrite := fun _ _ _ hw hn => ⟨fun _ _ hk => getV_wr64 hw hn hk, fun _ => getS_wr64 hw⟩

/-- Settles O9: each write is the rule of its destination's kind, and the reads after it are those of the register
file's own maps. -/
theorem registerReadsAndWrites : Obligations.RegisterReadsAndWrites :=
  ⟨operandReads, registerWrite, predicateWrite, pairWrite⟩

end Sys2Proof.Claims
end

section
/-! SUPPORT. Instructions that only write registers complete for a team and for a Shuttle, and at the end of the code
have its fault instead (R105): once for all of them. -/

namespace Sys2Proof.Claims
open Sys2Proof.Machine

/-- The word that TADDR shows of an instruction that has a word. -/
theorem wordShown_eq_shown {i : Instr} {s : State} (h : (encode i).isSome = true) : wordShown i s = shown i s := by
  obtain ⟨v, hv⟩ := Option.isSome_iff_exists.1 h
  unfold wordShown
  split
  · rfl
  · rfl
  · next hu hp => rw [shown, if_neg (not_or.2 ⟨hu, hp⟩), hv]; rfl

/-- Where the path does not go on, an instruction that falls through has the out-of-range fault, whatever its effect. -/
theorem issue_done_beyond {i : Instr} {r : Rules} {body : View → State → Eff} {s s1 : State} {t : Nat}
    (h : s.Passes t r) (hn : ¬ s.goesOn t) (he : (encode i).isSome = true)
    (hb : body (s.team t).view s = .done s1) (hm : (s1.team t).path.mac = (s.team t).path.mac) :
    issue i r body s = .next (beyond s t i) := by
  obtain ⟨hmac, hpc⟩ := not_or.1 hn
  have hpc : codeWords (s.launchOf t) ≤ (s.team t).path.pc + 1 := Nat.not_lt.1 hpc
  rw [issue_passes h, hb, beyond, ← wordShown_eq_shown he]
  simp only [finishTeam, fallThrough, hm]
  cases hp : (s.team t).path.mac with
  | none => simp [hpc]
  | some m =>
    have hend : macroEnds m.1 (m.2 + 1) = true := by simpa [Path.inMacro, hp] using hmac
    simp [hpc, hend]

/-- The same for a Shuttle (R254). -/
theorem issue_shDone_beyond {i : Instr} {r : Rules} {body : View → State → Eff} {s s1 : State} {h n : Nat}
    (e : s.ShPasses h n r) (hpc : codeWords (s.launch (s.harness h).launch) ≤ (s.shuttle h n).pc + 1)
    (hb : body (s.shuttle h n).view s = .done s1) :
    issue i r body s = .next (shuttleFault s h n 0x04 (w32 ((s.shuttle h n).pc + 1)) 0) := by
  rw [issue_shPasses e, hb]
  simp [finishShuttle, hpc]

theorem regsBody_team {g : View → RegFile} {w : View} {s : State} {t : Nat} (h : s.cur = .team t) :
    regsBody g w s = .done (s.putTeam t { s.team t with regs := g w }) := by rw [regsBody, putRegs_of h]

theorem regsBody_shuttle {g : View → RegFile} {w : View} {s : State} {h n : Nat} (e : s.cur = .shuttle h n) :
    regsBody g w s = .done (s.putShuttle h n { s.shuttle h n with regs := g w }) := by simp [regsBody, State.putRegs, e]

/-- An instruction whose effect is `regsBody g` writes the registers `g'` when the two agree on every view that meets its
needs. -/
theorem writes_of_issue {s : State} {i : Instr} {r : Rules} {g g' : View → RegFile}
    (hi : exec i s = issue i r (regsBody g) s) (hn : needs s i = some r) (he : (encode i).isSome = true)
    (hg : ∀ w, r.legal w = true → r.mode w = true → g w = g' w) : Writes s i g' := by
  refine ⟨fun t r' hr => ?_, fun h n r' hr => ?_⟩ <;> obtain rfl : r = r' := Option.some.inj (hn.symm.trans hr)
  · refine ⟨fun hN => ?_, fun hP hend => ?_⟩
    · rw [hi, issue_regs hN, hg _ hN.legal hN.mode]
    · rw [hi]
      refine issue_done_beyond hP hend he (regsBody_team hP.turn) ?_
      rw [State.team_putTeam_same hP.here]
      rfl
  · refine ⟨fun hN => ?_, fun hP hend => ?_⟩
    · rw [hi, issue_shDone hN (regsBody_shuttle hN.turn), hg _ hN.legal hN.mode]
    · rw [hi, issue_shDone_beyond hP hend (regsBody_shuttle hP.turn)]

end Sys2Proof.Claims
end

section
/-! SUPPORT. Lane exchange, votes and counts (R186, R187). -/

namespace Sys2Proof.Claims
open Sys2Proof.Machine

theorem laneExchange : LaneExchange := by
  intro s d a b
  refine ⟨?_, ?_, ?_, ?_, ?_⟩ <;> exact writes_of_issue rfl rfl rfl fun _ _ _ => rfl

/-! ## BALLOT -/

/-- The word that a fold over bit numbers puts together has the bits whose condition holds. -/
theorem getLsbD_foldl_twoPow {c : Nat → Bool} {l : List Nat} {m : Word} {i : Nat} (hi : i < 32) :
    (l.foldl (fun m i => if c i then m ||| BitVec.twoPow 32 i else m) m).getLsbD i =
      (m.getLsbD i || (decide (i ∈ l) && c i)) := by
  induction l generalizing m with
  | nil => simp
  | cons j l ih =>
    rw [List.foldl_cons, ih]
    by_cases hij : i = j
    · subst hij
      cases c i <;> simp [hi]
    · have hji : ¬ j = i := Ne.symm hij
      cases hc : c j <;> simp [hij, hji, BitVec.getLsbD_twoPow]

/-- Bit `i` of a ballot is lane `i` of the group: whether it runs with its predicate set (R187). -/
theorem getLsbD_ballot {w : View} {a : Byte} {g i : Nat} (hi : i < 32) (hw : w.nl % 32 = 0) :
    (ballot w a g).getLsbD i = true ↔
      32 * g + i < w.nl ∧ w.run.getLsbD (32 * g + i) = true ∧ rdQ w a (32 * g + i) = true := by
  unfold ballot
  split
  · next h => simp; omega
  · next h =>
    have hlane : 32 * g + i < w.nl := by omega
    rw [getLsbD_foldl_twoPow hi]
    simp [hi, hlane]

theorem passesOf_lanecnt {s : State} {d : Byte} {r : Rules} {w : View} (hd : isS d = true)
    (hr : needs s (.lanecnt d) = some r) : passesOf r w = 1 := by
  have hu : isUniform d = true := by simp [isUniform, isS_iff.1 hd]
  cases hr
  simp [passesOf, allUniform, hu]

theorem votesAndCounts : VotesAndCounts := by
  intro s d a b
  refine ⟨fun w => ballot w a b.toNat, fun w i hi _ hw => getLsbD_ballot hi hw, ?_, ?_, ?_, ?_,
    fun r w => passesOf_lanecnt, ?_⟩
  · exact writes_of_issue rfl rfl rfl fun _ _ _ => rfl
  · exact writes_of_issue rfl rfl rfl fun w _ _ => by simp only [List.any_eq_true]
  · exact writes_of_issue rfl rfl rfl fun w _ _ => by simp only [List.all_eq_true]
  · exact writes_of_issue rfl rfl rfl fun _ _ _ => rfl
  · refine writes_of_issue rfl rfl rfl fun w _ _ => ?_
    cases (runLanes w).find? (rdQ w a) <;> rfl

/-- Settles O24: each instruction only writes registers, and the words it writes are the model's own, BALLOT's read bit by
bit. -/
theorem lanesAndVotes : Obligations.LanesAndVotes := ⟨laneExchange, votesAndCounts⟩

end Sys2Proof.Claims
end

section
/-! SUPPORT. Narrowing to an element (R173), and the integer instructions that carry, pair and sum (R178, R191, R197). -/

namespace Sys2Proof.Claims
open Sys2Proof.Machine

/-! ## Narrowing -/

theorem wrap_eq (b : Nat) (r : Int) : BitVec.ofNat b (wrap b r) = BitVec.ofInt b r := by
  rw [wrap, BitVec.ofNat_toNat, BitVec.setWidth_eq]

/-- The modulus of an element in halves. -/
theorem two_pow_halves {b : Nat} (hb : 0 < b) : ((2 ^ b : Nat) : Int) = 2 ^ (b - 1) + 2 ^ (b - 1) := by
  obtain ⟨n, rfl⟩ : ∃ n, b = n + 1 := ⟨b - 1, by omega⟩
  rw [Nat.add_sub_cancel]
  calc ((2 ^ (n + 1) : Nat) : Int) = 2 ^ (n + 1) := Int.natCast_pow 2 (n + 1)
    _ = 2 ^ n * 2 := Int.pow_succ 2 n
    _ = 2 ^ n + 2 ^ n := by omega

/-- The low `b` bits of an integer of the signed range are the integer. -/
theorem bmod_of_signed {b : Nat} (hb : 0 < b) {r : Int} (hlo : -(2 ^ (b - 1)) ≤ r) (hhi : r < 2 ^ (b - 1)) :
    r.bmod (2 ^ b) = r := by
  have hm := two_pow_halves hb
  exact Int.bmod_eq_of_le (by omega) (by omega)

/-- Narrowed to a signed element and read back, an integer is `fits` of it. -/
theorem toInt_narrow {sat : Bool} {b : Nat} (hb : 0 < b) (r : Int) :
    (BitVec.ofNat b (narrow sat true b r)).toInt = fits sat true b r := by
  rw [narrow, wrap_eq, BitVec.toInt_ofInt]
  cases sat with
  | false => rfl
  | true =>
    have hp : (0 : Int) < 2 ^ (b - 1) := Int.pow_pos (by decide)
    have hc : clampTo true b r = fits true true b r := by simp only [clampTo, loOf, hiOf, fits, if_true]; omega
    rw [if_pos rfl, hc]
    refine bmod_of_signed hb ?_ ?_ <;> simp only [fits, if_true] <;> omega

/-- The same for an unsigned element. -/
theorem toNat_narrow {sat : Bool} {b : Nat} (r : Int) :
    ((BitVec.ofNat b (narrow sat false b r)).toNat : Int) = fits sat false b r := by
  have hp : (0 : Int) < (2 ^ b : Nat) := Int.natCast_pos.2 (Nat.two_pow_pos b)
  rw [narrow, wrap_eq, BitVec.toNat_ofInt, Int.toNat_of_nonneg (Int.emod_nonneg _ (Int.ne_of_gt hp))]
  cases sat with
  | false => rfl
  | true =>
    have hf : fits true false b r = max 0 (min (((2 ^ b : Nat) : Int) - 1) r) := by simp [fits]
    have hc : clampTo false b r = fits true false b r := by
      rw [hf]; simp only [clampTo, loOf, hiOf, Bool.false_eq_true, if_false]; push_cast at hp ⊢; omega
    rw [if_pos rfl, hc]
    exact Int.emod_eq_of_lt (by omega) (by omega)

/-- A word is its own 32-bit element. -/
theorem elemOf_word (x : Word) : elemOf 32 (x.setWidth 64) 0 = x.toNat := by
  rw [elemOf, Nat.mul_zero, Nat.shiftRight_zero, BitVec.toNat_setWidth_of_le (by decide), Nat.mod_eq_of_lt x.isLt]

theorem elemInt_word (sg : Bool) (x : Word) :
    elemInt sg 32 (x.setWidth 64) 0 = if sg then x.toInt else (x.toNat : Int) := by
  simp [elemInt, elemOf_word, sext]

theorem elemInt_narrow {sat sg : Bool} (r : Int) :
    elemInt sg 32 ((BitVec.ofNat 32 (narrow sat sg 32 r)).setWidth 64) 0 = fits sat sg 32 r := by
  rw [elemInt_word]
  cases sg with
  | true => exact toInt_narrow (by decide) r
  | false => exact toNat_narrow r

/-! ## ADDC and SUBB -/

theorem addCarry_eq (x y : Word) (c : Bool) :
    addCarry x y c =
      (BitVec.ofNat 32 (x.toNat + y.toNat + if c then 1 else 0), decide (2 ^ 32 ≤ x.toNat + y.toNat + if c then 1 else 0)) := by
  cases c <;> rfl

theorem subBorrow_eq (x y : Word) (c : Bool) :
    subBorrow x y c =
      (BitVec.ofInt 32 ((x.toNat : Int) - y.toNat - if c then 1 else 0),
        decide ((x.toNat : Int) - y.toNat - (if c then 1 else 0) < 0)) := by
  have h : ((y.toNat + c.toNat : Nat) : Int) = y.toNat + if c then 1 else 0 := by cases c <;> simp
  simp only [subBorrow, h, Int.sub_sub]

theorem carryChain : CarryChain := by
  intro s d a b
  refine ⟨writes_of_issue rfl rfl rfl fun w _ _ => ?_, writes_of_issue rfl rfl rfl fun w _ _ => ?_⟩
  · simp only [carryRegs, addCarry_eq]
  · simp only [carryRegs, subBorrow_eq]

/-! ## ADDP, MADW, DOT4 and DOT2 -/

/-- The 64-bit word that MADW leaves in the pair of lane `k`. -/
def madwPair (d a b : Byte) (w : View) (k : Nat) : BitVec 64 :=
  let sg := etSigned (mrEtype w.mr)
  let v := fun (z : Word) => if sg then z.toInt else (z.toNat : Int)
  let c := rd64 w d k
  BitVec.ofNat 64 (narrow (mrSat w.mr) sg 64 ((if sg then c.toInt else (c.toNat : Int)) + v (rd w a k) * v (rd w b k)))

theorem madwRegs_eq (w : View) (d a b : Byte) : madwRegs w d a b = wr64 w d (madwPair d a b w) := rfl

/-- The word that DOT4 and DOT2 leave in lane `k`. -/
def dotWord (d a b : Byte) (w : View) (k : Nat) : Word :=
  let sg := etSigned (mrEtype w.mr)
  let c := rd w d k
  BitVec.ofNat 32 (narrow (mrSat w.mr) sg 32 ((if sg then c.toInt else (c.toNat : Int)) + dotSum w (rd w a k) (rd w b k)))

theorem dotRegs_eq (w : View) (d a b : Byte) : dotRegs w d a b = wr w d (dotWord d a b w) := rfl

theorem dotSum_eq (w : View) (x y : Word) :
    dotSum w x y =
      ((List.range (etCount (mrEtype w.mr))).map fun j =>
        elemInt (etSigned (mrEtype w.mr)) (etBits (mrEtype w.mr)) (x.setWidth 64) j *
          elemInt (etSigned (mrEtype w.mr)) (etBits (mrEtype w.mr)) (y.setWidth 64) j).sum :=
  List.sum_eq_foldl.symm

theorem pairAndDot : PairAndDot := by
  intro s d a b
  refine ⟨writes_of_issue rfl rfl rfl fun _ _ _ => rfl, ⟨madwPair d a b, fun w k _ => ⟨fun he => ?_, fun he => ?_⟩, ?_⟩,
    fun i hi => ⟨dotWord d a b, fun w k _ => ?_, ?_⟩⟩
  · simp only [madwPair, he]; exact toInt_narrow (by decide) _
  · simp only [madwPair, he]; exact toNat_narrow _
  · exact writes_of_issue rfl rfl rfl fun w _ _ => madwRegs_eq w d a b
  · simp only [dotWord]; rw [elemInt_narrow, elemInt_word, dotSum_eq]
  · simp only [List.mem_cons, List.not_mem_nil, or_false] at hi
    obtain rfl | rfl := hi <;> exact writes_of_issue rfl rfl rfl fun w _ _ => dotRegs_eq w d a b

/-- Settles O17: the registers written are the model's, and a narrowed sum read back is `fits` of the exact one. -/
theorem wideIntegers : Obligations.WideIntegers := ⟨carryChain, pairAndDot⟩

end Sys2Proof.Claims
end

section
/-! SUPPORT. A lane put together from elements, and the encodings that the operations of row 0x6 give (R11, R193 to R195). -/

namespace Sys2Proof.Machine

/-! ## Elements of a lane -/

theorem packElems_lt (b n : Nat) (g : Nat → Nat) : packElems b n g < 2 ^ (b * n) := by
  induction n with
  | zero => simp [packElems]
  | succ n ih =>
    have hg : g n % 2 ^ b < 2 ^ b := Nat.mod_lt _ (Nat.two_pow_pos b)
    calc packElems b (n + 1) g < 2 ^ (b * n) + (g n % 2 ^ b) * 2 ^ (b * n) := Nat.add_lt_add_right ih _
      _ = (g n % 2 ^ b + 1) * 2 ^ (b * n) := by rw [Nat.add_mul, Nat.one_mul, Nat.add_comm]
      _ ≤ 2 ^ b * 2 ^ (b * n) := Nat.mul_le_mul_right _ hg
      _ = 2 ^ (b * (n + 1)) := by rw [Nat.mul_succ, Nat.pow_add, Nat.mul_comm]

theorem packElems_elem (b : Nat) {n j : Nat} (g : Nat → Nat) (hj : j < n) :
    packElems b n g / 2 ^ (b * j) % 2 ^ b = g j % 2 ^ b := by
  induction n with
  | zero => omega
  | succ n ih =>
    rw [packElems]
    by_cases hn : j = n
    · subst hn
      rw [Nat.add_mul_div_right _ _ (Nat.two_pow_pos _), Nat.div_eq_of_lt (packElems_lt b j g), Nat.zero_add, Nat.mod_mod]
    · obtain ⟨m, rfl⟩ : ∃ m, n = j + 1 + m := ⟨n - (j + 1), by omega⟩
      have hsplit : (g (j + 1 + m) % 2 ^ b) * 2 ^ (b * (j + 1 + m)) =
          2 ^ b * (g (j + 1 + m) % 2 ^ b * 2 ^ (b * m)) * 2 ^ (b * j) := by
        rw [Nat.mul_add, Nat.mul_add, Nat.mul_one, Nat.pow_add, Nat.pow_add]; ac_rfl
      rw [hsplit, Nat.add_mul_div_right _ _ (Nat.two_pow_pos _), Nat.add_mul_mod_self_left, ih (by omega)]

theorem etBits_mul_etCount_le (et : Nat) : etBits et * etCount et ≤ 64 := by
  unfold etCount
  split
  · next h => subst h; decide
  · exact Nat.le_trans (Nat.mul_div_le 32 (etBits et)) (by decide)

/-- The elements of the value that `mapElems` puts together. -/
theorem elemOf_mapElems {et j : Nat} (g : Nat → Nat) (hj : j < etCount et) :
    elemOf (etBits et) (mapElems et g) j = g j % 2 ^ etBits et := by
  have hlt : packElems (etBits et) (etCount et) g < 2 ^ 64 :=
    Nat.lt_of_lt_of_le (packElems_lt _ _ g) (Nat.pow_le_pow_right (by decide) (etBits_mul_etCount_le et))
  rw [elemOf, mapElems, BitVec.toNat_ofNat, Nat.mod_eq_of_lt hlt, Nat.shiftRight_eq_div_pow, packElems_elem _ g hj]

theorem elemOf_lt (b : Nat) (x : BitVec 64) (j : Nat) : elemOf b x j < 2 ^ b := Nat.mod_lt _ (Nat.two_pow_pos _)

end Sys2Proof.Machine

namespace Sys2Proof.Num
open Sys2Proof.Machine

/-! ## Encodings stay within their format -/

/-- What the encodings of a format need to fit its width: infinity and the canonical NaN. -/
structure Fits (f : Fmt) : Prop where
  width : 16 ≤ f.width
  inf   : f.maxEnc + 1 < 2 ^ (f.width - 1)
  nan   : f.nan < 2 ^ f.width

theorem etFmt_fits (et : Nat) : Fits (etFmt et) := by
  unfold etFmt
  (repeat' split) <;> constructor <;> decide

variable {f : Fmt}

theorem Fits.half_add_half (hf : Fits f) : 2 ^ f.width = 2 ^ (f.width - 1) + 2 ^ (f.width - 1) := by
  obtain ⟨n, hn⟩ : ∃ n, f.width = n + 1 := ⟨f.width - 1, by have := hf.width; omega⟩
  rw [hn, Nat.add_sub_cancel, Nat.pow_succ]; omega

theorem withSign_lt (hf : Fits f) {neg : Bool} {m : Nat} (hm : m < 2 ^ (f.width - 1)) : withSign f neg m < 2 ^ f.width := by
  have := hf.half_add_half
  unfold withSign; split <;> omega

theorem roundMag_le (f : Fmt) (m : Rnd) (neg : Bool) (q : Q) : roundMag f m neg q ≤ f.maxEnc + 1 := by
  unfold roundMag
  extract_lets n emin e ee k sig enc
  clear_value enc
  cases m <;> dsimp only <;> (repeat' split) <;> omega

theorem roundTo_lt (hf : Fits f) (m : Rnd) (v : FVal) : roundTo f m v < 2 ^ f.width := by
  have hinf := hf.inf
  cases v with
  | nan => exact hf.nan
  | inf neg => exact withSign_lt hf (by split <;> omega)
  | fin neg q => exact withSign_lt hf (Nat.lt_of_le_of_lt (roundMag_le f m neg q) hinf)

theorem flush_lt (hf : Fits f) {on : Bool} {x : Nat} (hx : x < 2 ^ f.width) : flush on f x < 2 ^ f.width := by
  unfold flush
  split
  · exact withSign_lt hf (Nat.two_pow_pos _)
  · exact hx

theorem magBits_lt (f : Fmt) (x : Nat) : magBits f x < 2 ^ (f.width - 1) := Nat.mod_lt _ (Nat.two_pow_pos _)

/-- FNEG on an encoding: half the range further on, around its end. -/
theorem withSign_not_signBit (hf : Fits f) {x : Nat} (hx : x < 2 ^ f.width) :
    withSign f (!signBit f x) (magBits f x) = (x + 2 ^ (f.width - 1)) % 2 ^ f.width := by
  have hp : 0 < 2 ^ (f.width - 1) := Nat.two_pow_pos _
  rw [hf.half_add_half] at hx ⊢
  unfold withSign signBit magBits
  generalize 2 ^ (f.width - 1) = half at hp hx ⊢
  rcases Nat.lt_or_ge x half with h | h
  · have hsum : (x + half) % (half + half) = x + half := Nat.mod_eq_of_lt (by omega)
    simp [Nat.div_eq_of_lt h, Nat.mod_eq_of_lt h, hsum, Nat.add_comm]
  · have hdiv : x / half = 1 := by rw [Nat.div_eq_iff hp]; omega
    have hmod : x % half = x - half := by rw [Nat.mod_eq_sub_mod h, Nat.mod_eq_of_lt (by omega)]
    have hsum : (x + half) % (half + half) = x - half := by
      rw [Nat.mod_eq_sub_mod (by omega), Nat.add_sub_add_right, Nat.mod_eq_of_lt (by omega)]
    simp [hdiv, hmod, hsum]

end Sys2Proof.Num

namespace Sys2Proof.Machine
open Sys2Proof.Num

theorem floatPick_lt {f : Fmt} (hf : Fits f) {greater : Bool} {x y : Nat} (hx : x < 2 ^ f.width) (hy : y < 2 ^ f.width) :
    floatPick f greater x y < 2 ^ f.width := by
  have := hf.nan
  unfold floatPick
  dsimp only
  (repeat' split) <;> assumption

theorem fclass_lt {f : Fmt} (hf : Fits f) (x : Nat) : fclass f x < 2 ^ f.width := by
  refine Nat.lt_of_lt_of_le ?_ (Nat.pow_le_pow_right (by decide) hf.width)
  unfold fclass
  dsimp only
  (repeat' split) <;> decide

end Sys2Proof.Machine
end

section
/-! SUPPORT. The floating-point instructions of row 0x6 and FDOT2 (R193 to R197). -/

namespace Sys2Proof.Claims
open Sys2Proof.Machine Sys2Proof.Num

theorem floatMode_iff {w : View} : floatMode w = true ↔ mrEtype w.mr = 6 ∨ mrEtype w.mr = 7 ∨ mrEtype w.mr = 8 := by
  simp [floatMode, etIn]

theorem etIn_singleton {w : View} {n : Nat} : etIn [n] w = true ↔ mrEtype w.mr = n := by simp [etIn]

theorem ffmt_fits (w : View) : Fits (ffmt w) := etFmt_fits _

theorem ffmt_width {w : View} (h : floatMode w = true) : (ffmt w).width = etBits (mrEtype w.mr) := by
  rcases floatMode_iff.1 h with e | e | e <;> simp only [ffmt, e] <;> rfl

/-- A typed operand of a floating-point mode is a word. -/
theorem rdT_of_floatMode {w : View} (h : floatMode w = true) (x : Byte) (k : Nat) : rdT w x k = (rd w x k).setWidth 64 := by
  refine if_neg fun e => ?_
  rcases floatMode_iff.1 h with e' | e' | e' <;> omega

theorem fval_floatElem {w : View} (h : floatMode w = true) (x : Byte) (k j : Nat) :
    fval (etFmt (mrEtype w.mr)) (floatElem w x k j) = valElem w x k j := by
  rw [floatElem, rdT_of_floatMode h]; rfl

theorem elemFloats_eq {w : View} (h : floatMode w = true) (d x y : Byte) (g : FVal → FVal → FVal → Nat) :
    elemFloats w d x y g = wr w d fun k =>
      (mapElems (mrEtype w.mr) fun j => g (valElem w d k j) (valElem w x k j) (valElem w y k j)).setWidth 32 := by
  simp only [elemFloats, fval_floatElem h]

theorem elemBits_eq {w : View} (h : floatMode w = true) (d x y : Byte) (g : Nat → Nat → Nat) :
    elemBits w d x y g = wr w d fun k =>
      (mapElems (mrEtype w.mr) fun j => g (rawElem w x k j) (rawElem w y k j)).setWidth 32 := by
  simp only [elemBits, rdT_of_floatMode h]; rfl

/-! ## The element rules -/

theorem rawElem_lt (w : View) (x : Byte) (k j : Nat) : rawElem w x k j < 2 ^ (ffmt w).width := elemOf_lt _ _ _

theorem ffl_rawElem_lt (w : View) (x : Byte) (k j : Nat) : ffl w (ffmt w) (rawElem w x k j) < 2 ^ (ffmt w).width :=
  flush_lt (ffmt_fits w) (rawElem_lt w x k j)

theorem oneRound_lt (w : View) (v : FVal) : oneRound w v < 2 ^ (ffmt w).width :=
  flush_lt (ffmt_fits w) (roundTo_lt (ffmt_fits w) _ v)

/-- Every rule gives an encoding of the mode's format. -/
theorem floatRule_lt {w : View} {k j : Nat} {i : Instr} {d : Byte} {x : Nat} (h : floatRule w k j i = some (d, x)) :
    x < 2 ^ (ffmt w).width := by
  have hf := ffmt_fits w
  unfold floatRule at h
  split at h <;> cases h
  -- FMIN and FMAX, FABS, FNEG, FCLASS; the others round
  case h_5 | h_6 => exact floatPick_lt hf (ffl_rawElem_lt ..) (ffl_rawElem_lt ..)
  case h_7 => exact Nat.lt_of_lt_of_le (magBits_lt (ffmt w) _) (hf.half_add_half ▸ Nat.le_add_right _ _)
  case h_8 => exact Nat.mod_lt _ (Nat.two_pow_pos _)
  case h_10 => exact fclass_lt hf _
  all_goals exact oneRound_lt w _

/-- The element of the result in lane `k`, 0 where the instruction has no rule. -/
def floatElement (i : Instr) (w : View) (k j : Nat) : Nat := (floatRule w k j i).elim 0 Prod.snd

/-- The lane's value, put together from the elements. -/
def floatLane (i : Instr) (w : View) (k : Nat) : BitVec 64 := mapElems (mrEtype w.mr) (floatElement i w k)

/-- Whether an instruction has a rule, and its D, do not depend on the view or the lane. -/
theorem floatRule_eq {w0 : View} {k0 j0 : Nat} {i : Instr} {d : Byte} {x0 : Nat} (h : floatRule w0 k0 j0 i = some (d, x0))
    (w : View) (k j : Nat) : floatRule w k j i = some (d, floatElement i w k j) := by
  unfold floatRule at h
  split at h <;> cases h <;> rfl

theorem elemOf_floatLane {w0 w : View} {k0 j0 k j : Nat} {i : Instr} {d : Byte} {x0 : Nat}
    (h : floatRule w0 k0 j0 i = some (d, x0)) (hm : floatMode w = true) (hj : j < etCount (mrEtype w.mr)) :
    elemOf (ffmt w).width (floatLane i w k) j = floatElement i w k j := by
  rw [ffmt_width hm, floatLane, elemOf_mapElems _ hj, ← ffmt_width hm]
  exact Nat.mod_eq_of_lt (floatRule_lt (floatRule_eq h w k j))

/-- Each instruction of the element rules writes the lanes put together from them. -/
theorem writes_floatLane {s : State} {i : Instr} {w0 : View} {d : Byte} {x0 : Nat} (h : floatRule w0 0 0 i = some (d, x0)) :
    Writes s i fun w => wr w d fun k => (floatLane i w k).setWidth 32 := by
  unfold floatRule at h
  split at h <;> cases h
  -- FMIN, FMAX, FABS and FCLASS work on the bits, as FNEG does; the others on the values
  case h_5 | h_6 | h_7 | h_10 => exact writes_of_issue rfl rfl rfl fun w _ hm => elemBits_eq hm ..
  case h_8 =>
    refine writes_of_issue rfl rfl rfl fun w _ hm => (elemBits_eq hm ..).trans ?_
    congr; funext k; congr; funext j
    exact withSign_not_signBit (ffmt_fits w) (rawElem_lt ..)
  all_goals exact writes_of_issue rfl rfl rfl fun w _ hm => elemFloats_eq hm ..

theorem floatElements : Claims.FloatArithmetic := fun _ i _ _ _ h =>
  ⟨floatLane i, fun w k j hm hj => by rw [elemOf_floatLane h hm hj, floatRule_eq h w k j], writes_floatLane h⟩

/-! ## FSCALE and FDOT2 -/

theorem floatElem_binary32 {w : View} (h : mrEtype w.mr = 6) (x : Byte) (k : Nat) :
    floatElem w x k 0 = ffl w fmt32 (rd w x k).toNat := by
  rw [floatElem, rdT_of_floatMode (floatMode_iff.2 (.inl h)), h, ffl, ← elemOf_word]
  rfl

/-- Infinities and the canonical NaN are not subnormal. -/
theorem isSub_roundTo_of_not_finite {m : Rnd} {v : FVal} (h : ∀ neg q, v ≠ .fin neg q) :
    isSub fmt32 (roundTo fmt32 m v) = false := by
  cases v with
  | nan => simp only [roundTo]; decide
  | inf neg => cases neg <;> simp only [roundTo] <;> decide
  | fin neg q => exact absurd rfl (h neg q)

theorem ffl_roundTo_of_not_finite (w : View) {m : Rnd} {v : FVal} (h : ∀ neg q, v ≠ .fin neg q) :
    ffl w fmt32 (roundTo fmt32 m v) = roundTo fmt32 m v := by
  simp [ffl, flush, isSub_roundTo_of_not_finite h]

theorem fscale_finite {w : View} (h : mrEtype w.mr = 6) (neg : Bool) (q : Q) (n : Int) :
    fscale w (.fin neg q) n =
      ffl w fmt32 (roundTo fmt32 (mrRnd w.mr) (.fin neg (qMul q (qPow2 (max (-600) (min 600 n)))))) := by
  simp only [fscale, roundF, h]; rfl

theorem fscale_not_finite {w : View} (h : mrEtype w.mr = 6) {v : FVal} (hv : ∀ neg q, v ≠ .fin neg q) (n : Int) :
    fscale w v n = roundTo fmt32 (mrRnd w.mr) v := by
  have hf : fscale w v n = roundF w v := by
    unfold fscale
    split
    · exact absurd rfl (hv _ _)
    · rfl
  rw [hf, ← ffl_roundTo_of_not_finite w hv, roundF, h]; rfl

theorem valElem_half {w : View} (h : etIn [7, 8] w = true) (x : Byte) (k j : Nat) :
    valElem w x k j =
      fval (etFmt (mrEtype w.mr)) (flush (mrFlush w.mr) (etFmt (mrEtype w.mr)) (elemOf 16 ((rd w x k).setWidth 64) j)) := by
  have he : mrEtype w.mr = 7 ∨ mrEtype w.mr = 8 := by simpa [etIn] using h
  have hw : (ffmt w).width = 16 := by rcases he with e | e <;> simp only [ffmt, e] <;> rfl
  rw [valElem, rawElem, hw]; rfl

theorem fdot2_eq {w : View} (h : etIn [7, 8] w = true) (d a b : Byte) (k : Nat) :
    fdot2 w (rd w d k) (rd w a k) (rd w b k) =
      ffl w fmt32 (roundTo fmt32 (mrRnd w.mr)
        (fadd (mrRnd w.mr)
          (fadd (mrRnd w.mr) (fval fmt32 (ffl w fmt32 (rd w d k).toNat)) (fmul (valElem w a k 0) (valElem w b k 0)))
          (fmul (valElem w a k 1) (valElem w b k 1)))) := by
  simp only [valElem_half h]; rfl

theorem fscaleFdot2 : FscaleFdot2 := by
  intro s d a b
  refine ⟨writes_of_issue rfl rfl rfl fun w _ hm => ?_, writes_of_issue rfl rfl rfl fun w _ hm => ?_⟩
  · have h6 : mrEtype w.mr = 6 := etIn_singleton.1 hm
    refine congrArg (wr w d) (funext fun k => ?_)
    rw [floatElem_binary32 h6]
    cases fval fmt32 (ffl w fmt32 (rd w a k).toNat) with
    | nan | inf neg => exact congrArg _ (fscale_not_finite h6 (fun _ _ => FVal.noConfusion) _)
    | fin neg q => exact congrArg _ (fscale_finite h6 neg q _)
  · simp only [wordRegs, fdot2_eq hm]

/-- Settles O20: each element is the encoding of the one rounding that its rule names, and stays within its format. -/
theorem floatArithmetic : Obligations.FloatArithmetic := ⟨floatElements, fscaleFdot2⟩

end Sys2Proof.Claims
end

section
/-! SUPPORT. What the tables and the memories read after reset (R14, R438, R450): the default entry, listed or not, and no
byte. -/

namespace Sys2Proof.Machine

/-- A table of default entries reads as the default past its end too. -/
theorem getD_replicate_default {α : Type} (n i : Nat) (a : α) : (List.replicate n a).getD i a = a := by
  rw [List.getD_eq_getElem?_getD, List.getElem?_replicate]
  split <;> rfl

@[simp] theorem core_reset (c : Nat) : State.reset.core c = {} := getD_replicate_default 256 c ({} : Core)

@[simp] theorem die_reset (d : Nat) : State.reset.die d = {} := getD_replicate_default 4 d ({} : Die)

@[simp] theorem harness_reset (h : Nat) : State.reset.harness h = {} := rfl

/-- The virtual functions and the physical one alike. -/
@[simp] theorem func_reset (f : Nat) : State.reset.func f = {} := by
  unfold State.func
  split
  · exact getD_replicate_default 64 f ({} : Func)
  · rfl

/-- Every place lies in a memory that lists no byte. -/
theorem memAt_reset (l : Loc) : (State.reset.memAt l).1 = [] := by
  cases l with
  | shared h a => exact congrArg Harness.shared (harness_reset h)
  | scratch d a => exact congrArg Die.scratch (die_reset d)
  | hbm | cxl | host | peer | zero => rfl

/-- An unlisted byte reads 0. -/
@[simp] theorem byteAt_reset (l : Loc) : State.reset.byteAt l = 0 := by
  rw [State.byteAt, memAt_reset]; rfl

end Sys2Proof.Machine

namespace Sys2Proof.Claims
open Sys2Proof.Machine

/-- Settles O6: the tables hold nothing but default entries, and no memory lists a byte. -/
theorem resetValues : Obligations.ResetValues := by
  refine ⟨List.length_replicate, List.length_replicate, List.length_replicate, fun f _ => ?states, fun c => ?cores,
    rfl, rfl, rfl, rfl, fun d => ?scratch, fun h => ?shared, fun f => ?windows, byteAt_reset, rfl, rfl, rfl, fun f q => ?queues⟩
  case states => rw [func_reset]
  case cores => rw [core_reset]; exact ⟨rfl, rfl, rfl⟩
  case scratch => rw [die_reset]
  case shared => rw [harness_reset]
  case windows => rw [func_reset]; exact ⟨rfl, rfl⟩
  case queues => rw [func_reset]; rfl

end Sys2Proof.Claims
end

section
/-! SUPPORT. What an access of a lane past 1,023 does to the register file, where a vector register has 1,024 keys, and why the
statement on the passes of accesses fails there. -/

namespace Sys2Proof.Machine

/-- The register file of a team after it has been replaced. -/
theorem curRegs_putRegs {s : State} {t : Nat} {r : RegFile} (h : s.cur = .team t) (ht : t < s.teams.length) :
    (s.putRegs r).curRegs = r := by
  rw [putRegs_of h, State.curRegs, State.putTeam_cur, h]
  exact congrArg Team.regs (State.team_putTeam_same ht)

theorem putRegs_teams_length (s : State) (r : RegFile) : (s.putRegs r).teams.length = s.teams.length := by
  unfold State.putRegs
  split
  · exact List.length_set
  · rfl
  · rfl

/-- A lane past the last one has the key of a lane of the next register. -/
theorem vkey_beyond (n k : Nat) : vkey n (1024 + k) = vkey (n + 1) k := by unfold vkey; omega

/-- A word put into a lane past the last one of a vector register is found in the next register. -/
theorem getV_putLane_beyond {r : RegFile} {d : Byte} {k : Nat} {v : Word} (hd : isV d = true) (hr : r.wf = true) :
    getV (putLane r d (1024 + k) v) (d.toNat + 1) k = v := by
  rw [putLane, opd_of_isV hd, getV, putV_v, ← vkey_beyond]
  exact sget_sset_same (RegFile.wf_v hr)

end Sys2Proof.Machine

namespace Sys2Proof.Claims
open Sys2Proof.Machine

/-- Refutes O60: the clause on what a register takes bounds the addresses of the accesses but not their lanes. The one
access here, of lane 1024, reads the word 1 and names v0; the word enters lane 0 of v1, which no access names. -/
theorem not_passesInOrder : ¬ Obligations.PassesInOrder := by
  unfold Obligations.PassesInOrder
  rintro ⟨hregs, -⟩
  obtain ⟨s1, r, hrun, ⟨hrest, -⟩, -, hv, -⟩ :=
    hregs { cur := .team 0, teams := [{}], harnesses := [{ shared := [(0, 1)] }] } 0 0 false
      [{ lane := 1024, addr := 0, dst := some 0 }] (by decide +kernel) ⟨by decide, rfl⟩ rfl (by decide)
  -- the statement: v1 keeps its 0, since the access names v0
  have hkept : getV r 1 0 = 0 := hv 1 0 (by decide)
  -- the model: `r` holds the word that the access found, put into lane 1024 of v0
  have hcur : s1.cur = .team 0 := congrArg State.cur hrest
  have hlen : s1.teams.length = 1 := by rw [← putRegs_teams_length s1 r, ← hrun]; rfl
  have hr : r = putLane {} 0 1024 1 := by
    rw [← curRegs_putRegs (r := r) hcur (by omega), ← hrun]; rfl
  have hwritten : getV r 1 0 = 1 := hr ▸ getV_putLane_beyond (d := 0) (k := 0) rfl rfl
  exact absurd (hkept.symm.trans hwritten) (by decide)

end Sys2Proof.Claims
end
